-- ==== Sys2Proof/Word.lean ====
section
/-! DEFINITION. The word types of the YG-6300 and the plain facts about their widths (spec/00 R3, spec/01 R6). -/

namespace Sys2Proof

/-- A byte of memory (R3). -/
abbrev Byte := BitVec 8

/-- A 32-bit word: an instruction word, one lane of a vector register (R3, R6). -/
abbrev Word := BitVec 32

/-- A 64-bit scalar register, a memory double word, a virtual address before its check (R6). -/
abbrev DWord := BitVec 64

/-- A set of lanes: bit i is lane i (R6). -/
abbrev LaneSet := BitVec 32

/-- The lane numbers of a group, in increasing order (R144). -/
def allLanes : List Nat := List.range 32

/-- The lanes of a set, in increasing order. -/
def lanesOf (m : LaneSet) : List Nat := allLanes.filter fun l => m.getLsbD l

/-- The set that holds one lane. -/
def laneBit (l : Nat) : LaneSet := BitVec.ofNat 32 (2 ^ l)

/-- The set of a list of lanes. -/
def laneSetOf (ls : List Nat) : LaneSet := ls.foldl (fun m l => m ||| laneBit l) 0

/-- The set of the lanes that satisfy a test. -/
def laneSetWhere (f : Nat → Bool) : LaneSet := laneSetOf (allLanes.filter f)

end Sys2Proof
end

