-- ==== Sys2Proof/Config.lean ====
section
/-! DEFINITION. What an implementation of the device fixes (spec/00 Table 0.1) and the free values: constants with no
body, of which nothing can be proved (log 4, 5, 9, 12, 13). -/

namespace Sys2Proof.Config

/-- Homes of one package (00 Table 0.1). -/
def homesPerPackage : Nat := 12
/-- Cores of one home (00 Table 0.1). -/
def coresPerHome : Nat := 40
/-- Group slots of one partition (09 R144). -/
def slotsPerPartition : Nat := 16
/-- Vector registers of one partition (09 R144). -/
def registersPerPartition : Nat := 1024
/-- Groups that a package holds (13 R228). -/
def groupsPerPackage : Nat := 61440
/-- Tile-store rows of one partition (09 R144). -/
def tileRowsPerPartition : Nat := 256
/-- Bytes of a core's scratchpad (07 R134). -/
def scratchBytes : Nat := 262144
/-- Bytes of a home's first-tier stack (13 R207). -/
def tier0Bytes : Nat := 36 * 2 ^ 30
/-- Bytes of a home's second-tier channel (13 R207). -/
def tier1Bytes : Nat := 192 * 2 ^ 30
/-- Bytes of a home's parking area, at tier-0 offset 0 (13 R207). -/
def parkingBytes : Nat := 2 ^ 30

/-- FREE VALUE (log 4). The result of a special function, named by its opcode, for its operand patterns, before
the bound of 07 R122 is applied to it. -/
opaque special : Nat → Nat → Nat → Nat

/-- FREE VALUE (log 5). The k-th choice between a held copy and the memory's value (01 R16, 13 R212, R215). -/
opaque keepsOld : Nat → Bool

/-- FREE VALUE (log 9). The k-th identity the device offers for a group or a team (05 R94, 15 R261). -/
opaque freshIdentity : Nat → Word

/-- FREE VALUE (log 12). The k-th place the core offers for a lease, in units of 128 bytes (07 R134, 13 R229). -/
opaque leasePlace : Nat → Nat

/-- FREE VALUE (log 12). The k-th place that a home offers for a launch team's record in its parking area, in units of 64
bytes (09 R152). -/
opaque teamPlace : Nat → Nat

/-- FREE VALUE (log 12). The k-th choice among homes that the spec leaves to the device: where a resumed group or team is
placed, and which home takes the records of one that drains (21 R326, 12 R206). -/
opaque homeChoice : Nat → Nat

/-- FREE VALUE (log 13). SHAKE256 of a byte string, truncated to a number of bytes (26 R379, R383). -/
opaque shake256 : List Byte → Nat → List Byte

/-- FREE VALUE (log 13). The ML-DSA-65 public key that the package seed gives (26 R383). -/
opaque publicKey : List Byte → List Byte

/-- FREE VALUE (log 13). The 3,309 bytes of the ML-DSA-65 signature of a message under the key of a seed (26 R383). -/
opaque signature : List Byte → List Byte → List Byte

/-- FREE VALUE (log 13). The secret that die `d` of package `p` corrects its start-up pattern to (26 R383). -/
opaque dieSecret : Nat → Nat → List Byte

/-- FREE VALUE (log 33). Header, context descriptor and handler address of the queue that a boot image carries (26 R382). -/
opaque bootQueue : List Byte → Nat × Nat × DWord

/-- FREE VALUE (log 33). Whether the signature of a home's firmware image verifies (26 R385). -/
opaque updateSigned : List Byte → Bool

/-- FREE VALUE (log 33). Whether the k-th calibration succeeds (26 R385). -/
opaque calibrates : Nat → Bool

/-- FREE VALUE (log 16). The cause that a double trap for want of a free split-table entry passes to the driver (21 R317). -/
opaque noEntryCause : Nat

/-- FREE VALUE (log 20). Whether the self-test of a core finds row `n` of the tile store of partition `q` failing (08 R142). -/
opaque badTileRow : Nat → Nat → Nat → Bool

/-- FREE VALUE (log 25). The k-th byte that an engine takes from a poisoned granule (22 R338, R339). -/
opaque poisonByte : Nat → Byte

/-- FREE VALUE (log 26). The k-th choice of the shadow checker's generator (18 R284). -/
opaque shadowPick : Nat → Nat

/-- FREE VALUE (log 93). What the cursor becomes of a lane for which ERET finds a byte above 64 in the frame: the k-th such value (07
R127 Table 7.4, 21 R318). -/
opaque strayCursor : Nat → Nat

/-- FREE VALUE (log 38). The fabric port, if any, of a package in the domain that faces the k-th package to power on with the same
slot number (26 R382). -/
opaque twinPort : Nat → Option Nat

/-- FREE VALUE (log 35). The rkey of the queue pair that the k-th free choice creates (26 R377). -/
opaque queueRkey : Nat → BitVec 32

end Sys2Proof.Config
end

