-- ==== Sys2Proof/Syntax.lean ====
section
/-! DEFINITION. The instructions and steps of the YG-6300 (spec/02 Tables 2.3 to 2.17, spec/opcode_table.json): one
constructor for every row of the table. The rows that have words are instructions; the others are the steps of spec/95
that no word names, with operands that say whose step it is. -/

namespace Sys2Proof

/-- A scalar register field (R30). -/
abbrev SReg := BitVec 6
/-- A predicate register field (R30). -/
abbrev PReg := BitVec 3
/-- A vector register field (R30). -/
abbrev VReg := BitVec 7
/-- Signed word offset of a branch (R31). -/
abbrev Off := BitVec 20
/-- Immediate of the SI and SY formats (R29). -/
abbrev Imm14 := BitVec 14

/-- Engine classes (02 Table 2.9). -/
inductive EngineClass where
  | sctl | valu | vspc | mem | mtx | copy | sync | sys
  deriving DecidableEq, Repr

/-- Rounding modes, in code order (R63). -/
inductive RM where
  | rne | rtz | rup | rdn
  deriving DecidableEq, Repr

/-- SCMP conditions, in code order (05 Table 5.3). -/
inductive SCond where
  | eq | ne | lt | le | gt | ge | ltu | leu | gtu | geu
  deriving DecidableEq, Repr

/-- Compare conditions of the VC format, in code order (06 Table 6.6). -/
inductive Cond where
  | eq | ne | lt | le | gt | ge | ord | uno
  deriving DecidableEq, Repr

/-- VOTE conditions, in code order (R187). -/
inductive VoteCond where
  | all | any | uni | match_
  deriving DecidableEq, Repr

/-- Integer reduction and scan operations, in code order (11 Table 11.4); `fadd` is SCAN's alone. -/
inductive ScanOp where
  | add | min | max | minu | maxu | and | or | xor | fadd
  deriving DecidableEq, Repr

/-- REDF operations, in code order (11 Table 11.3). -/
inductive RedfOp where
  | add | min | max
  deriving DecidableEq, Repr

/-- Branch hints of BRP, in code order (R183). -/
inductive Hint where
  | pred | taken | fall | nospec
  deriving DecidableEq, Repr

/-- The predicate forms of EMWR, FN 1 to 3 (11 Table 11.1). -/
inductive EmOp where
  | set | and | andn
  deriving DecidableEq, Repr

/-- Conversion types, by the codes of 06 Table 6.7. -/
inductive CvtType where
  | fp32 | fp16 | bf16 | e4m3 | e5m2 | int8 | fp64 | int32 | uint32 | int16 | uint16 | uint8 | int64 | uint64
  deriving DecidableEq, Repr

/-- Scope codes (14 Table 14.4). -/
inductive Scope where
  | grp | home | pkg | fab | sys | mantle
  deriving DecidableEq, Repr

/-- Order codes (14 Table 14.5). -/
inductive Order where
  | rlx | acq | rel | ar | sc
  deriving DecidableEq, Repr

/-- SEAM modes (R190). -/
inductive SeamMode where
  | arm | join | merge
  deriving DecidableEq, Repr

/-- Outstanding-operation counters, in WAITC code order (R308). -/
inductive Ctr where
  | copy | matrix | post | sync
  deriving DecidableEq, Repr

/-- SWEEP operations (R306). -/
inductive SweepOp where
  | cvt | scale | relu | scrl
  deriving DecidableEq, Repr

/-- Special registers (05 Table 5.4). -/
inductive SpecialReg where
  | laneid | grpid | teamid | splitid | homeid | basehome | coreslot | resgen | clock | fpstat | recidx | grpinrec
  deriving DecidableEq, Repr

/-- System registers (23 Table 23.2). -/
inductive SysReg where
  | trapvec | trapcause | trappc | trapaddr | trapmask | traphdr | ctxbase | rpseq | rppc | rpjkt | teamstat
  | diaginj | repairbase
  | splitLo (n : BitVec 5)
  | splitHi (n : BitVec 5)
  | seamSv (k : BitVec 4)
  deriving DecidableEq, Repr

/-- A source operand of the VR and VC formats (02 Table 2.5); an illegal code keeps its number and traps when the
instruction executes. -/
inductive Src where
  | v (n : VReg)
  | s (n : SReg)
  | latch (n : BitVec 2)
  | const (n : BitVec 4)
  | laneid
  | lit (w : Word)
  | illegal (code : Byte)
  deriving DecidableEq, Repr

/-- VR operands: NWB, destination, sources A and B. -/
structure VR where
  nwb : Bool
  d : VReg
  a : Src
  b : Src
  deriving DecidableEq, Repr

/-- VR operands of an instruction whose B field names no source. -/
structure VR1 where
  nwb : Bool
  d : VReg
  a : Src
  deriving DecidableEq, Repr

/-- VC operands: destination predicate, sources A and B. -/
structure VC where
  p : PReg
  a : Src
  b : Src
  deriving DecidableEq, Repr

/-- MM operands that read a live set. -/
structure MML where
  ls : BitVec 6
  vd : VReg
  va : VReg
  sb : SReg
  deriving DecidableEq, Repr

/-- MM operands with a scope and an order. -/
structure MMS where
  scope : Scope
  order : Order
  vd : VReg
  va : VReg
  sb : SReg
  deriving DecidableEq, Repr

/-- MM operands of a scratchpad access. -/
structure MMX where
  vd : VReg
  va : VReg
  sb : SReg
  deriving DecidableEq, Repr

/-- SA operands: instruction word and extension word; `w64` is the suffix .w64 (03 R48 Table 3.2). -/
structure SA where
  ls : BitVec 6
  vd : VReg
  va : VReg
  sb : SReg
  scope : Scope
  order : Order
  w64 : Bool
  vx : VReg
  vc : VReg
  deriving DecidableEq, Repr

/-- MX operands, with the matrix flags .acc .neg .trb .evt .reuse (02 Table 2.3, 03 R48 Table 3.2). -/
structure MX where
  shape : BitVec 5
  fs : BitVec 3
  reuse : Bool
  a : VReg
  desc : SReg
  acc : Bool
  neg : Bool
  trb : Bool
  evt : Bool
  deriving DecidableEq, Repr

/-- Operands of a control-page command entry: package, slot arguments A0 to A6 (R380). -/
structure CmdArgs where
  pkg : Nat
  a0 : DWord
  a1 : DWord
  a2 : DWord
  a3 : DWord
  a4 : DWord
  a5 : DWord
  a6 : DWord
  deriving DecidableEq, Repr

/-- A queue pair of a port of a package (R377). -/
structure QpId where
  pkg : Nat
  port : Nat
  qpn : Nat
  deriving DecidableEq, Repr

/-- What an uncorrectable ECC error hits (22 R338, Table 22.4). -/
inductive EccSite where
  | line (pa : Nat)
  | scratch (core : Nat) (offset : Nat)
  | tileRow (gid : Word) (row : Nat)
  | vreg (gid : Word) (reg : Nat) (lane : Nat)
  | sreg (gid : Word) (split : Nat) (reg : Nat)
  | preg (gid : Word) (reg : Nat)
  deriving DecidableEq, Repr

/-- The instructions and steps: one constructor for every row of spec/opcode_table.json. -/
inductive Instr where
  /-- SNOP (R83). -/
  | snop
  /-- SMOV (R83). -/
  | smov (d a : SReg)
  /-- SMOVI (R83). -/
  | smovi (d : SReg) (i : Imm14)
  /-- SLIT (R86). -/
  | slit (d : SReg) (l : Word)
  /-- SLITH (R86). -/
  | slith (d a : SReg) (l : Word)
  /-- SADD (R83). -/
  | sadd (d a b : SReg)
  /-- SADDI (R83). -/
  | saddi (d a : SReg) (i : Imm14)
  /-- SSUB (R83). -/
  | ssub (d a b : SReg)
  /-- SMUL (R83). -/
  | smul (d a b : SReg)
  /-- SMULH (R83). -/
  | smulh (sgn : Bool) (d a b : SReg)
  /-- SAND (R83). -/
  | sand (d a b : SReg)
  /-- SANDI (R83). -/
  | sandi (d a : SReg) (i : Imm14)
  /-- SOR (R83). -/
  | sor (d a b : SReg)
  /-- SORI (R83). -/
  | sori (d a : SReg) (i : Imm14)
  /-- SXOR (R83). -/
  | sxor (d a b : SReg)
  /-- SXORI (R83). -/
  | sxori (d a : SReg) (i : Imm14)
  /-- SSHL (R84). -/
  | sshl (d a b : SReg)
  /-- SSHLI (R84). -/
  | sshli (d a : SReg) (n : BitVec 6)
  /-- SSHR (R84). -/
  | sshr (d a b : SReg)
  /-- SSHRI (R84). -/
  | sshri (d a : SReg) (n : BitVec 6)
  /-- SSRA (R84). -/
  | ssra (d a b : SReg)
  /-- SSRAI (R84). -/
  | ssrai (d a : SReg) (n : BitVec 6)
  /-- SMIN (R83). -/
  | smin (sgn : Bool) (d a b : SReg)
  /-- SMAX (R83). -/
  | smax (sgn : Bool) (d a b : SReg)
  /-- SCMP (R85). -/
  | scmp (c : SCond) (d a b : SReg)
  /-- SPOPC (R83). -/
  | spopc (d a : SReg)
  /-- SCLZ (R83). -/
  | sclz (d a : SReg)
  /-- SCMOV (R83). -/
  | scmov (z : Bool) (d a b : SReg)
  /-- BRA (R87). -/
  | bra (p : PReg) (neg : Bool) (off : Off)
  /-- BRP (R183). -/
  | brp (h : Hint) (p : PReg) (neg : Bool) (off : Off)
  /-- BRZ (R88). -/
  | brz (n : SReg) (off : Off)
  /-- BRNZ (R88). -/
  | brnz (n : SReg) (off : Off)
  /-- CALL (R90). -/
  | call (n : SReg) (off : Off)
  /-- JMPR (R91). -/
  | jmpr (d a : SReg)
  /-- LOOP (R89). -/
  | loop (n : SReg) (off : Off)
  /-- EXIT (R92). -/
  | exit
  /-- YIELD (R93). -/
  | yield
  /-- PLOG (R184). -/
  | plog (d a b : PReg) (tt : BitVec 4)
  /-- PMOV_TO_PREDICATE (R184). -/
  | pmovToPredicate (d : PReg) (a : SReg)
  /-- PMOV_TO_SCALAR (R184). -/
  | pmovToScalar (d : SReg) (a : PReg)
  /-- EMRD (R184). -/
  | emrd (d : SReg) (lanes : Bool)
  /-- EMWR (R184). -/
  | emwr (a : SReg)
  /-- EMWR_PREDICATE (R184). -/
  | emwrPredicate (f : EmOp) (a : PReg)
  /-- PCNT (R184). -/
  | pcnt (d : SReg) (a : PReg) (lanes : Bool)
  /-- PFIRST (R184). -/
  | pfirst (d : SReg) (a : PReg) (last : Bool)
  /-- SREAD (R94). -/
  | sread (d : SReg) (n : SpecialReg)
  /-- SWRITE (R94, R97). -/
  | swrite (n : SpecialReg) (a : SReg)
  /-- VMOV (R102). -/
  | vmov (f : VR1)
  /-- VADD (R102). -/
  | vadd (f : VR)
  /-- VSUB (R102). -/
  | vsub (f : VR)
  /-- VMUL (R102). -/
  | vmul (f : VR)
  /-- VMULH (R102). -/
  | vmulh (sgn : Bool) (f : VR)
  /-- VMAD (R102). -/
  | vmad (f : VR)
  /-- VAND (R102). -/
  | vand (f : VR)
  /-- VOR (R102). -/
  | vor (f : VR)
  /-- VXOR (R102). -/
  | vxor (f : VR)
  /-- VANDN (R102). -/
  | vandn (f : VR)
  /-- VSHL (R103). -/
  | vshl (f : VR)
  /-- VSHR (R103). -/
  | vshr (f : VR)
  /-- VSRA (R103). -/
  | vsra (f : VR)
  /-- VMIN (R102). -/
  | vmin (sgn : Bool) (f : VR)
  /-- VMAX (R102). -/
  | vmax (sgn : Bool) (f : VR)
  /-- VABS (R104). -/
  | vabs (sat : Bool) (f : VR1)
  /-- VADDS (R104). -/
  | vadds (sgn : Bool) (f : VR)
  /-- VSUBS (R104). -/
  | vsubs (sgn : Bool) (f : VR)
  /-- VADD64 (R105). -/
  | vadd64 (f : VR)
  /-- VSUB64 (R105). -/
  | vsub64 (f : VR)
  /-- VMULW (R105). -/
  | vmulw (sgn : Bool) (f : VR)
  /-- VSEL (R106). -/
  | vsel (m : BitVec 2) (f : VR)
  /-- FADD (R107). -/
  | fadd (rm : RM) (f : VR)
  /-- FSUB (R107). -/
  | fsub (rm : RM) (f : VR)
  /-- FMUL (R107). -/
  | fmul (rm : RM) (f : VR)
  /-- FFMA (R107). -/
  | ffma (rm : RM) (f : VR)
  /-- FFMS (R107). -/
  | ffms (rm : RM) (f : VR)
  /-- FMIN (R108). -/
  | fmin (f : VR)
  /-- FMAX (R108). -/
  | fmax (f : VR)
  /-- DADD (R107). -/
  | dadd (rm : RM) (f : VR)
  /-- DSUB (R107). -/
  | dsub (rm : RM) (f : VR)
  /-- DMUL (R107). -/
  | dmul (rm : RM) (f : VR)
  /-- DFMA (R107). -/
  | dfma (rm : RM) (f : VR)
  /-- DMIN (R108). -/
  | dmin (f : VR)
  /-- DMAX (R108). -/
  | dmax (f : VR)
  /-- HADD2 (R109). -/
  | hadd2 (rm : RM) (f : VR)
  /-- HMUL2 (R109). -/
  | hmul2 (rm : RM) (f : VR)
  /-- HFMA2 (R109). -/
  | hfma2 (rm : RM) (f : VR)
  /-- BFMA2 (R109). -/
  | bfma2 (rm : RM) (f : VR)
  /-- DOT4 (R110). -/
  | dot4 (sgn : Bool) (f : VR)
  /-- DOT2H (R111). -/
  | dot2h (rm : RM) (f : VR)
  /-- VCMP (R112). -/
  | vcmp (c : Cond) (f : VC)
  /-- VCMPU (R112). -/
  | vcmpu (c : Cond) (f : VC)
  /-- FCMP (R112). -/
  | fcmp (c : Cond) (f : VC)
  /-- DCMP (R112). -/
  | dcmp (c : Cond) (f : VC)
  /-- CVT (R115). -/
  | cvt (rm : RM) (f : VR1) (dst src : CvtType)
  /-- CVTF (R116). -/
  | cvtf (rm : RM) (f : VR1) (partner : CvtType) (fromSlot : Bool) (fs : BitVec 3)
  /-- PACK (R117). -/
  | pack (rm : RM) (f : VR)
  /-- UNPK (R118). -/
  | unpk (f : VR)
  /-- FRCP (R121). -/
  | frcp (f : VR1)
  /-- FRSQ (R121). -/
  | frsq (f : VR1)
  /-- FSQRT (R121). -/
  | fsqrt (f : VR1)
  /-- FDIV (R121). -/
  | fdiv (f : VR)
  /-- FEXP2 (R121). -/
  | fexp2 (f : VR1)
  /-- FLOG2 (R121). -/
  | flog2 (f : VR1)
  /-- FSINPI (R121). -/
  | fsinpi (f : VR1)
  /-- FCOSPI (R121). -/
  | fcospi (f : VR1)
  /-- FTANH (R121). -/
  | ftanh (f : VR1)
  /-- DRCPA (R121). -/
  | drcpa (f : VR1)
  /-- DRSQA (R121). -/
  | drsqa (f : VR1)
  /-- POPC (R124). -/
  | popc (f : VR1)
  /-- CLZ (R124). -/
  | clz (f : VR1)
  /-- BREV (R124). -/
  | brev (f : VR1)
  /-- BFE (R125). -/
  | bfe (sgn : Bool) (f : VR)
  /-- BFI (R125). -/
  | bfi (f : VR)
  /-- FUNSH (R126). -/
  | funsh (f : VR)
  /-- BSINIT (R128). -/
  | bsinit (a : Src)
  /-- BSRD (R129). -/
  | bsrd (f : VR)
  /-- BSFILL (R130). -/
  | bsfill (f : VR)
  /-- BSPEEK (R129). -/
  | bspeek (f : VR)
  /-- SHFL (R186). -/
  | shfl (f : VR)
  /-- SHFLUP (R186). -/
  | shflup (f : VR)
  /-- SHFLDN (R186). -/
  | shfldn (f : VR)
  /-- SHFLX (R186). -/
  | shflx (f : VR)
  /-- VOTE (R187). -/
  | vote (c : VoteCond) (p : PReg) (a : Src)
  /-- REDI (R185). -/
  | redi (f : VR1) (op : ScanOp)
  /-- REDF (R188). -/
  | redf (f : VR1) (op : RedfOp)
  /-- SCAN (R189). -/
  | scan (f : VR1) (excl : Bool) (op : ScanOp)
  /-- RDLANE (R187 Table 11.3). -/
  | rdlane (f : VR)
  /-- WRLANE (R187 Table 11.3). -/
  | wrlane (f : VR)
  /-- BCAST (R187 Table 11.3). -/
  | bcast (last : Bool) (f : VR1)
  /-- LDB (R248). -/
  | ldb (m : MML)
  /-- LDBS (R248). -/
  | ldbs (m : MML)
  /-- LDH (R248). -/
  | ldh (m : MML)
  /-- LDHS (R248). -/
  | ldhs (m : MML)
  /-- LDW (R248). -/
  | ldw (m : MML)
  /-- LDD (R248). -/
  | ldd (m : MML)
  /-- LDQ (R248). -/
  | ldq (m : MML)
  /-- LDAW (R249). -/
  | ldaw (m : MML) (scope : Scope) (order : Order)
  /-- LDAD (R249). -/
  | ldad (m : MML) (scope : Scope) (order : Order)
  /-- STB (R250). -/
  | stb (m : MMS)
  /-- STH (R250). -/
  | sth (m : MMS)
  /-- STW (R250). -/
  | stw (m : MMS)
  /-- STD (R250). -/
  | std (m : MMS)
  /-- STQ (R250). -/
  | stq (m : MMS)
  /-- STRW (R250). -/
  | strw (m : MMS)
  /-- STRD (R250). -/
  | strd (m : MMS)
  /-- LDPW (R248). -/
  | ldpw (m : MML)
  /-- LDPD (R248). -/
  | ldpd (m : MML)
  /-- STPW (R250). -/
  | stpw (m : MMS)
  /-- STPD (R250). -/
  | stpd (m : MMS)
  /-- LDSW (R131). -/
  | ldsw (m : MMX)
  /-- LDSD (R131). -/
  | ldsd (m : MMX)
  /-- LDSQ (R131). -/
  | ldsq (m : MMX)
  /-- STSW (R131). -/
  | stsw (m : MMX)
  /-- STSD (R131). -/
  | stsd (m : MMX)
  /-- STSQ (R131). -/
  | stsq (m : MMX)
  /-- MIGRATE (R251). -/
  | migrate (ls : BitVec 6) (va : VReg) (sb : SReg)
  /-- HOMEOF (R252). -/
  | homeof (m : MMX)
  /-- FENCE (R253). -/
  | fence (scope : Scope) (order : Order)
  /-- MMA (R296). -/
  | mma (m : MX)
  /-- MMAZ (R296). -/
  | mmaz (m : MX)
  /-- MMNP (R296). -/
  | mmnp (m : MX)
  /-- MCTR (R297). -/
  | mctr (m : MX)
  /-- TLDV (R298). -/
  | tldv (m : MX)
  /-- TSTV (R298). -/
  | tstv (m : MX)
  /-- TZERO (R298). -/
  | tzero (m : MX)
  /-- TEPI (R299). -/
  | tepi (m : MX)
  /-- TADDST (R300). -/
  | taddst (m : MX)
  /-- TSTORE (R300). -/
  | tstore (m : MX)
  /-- MREL (R301). -/
  | mrel
  /-- ITLD (R304). -/
  | itld (q p : SReg) (evw out : Bool)
  /-- CPIN (R304). -/
  | cpin (rec p : SReg) (evw : Bool)
  /-- CPGA (R304). -/
  | cpga (rec l p : SReg) (evw : Bool)
  /-- CPOUT (R304). -/
  | cpout (rec p : SReg) (evw : Bool)
  /-- CPSC (R304). -/
  | cpsc (rec l p : SReg) (evw : Bool)
  /-- CPSIG (R307). -/
  | cpsig (a x : SReg) (evw : Bool)
  /-- SWEEP (R306). -/
  | sweep (rec x p : SReg) (evw : Bool) (op : SweepOp) (out : Bool) (fs : BitVec 3)
  /-- CPFILL (R304). -/
  | cpfill (x p : SReg) (evw : Bool)
  /-- ATADD (R255). -/
  | atadd (m : SA)
  /-- ATMIN (R255). -/
  | atmin (m : SA)
  /-- ATMAX (R255). -/
  | atmax (m : SA)
  /-- ATMINU (R255). -/
  | atminu (m : SA)
  /-- ATMAXU (R255). -/
  | atmaxu (m : SA)
  /-- ATAND (R255). -/
  | atand (m : SA)
  /-- ATOR (R255). -/
  | ator (m : SA)
  /-- ATXOR (R255). -/
  | atxor (m : SA)
  /-- ATXCH (R255). -/
  | atxch (m : SA)
  /-- ATCAS (R255). -/
  | atcas (m : SA)
  /-- ATFADD (R255). -/
  | atfadd (m : SA)
  /-- RDADD (R257). -/
  | rdadd (m : MMS)
  /-- RDMIN (R257). -/
  | rdmin (m : MMS)
  /-- RDMAX (R257). -/
  | rdmax (m : MMS)
  /-- RDAND (R257). -/
  | rdand (m : MMS)
  /-- RDOR (R257). -/
  | rdor (m : MMS)
  /-- RDXOR (R257). -/
  | rdxor (m : MMS)
  /-- RDFADD (R257). -/
  | rdfadd (m : MMS)
  /-- RDDADD (R257). -/
  | rddadd (m : MMS)
  /-- DQPUSH (R259). -/
  | dqpush (m : SA)
  /-- DQPOP (R259). -/
  | dqpop (m : SA)
  /-- DQSTEAL (R259). -/
  | dqsteal (m : SA)
  /-- TJOIN (R261). -/
  | tjoin (a : SReg)
  /-- TLEAVE (R263). -/
  | tleave
  /-- BARRIVE (R264). -/
  | barrive
  /-- BARWAIT (R265). -/
  | barwait (ls : BitVec 6)
  /-- BARSYNC (R265). -/
  | barsync (ls : BitVec 6)
  /-- GENWAIT (R267). -/
  | genwait (ls : BitVec 6) (a b : SReg)
  /-- SIGDEC (R268). -/
  | sigdec (a b : SReg)
  /-- SIGWAIT (R268). -/
  | sigwait (ls : BitVec 6) (a b : SReg)
  /-- SEAM (R190). -/
  | seam (ls : BitVec 6) (mode : SeamMode) (k : BitVec 4)
  /-- WAITC (R308). -/
  | waitc (c : Ctr) (n : BitVec 6)
  /-- LEASE (R269). -/
  | lease (a : SReg)
  /-- UNLEASE (R270). -/
  | unlease
  /-- TRAP (R349). -/
  | trap (n : Imm14)
  /-- ERET (R318, R350). -/
  | eret
  /-- BRK (R349). -/
  | brk
  /-- RDSYS (R351). -/
  | rdsys (d : SReg) (n : SysReg)
  /-- WRSYS (R351). -/
  | wrsys (n : SysReg) (a : SReg)
  /-- IREGION (R352, R333). -/
  | iregion (ls : BitVec 6)
  /-- IREND (R352). -/
  | irend
  /-- SAFEPT (R352). -/
  | safept (ls : BitVec 6)
  /-- CKBEGIN (R345, R353). -/
  | ckbegin (ls : BitVec 6) (a : SReg)
  /-- CKCOMMIT (R345, R353). -/
  | ckcommit (ls : BitVec 6) (a : SReg)
  /-- RPGET (R353). -/
  | rpget (d a : SReg)
  /-- TLBINV (R354). -/
  | tlbinv (a : SReg) (n : BitVec 13)
  /-- ICINV (R355). -/
  | icinv (a : SReg) (n : BitVec 14)
  /-- HALT (R350). -/
  | halt
  /-- PREEMPT (R356). -/
  | preempt (k : BitVec 2) (a : SReg)
  /-- CLAUSE_FETCH (R13 step 1, R26). -/
  | clauseFetch (gid : Word) (sp : Nat)
  /-- CLAUSE_ISSUE (R13 step 2, R203). -/
  | clauseIssue (gid : Word) (sp : Nat)
  /-- ISSUE_DUE_LEVEL (R203 step 1). -/
  | issueDueLevel (part : Nat) (level : Nat)
  /-- COUNTER_ROOM (R14). -/
  | counterRoom (gid : Word) (sp : Nat)
  /-- SAFE_POINT_OVERRUN_TRAP (R323). -/
  | safePointOverrunTrap (gid : Word) (sp : Nat)
  /-- TRANSLATION_WALK_DONE (R212). -/
  | translationWalkDone (home : Nat) (ctx : Nat) (va : Nat)
  /-- IN_PLACE_ACCESS_COMPLETE (R231). -/
  | inPlaceAccessComplete (gid : Word) (access : Nat)
  /-- PACKET_ACCEPT (R224). -/
  | packetAccept (src dst : Nat)
  /-- HOT_LINE_RUN_CLOSE (R292). -/
  | hotLineRunClose (home : Nat) (pa : Nat)
  /-- ARRIVAL_ACKNOWLEDGE (R264). -/
  | arrivalAcknowledge (gid : Word)
  /-- HIERARCHICAL_ARRIVAL (R154). -/
  | hierarchicalArrival (src dst : Nat)
  /-- ORDERING_HOLD_END (R237, R238). -/
  | orderingHoldEnd (gid : Word) (sp : Nat)
  /-- JACKET_DEPART (R220, R224). -/
  | jacketDepart (gid : Word) (sp : Nat)
  /-- JACKET_ARRIVE (R220, R227). -/
  | jacketArrive (gid : Word) (sp : Nat)
  /-- ADMIT (R201). -/
  | admitItem (home : Nat)
  /-- WAIT_WAKE (R266). -/
  | waitWake (gid : Word) (sp : Nat)
  /-- SPIN_DETECTOR_FIRE (R180, R181). -/
  | spinDetectorFire (gid : Word) (sp : Nat)
  /-- SPIN_WAIT_TIMEOUT (R181). -/
  | spinWaitTimeout (gid : Word) (sp : Nat)
  /-- BRP_RESOLVE (R177, R178). -/
  | brpResolve (gid : Word)
  /-- MATRIX_OPERANDS_CONSUMED (R282). -/
  | matrixOperandsConsumed (gid : Word)
  /-- MATRIX_COMPLETE (R284, R285). -/
  | matrixComplete (gid : Word) (mismatch : Bool)
  /-- COPY_START (R289). -/
  | copyStart (gid : Word)
  /-- COPY_FINISH (R285, R288). -/
  | copyFinish (gid : Word) (cmd : Nat)
  /-- COPY_FAULT_REPORT (R290). -/
  | copyFaultReport (gid : Word)
  /-- WAIT_COUNTER_SATISFIED (R308). -/
  | waitCounterSatisfied (gid : Word) (sp : Nat)
  /-- TRAP_ENTRY (R314). -/
  | trapEntry (gid : Word) (sp : Nat)
  /-- HANDLER_START (R316). -/
  | handlerStart (gid : Word)
  /-- REGION_RESTART (R336). -/
  | regionRestart (gid : Word) (sp : Nat)
  /-- TEAM_ROLLBACK (R341). -/
  | teamRollback (gid : Word)
  /-- PREEMPT_SAVE (R324). -/
  | preemptSave (gid : Word)
  /-- TEAM_SAVE (R325). -/
  | teamSave (gid : Word)
  /-- GROUP_RETIRE (R159). -/
  | groupRetire (gid : Word)
  /-- APPEND (R139). -/
  | append (core : Nat) (values : List Word)
  /-- CARD_TAKE (R193, R145). -/
  | cardTake (home : Nat) (queue : Nat)
  /-- CHUNK_DEAL (R196, R197). -/
  | chunkDeal (home : Nat)
  /-- STEAL (R199). -/
  | steal (home : Nat)
  /-- BALANCER_MOVE (R200). -/
  | balancerMove (card : Nat) (src dst : Nat) (count : Nat)
  /-- MIRROR_COPY_ACCEPT (R368). -/
  | mirrorCopyAccept (home : Nat)
  /-- DIE_RESET (R342). -/
  | dieReset (pkg die : Nat)
  /-- FLIT_RECEIVE (R364, R365). -/
  | flitReceive (src dst : Nat) (ok : Bool)
  /-- LINK_DOWN (R365). -/
  | linkDown (pkg port : Nat)
  /-- LINK_RETRAINED (R365). -/
  | linkRetrained (pkg port : Nat)
  /-- REORDER_WINDOW_ROOM (R365). -/
  | reorderWindowRoom (src dst : Nat) (cls : Nat)
  /-- PACKAGE_LOST (R366). -/
  | packageLost (pkg : Nat)
  /-- PAGE_MOVE_START (R371). -/
  | pageMoveStart (home : Nat)
  /-- CUTOVER (R373). -/
  | cutover (home : Nat)
  /-- REDIRECT (R373, R374). -/
  | redirect (src dst : Nat)
  /-- PAGE_MOVE_END (R371). -/
  | pageMoveEnd (home : Nat)
  /-- AUTO_PAGE_MOVE (R375). -/
  | autoPageMove (home : Nat) (entry : Nat)
  /-- PARTNER_WRITE (R367). -/
  | partnerWrite (home : Nat) (value : DWord)
  /-- REGISTER_WRITE (R4, R367, R387). -/
  | registerWrite (home : Nat) (offset : Nat) (value : DWord)
  /-- RDMA_WRITE (R243, R378). -/
  | rdmaWrite (qp : QpId) (va : Nat) (bytes : List Byte)
  /-- RDMA_READ (R243, R378). -/
  | rdmaRead (qp : QpId) (va : Nat) (len : Nat)
  /-- RDMA_SEND (R378). -/
  | rdmaSend (qp : QpId) (bytes : List Byte)
  /-- ATOMIC_FETCH_ADD (R378). -/
  | atomicFetchAdd (qp : QpId) (va : Nat) (x : DWord)
  /-- ATOMIC_COMPARE_SWAP (R378). -/
  | atomicCompareSwap (qp : QpId) (va : Nat) (cmp x : DWord)
  /-- INVALID_REQUEST (R377). -/
  | invalidRequest (qp : QpId)
  /-- REGQ (R380). -/
  | regq (c : CmdArgs)
  /-- UNREGQ (R380). -/
  | unregq (c : CmdArgs)
  /-- PREEMPT_COMMAND (R380). -/
  | preemptCommand (c : CmdArgs)
  /-- RESUME (R380, R326). -/
  | resume (c : CmdArgs)
  /-- KILL (R380, R160). -/
  | kill (c : CmdArgs)
  /-- REPLAY (R380). -/
  | replay (c : CmdArgs)
  /-- DRAIN (R385). -/
  | drain (c : CmdArgs)
  /-- UPDATE (R385). -/
  | update (c : CmdArgs) (signatureOk calibrationOk : Bool)
  /-- RETURN (R385). -/
  | homeReturn (c : CmdArgs)
  /-- ROUTE (R380). -/
  | route (c : CmdArgs)
  /-- MOVLIST (R375). -/
  | movlist (c : CmdArgs)
  /-- HWIN (R380). -/
  | hwin (c : CmdArgs)
  /-- ATTEST (R383). -/
  | attest (c : CmdArgs)
  /-- MOVE (R371). -/
  | move (c : CmdArgs)
  /-- PARTNER (R367). -/
  | partner (c : CmdArgs)
  /-- TLBINV_COMMAND (R380). -/
  | tlbinvCommand (c : CmdArgs)
  /-- ICINV_COMMAND (R380). -/
  | icinvCommand (c : CmdArgs)
  /-- UNKNOWN_COMMAND (R380). -/
  | unknownCommand (c : CmdArgs)
  /-- HOME_DRAINED (R385). -/
  | homeDrained (home : Nat)
  /-- POWER_ON (R382). -/
  | powerOn (pins : BitVec 4)
  /-- BOOT_IMAGE_VERIFY (R382 stage 0). -/
  | bootImageVerify (pkg die : Nat) (ok : Bool) (image : List Byte)
  /-- DIE_IDENTITY (R383). -/
  | dieIdentity (pkg die : Nat) (ok : Bool)
  /-- CALIBRATION (R382 stage 3). -/
  | calibration (pkg die : Nat) (ok : Bool)
  /-- HOME_READY (R382 stage 4). -/
  | homeReady (home : Nat)
  /-- TEMPERATURE_CHANGE (R384). -/
  | temperatureChange (home : Nat) (celsius : Nat)
  /-- SUPPLY_DROOP (R384). -/
  | supplyDroop (pkg die : Nat)
  /-- PORT_STATE_CHANGE (R381, R382). -/
  | portStateChange (pkg : Nat) (fabric : Bool) (port : Nat) (up : Bool)
  /-- CORE_RESET_COMPLETE (R136). -/
  | coreResetComplete (core : Nat)
  /-- UNCORRECTABLE_ECC_ERROR (R338). -/
  | uncorrectableEccError (site : EccSite)
  /-- INVALIDATION_COMPLETE (R354, R355). -/
  | invalidationComplete (req : Nat)
  /-- CHECKPOINT_CRC_COMPLETE (R344, R345, R353). -/
  | checkpointCrcComplete (gid : Word)
  /-- ROCE_ACKNOWLEDGEMENT (R243). -/
  | roceAcknowledgement (home : Nat)
  /-- CLOCK_INCREMENT (R12). -/
  | clockIncrement (pkg die : Nat)
  deriving DecidableEq, Repr

end Sys2Proof
end

