-- ==== Sys2Proof/WellFormed.lean ====
section
/-! DEFINITION. Which terms of Instr are instructions of the device: the static conditions of spec/02 R43 that the
operand types do not already carry. A word that breaks one of them raises the illegal-instruction trap. -/

namespace Sys2Proof

/-- A source code that 02 Table 2.5 marks illegal. -/
def illegalCode (c : Byte) : Bool :=
  (0xC4 ≤ c.toNat && c.toNat ≤ 0xCF) || (0xE1 ≤ c.toNat && c.toNat ≤ 0xEE) || 0xF0 ≤ c.toNat

/-- `Src.illegal` names only codes that are illegal. -/
def Src.wf : Src → Bool
  | .illegal c => illegalCode c
  | _ => true

/-- An instruction has at most one literal word (R35). -/
def sameLiteral : Src → Src → Bool
  | .lit x, .lit y => x == y
  | _, _ => true

def VR.wf (f : VR) : Bool := f.a.wf && f.b.wf && sameLiteral f.a f.b
def VR1.wf (f : VR1) : Bool := f.a.wf
def VC.wf (f : VC) : Bool := f.a.wf && f.b.wf && sameLiteral f.a f.b

/-- An integer conversion type (06 Table 6.7). -/
def CvtType.isInt : CvtType → Bool
  | .int8 | .int32 | .uint32 | .int16 | .uint16 | .uint8 | .int64 | .uint64 => true
  | _ => false

/-- Orders a store accepts (R250). -/
def storeOrder : Order → Bool
  | .rlx | .rel | .sc => true
  | _ => false

/-- Orders a posted reduction accepts (R257). -/
def reduceOrder : Order → Bool
  | .rlx | .rel => true
  | _ => false

/-- Orders an acquire load accepts (R249). -/
def acquireOrder : Order → Bool
  | .acq | .sc => true
  | _ => false

/-- Orders a fence accepts (R253). -/
def fenceOrder : Order → Bool
  | .rlx => false
  | _ => true

/-- Shape codes of MMA and MMAZ (19 Table 19.2). -/
def mmaShape (s : BitVec 5) : Bool :=
  [0x00, 0x01, 0x02, 0x03, 0x08, 0x09, 0x0A, 0x0B, 0x10, 0x11, 0x12].contains s.toNat

/-- Shape codes of MCTR (19 Table 19.2). -/
def mctrShape (s : BitVec 5) : Bool := [0x14, 0x15, 0x16].contains s.toNat

/-- The reserved-field conditions of one row of 19 Table 19.2: which fields may be non-zero. -/
def MX.zeros (m : MX) (fs reuse a acc neg trb : Bool) : Bool :=
  (fs || m.fs == 0) && (reuse || !m.reuse) && (a || m.a == 0) && (acc || !m.acc) && (neg || !m.neg) && (trb || !m.trb)

/-- The static conditions of each instruction. -/
def WellFormed : Instr → Bool
  | .loop n _ => n != 0
  | .swrite n _ => n == .fpstat
  | .vmov f | .vabs _ f => f.wf
  | .vadd f | .vsub f | .vmul f | .vmad f | .vand f | .vor f | .vxor f | .vandn f => f.wf
  | .vmulh _ f | .vmin _ f | .vmax _ f | .vadds _ f | .vsubs _ f | .vmulw _ f | .dot4 _ f => f.wf
  | .vshl f | .vshr f | .vsra f | .vadd64 f | .vsub64 f | .vsel _ f => f.wf
  | .fadd _ f | .fsub _ f | .fmul _ f | .ffma _ f | .ffms _ f => f.wf
  | .dadd _ f | .dsub _ f | .dmul _ f | .dfma _ f => f.wf
  | .fmin f | .fmax f | .dmin f | .dmax f => f.wf
  | .hadd2 _ f | .hmul2 _ f | .hfma2 _ f | .bfma2 _ f | .dot2h _ f | .pack _ f => f.wf
  | .unpk f => f.wf
  | .vcmp c f | .vcmpu c f => f.wf && c != .ord && c != .uno
  | .fcmp _ f | .dcmp _ f => f.wf
  | .cvt _ f d s => f.wf && d != s && !(d.isInt && s.isInt)
  | .cvtf _ f _ _ _ => f.wf
  | .frcp f | .frsq f | .fsqrt f | .fexp2 f | .flog2 f | .fsinpi f | .fcospi f | .ftanh f | .drcpa f | .drsqa f => f.wf
  | .fdiv f | .bfe _ f | .bfi f | .funsh f | .bsrd f | .bsfill f | .bspeek f => f.wf
  | .popc f | .clz f | .brev f => f.wf
  | .bsinit a => a.wf
  | .shfl f | .shflup f | .shfldn f | .shflx f | .rdlane f | .wrlane f => f.wf
  | .vote _ _ a => a.wf
  | .redi f op => f.wf && op != .fadd
  | .redf f _ => f.wf
  | .scan f _ _ => f.wf
  | .bcast _ f => f.wf
  | .ldaw _ _ o | .ldad _ _ o => acquireOrder o
  | .stb m | .sth m | .stw m | .std m | .stq m | .strw m | .strd m | .stpw m | .stpd m => storeOrder m.order
  | .fence _ o => fenceOrder o
  | .mma m | .mmaz m => mmaShape m.shape && m.zeros true true true false true true
  | .mmnp m => m.shape == 0x18 && m.zeros true true true true true false
  | .mctr m => mctrShape m.shape && m.zeros true false false false true true
  | .tldv m | .tstv m => m.zeros false false true false false true
  | .tzero m => m.zeros false false false false false false
  | .tepi m => m.zeros true false false false true false
  | .taddst m => m.zeros true false true false false false
  | .tstore m => m.zeros false false true false false false
  | .atcas _ => true
  | .atadd m | .atmin m | .atmax m | .atminu m | .atmaxu m | .atand m | .ator m | .atxor m | .atxch m
  | .atfadd m => m.vc == 0
  | .dqpush m => m.vc == 0
  | .dqpop m | .dqsteal m => m.vx == 0
  | .rdadd m | .rdmin m | .rdmax m | .rdand m | .rdor m | .rdxor m | .rdfadd m | .rddadd m => reduceOrder m.order
  | .preempt k _ => k != 3
  | .sweep _ x _ _ op _ _ => x == 0 || op == .scale || op == .scrl
  | .snop | .smov .. | .smovi .. | .slit .. | .slith .. | .sadd .. | .saddi .. | .ssub .. | .smul .. | .smulh ..
  | .sand .. | .sandi .. | .sor .. | .sori .. | .sxor .. | .sxori .. | .sshl .. | .sshli .. | .sshr .. | .sshri ..
  | .ssra .. | .ssrai .. | .smin .. | .smax .. | .scmp .. | .spopc .. | .sclz .. | .scmov .. | .bra .. | .brp ..
  | .brz .. | .brnz .. | .call .. | .jmpr .. | .exit | .yield | .plog .. | .pmovToPredicate .. | .pmovToScalar ..
  | .emrd .. | .emwr .. | .emwrPredicate .. | .pcnt .. | .pfirst .. | .sread .. => true
  | .ldb .. | .ldbs .. | .ldh .. | .ldhs .. | .ldw .. | .ldd .. | .ldq .. | .ldpw .. | .ldpd .. | .ldsw .. | .ldsd ..
  | .ldsq .. | .stsw .. | .stsd .. | .stsq .. | .migrate .. | .homeof .. => true
  | .mrel | .itld .. | .cpin .. | .cpga .. | .cpout .. | .cpsc .. | .cpsig .. | .cpfill .. => true
  | .tjoin .. | .tleave | .barrive | .barwait .. | .barsync .. | .genwait .. | .sigdec .. | .sigwait .. | .seam ..
  | .waitc .. | .lease .. | .unlease => true
  | .trap .. | .eret | .brk | .rdsys .. | .wrsys .. | .iregion .. | .irend | .safept .. | .ckbegin .. | .ckcommit ..
  | .rpget .. | .tlbinv .. | .icinv .. | .halt => true
  | .dieReset _ d | .calibration _ d _ | .dieIdentity _ d _ | .bootImageVerify _ d _ _ | .supplyDroop _ d
  | .clockIncrement _ d => d < 6
  | .portStateChange _ f p _ => if f then p < 15 else p < 4
  | .linkDown _ p | .linkRetrained _ p => p < 15
  | .clauseFetch .. | .clauseIssue .. | .issueDueLevel .. | .counterRoom .. | .safePointOverrunTrap ..
  | .translationWalkDone .. | .inPlaceAccessComplete .. | .packetAccept .. | .hotLineRunClose ..
  | .arrivalAcknowledge .. | .hierarchicalArrival .. | .orderingHoldEnd .. | .jacketDepart .. | .jacketArrive ..
  | .admitItem .. | .waitWake .. | .spinDetectorFire .. | .spinWaitTimeout .. | .brpResolve ..
  | .matrixOperandsConsumed .. | .matrixComplete .. | .copyStart .. | .copyFinish .. | .copyFaultReport ..
  | .waitCounterSatisfied .. | .trapEntry .. | .handlerStart .. | .regionRestart .. | .teamRollback ..
  | .preemptSave .. | .teamSave .. | .groupRetire .. | .append .. | .cardTake .. | .chunkDeal .. | .steal ..
  | .balancerMove .. | .mirrorCopyAccept .. | .flitReceive .. | .reorderWindowRoom .. | .packageLost ..
  | .pageMoveStart .. | .cutover .. | .redirect .. | .pageMoveEnd .. | .autoPageMove .. | .partnerWrite ..
  | .registerWrite .. | .rdmaWrite .. | .rdmaRead .. | .rdmaSend .. | .atomicFetchAdd .. | .atomicCompareSwap ..
  | .invalidRequest .. | .regq .. | .unregq .. | .preemptCommand .. | .resume .. | .kill .. | .replay .. | .drain ..
  | .update .. | .homeReturn .. | .route .. | .movlist .. | .hwin .. | .attest .. | .move .. | .partner ..
  | .tlbinvCommand .. | .icinvCommand .. | .unknownCommand .. | .homeDrained .. | .powerOn .. | .homeReady ..
  | .temperatureChange .. | .coreResetComplete .. | .uncorrectableEccError .. | .invalidationComplete ..
  | .checkpointCrcComplete .. | .roceAcknowledgement .. => true

end Sys2Proof
end

