-- ==== Sys2Proof/Decode.lean ====
section
/-! DEFINITION. From words to instructions and back (spec/02): the clause header, the instruction formats, the operand
codes, the opcode map of the eight classes, and the encoder. Decoding is total; it rejects by name. -/

namespace Sys2Proof

/-- The n bits of a word from bit `lo` up, as a number. -/
def fld (w : Word) (lo n : Nat) : Nat := w.toNat / 2 ^ lo % 2 ^ n

/-- The n bits of a word from bit `lo` up. -/
def fv (n : Nat) (w : Word) (lo : Nat) : BitVec n := BitVec.ofNat n (w.toNat / 2 ^ lo)

/-- One bit of a word. -/
def bitAt (w : Word) (lo : Nat) : Bool := fld w lo 1 == 1

/-- The n bits from bit `lo` up are zero (R29). -/
def z (w : Word) (lo n : Nat) : Bool := fld w lo n == 0

/-- A flag as a bit. -/
def b2n (b : Bool) : Nat := if b then 1 else 0

/-! ### The clause header (R22) -/

/-- The fields of a clause header (02 Table 2.1). -/
structure Header where
  n : Nat
  cls : EngineClass
  s : Bool
  y : Bool
  wcopy : Nat
  wmtx : Nat
  wpost : Nat
  wsync : Nat
  deriving DecidableEq, Repr

/-- Classes by number (02 Table 2.9). -/
def classOf : Nat → EngineClass
  | 0 => .sctl | 1 => .valu | 2 => .vspc | 3 => .mem | 4 => .mtx | 5 => .copy | 6 => .sync | _ => .sys

/-- The number of a class (02 Table 2.9). -/
def classCode : EngineClass → Nat
  | .sctl => 0 | .valu => 1 | .vspc => 2 | .mem => 3 | .mtx => 4 | .copy => 5 | .sync => 6 | .sys => 7

/-- The header that a word holds; none when a header check fails: marker, N = 0, bits [22:20] (R22, R23, R43). -/
def headerOf (w : Word) : Option Header :=
  if fld w 0 4 = 0xA ∧ fld w 20 3 = 0 ∧ fld w 28 4 ≠ 0 then
    some { n := fld w 28 4, cls := classOf (fld w 25 3), s := bitAt w 24, y := bitAt w 23, wcopy := fld w 16 4,
           wmtx := fld w 12 4, wpost := fld w 8 4, wsync := fld w 4 4 }
  else none

/-- The word of a header (02 Table 2.1). -/
def headerWord (h : Header) : Word :=
  BitVec.ofNat 32 (h.n * 2 ^ 28 + classCode h.cls * 2 ^ 25 + b2n h.s * 2 ^ 24 + b2n h.y * 2 ^ 23 + h.wcopy * 2 ^ 16
    + h.wmtx * 2 ^ 12 + h.wpost * 2 ^ 8 + h.wsync * 2 ^ 4 + 0xA)

/-! ### Codes of the operand fields -/

/-- OP, bits [31:26] (R29). -/
def opOf (w : Word) : Nat := fld w 26 6

/-- Rounding modes by code: the suffixes .rne .rtz .rup .rdn in MOD (03 R48 Table 3.2, 04 R63). -/
def rmOf : Nat → RM
  | 0 => .rne | 1 => .rtz | 2 => .rup | _ => .rdn
def rmCode : RM → Nat
  | .rne => 0 | .rtz => 1 | .rup => 2 | .rdn => 3

/-- SCMP conditions by FN (05 Table 5.3). -/
def scondOf : Nat → Option SCond
  | 0 => some .eq | 1 => some .ne | 2 => some .lt | 3 => some .le | 4 => some .gt | 5 => some .ge | 6 => some .ltu
  | 7 => some .leu | 8 => some .gtu | 9 => some .geu | _ => none
def scondCode : SCond → Nat
  | .eq => 0 | .ne => 1 | .lt => 2 | .le => 3 | .gt => 4 | .ge => 5 | .ltu => 6 | .leu => 7 | .gtu => 8 | .geu => 9

/-- Compare conditions by COND (06 Table 6.6). -/
def condOf : Nat → Cond
  | 0 => .eq | 1 => .ne | 2 => .lt | 3 => .le | 4 => .gt | 5 => .ge | 6 => .ord | _ => .uno
def condCode : Cond → Nat
  | .eq => 0 | .ne => 1 | .lt => 2 | .le => 3 | .gt => 4 | .ge => 5 | .ord => 6 | .uno => 7

/-- VOTE conditions by COND (R187). -/
def voteOf : Nat → Option VoteCond
  | 0 => some .all | 1 => some .any | 2 => some .uni | 3 => some .match_ | _ => none
def voteCode : VoteCond → Nat
  | .all => 0 | .any => 1 | .uni => 2 | .match_ => 3

/-- Reduction and scan operations by code (11 Table 11.4). -/
def scanOpOf : Nat → Option ScanOp
  | 0 => some .add | 1 => some .min | 2 => some .max | 3 => some .minu | 4 => some .maxu | 5 => some .and
  | 6 => some .or | 7 => some .xor | 8 => some .fadd | _ => none
def scanOpCode : ScanOp → Nat
  | .add => 0 | .min => 1 | .max => 2 | .minu => 3 | .maxu => 4 | .and => 5 | .or => 6 | .xor => 7 | .fadd => 8

/-- REDF operations by code (11 Table 11.3). -/
def redfOf : Nat → Option RedfOp
  | 0 => some .add | 1 => some .min | 2 => some .max | _ => none
def redfCode : RedfOp → Nat
  | .add => 0 | .min => 1 | .max => 2

/-- Branch hints by HINT: .pred .taken .fall .nospec (03 R48 Table 3.2, 11 R183). -/
def hintOf : Nat → Hint
  | 0 => .pred | 1 => .taken | 2 => .fall | _ => .nospec
def hintCode : Hint → Nat
  | .pred => 0 | .taken => 1 | .fall => 2 | .nospec => 3

/-- The predicate forms of EMWR by FN (11 Table 11.1). -/
def emOpOf : Nat → Option EmOp
  | 1 => some .set | 2 => some .and | 3 => some .andn | _ => none
def emOpCode : EmOp → Nat
  | .set => 1 | .and => 2 | .andn => 3

/-- Conversion types by code; 6 and 15 are reserved (06 Table 6.7). -/
def cvtOf : Nat → Option CvtType
  | 0 => some .fp32 | 1 => some .fp16 | 2 => some .bf16 | 3 => some .e4m3 | 4 => some .e5m2 | 5 => some .int8
  | 7 => some .fp64 | 8 => some .int32 | 9 => some .uint32 | 10 => some .int16 | 11 => some .uint16 | 12 => some .uint8
  | 13 => some .int64 | 14 => some .uint64 | _ => none
def cvtCode : CvtType → Nat
  | .fp32 => 0 | .fp16 => 1 | .bf16 => 2 | .e4m3 => 3 | .e5m2 => 4 | .int8 => 5 | .fp64 => 7 | .int32 => 8
  | .uint32 => 9 | .int16 => 10 | .uint16 => 11 | .uint8 => 12 | .int64 => 13 | .uint64 => 14

/-- Scopes by code: .grp .home .pkg .fab .sys .mantle; 6 and 7 are reserved (03 R48 Table 3.2, 14 Table 14.4). -/
def scopeOf : Nat → Option Scope
  | 0 => some .grp | 1 => some .home | 2 => some .pkg | 3 => some .fab | 4 => some .sys | 5 => some .mantle | _ => none
def scopeCode : Scope → Nat
  | .grp => 0 | .home => 1 | .pkg => 2 | .fab => 3 | .sys => 4 | .mantle => 5

/-- Orders by code: .rlx .acq .rel .ar .sc; 5 to 7 are reserved (03 R48 Table 3.2, 14 Table 14.5). -/
def orderOf : Nat → Option Order
  | 0 => some .rlx | 1 => some .acq | 2 => some .rel | 3 => some .ar | 4 => some .sc | _ => none
def orderCode : Order → Nat
  | .rlx => 0 | .acq => 1 | .rel => 2 | .ar => 3 | .sc => 4

/-- SEAM modes; MODE 3 is reserved (R190). -/
def seamOf : Nat → Option SeamMode
  | 0 => some .arm | 1 => some .join | 2 => some .merge | _ => none
def seamCode : SeamMode → Nat
  | .arm => 0 | .join => 1 | .merge => 2

/-- Counters of WAITC (R308). -/
def ctrOf : Nat → Ctr
  | 0 => .copy | 1 => .matrix | 2 => .post | _ => .sync
def ctrCode : Ctr → Nat
  | .copy => 0 | .matrix => 1 | .post => 2 | .sync => 3

/-- SWEEP operations; SOP 4 to 7 are reserved (R306). -/
def sweepOf : Nat → Option SweepOp
  | 0 => some .cvt | 1 => some .scale | 2 => some .relu | 3 => some .scrl | _ => none
def sweepCode : SweepOp → Nat
  | .cvt => 0 | .scale => 1 | .relu => 2 | .scrl => 3

/-- Special registers by number (05 Table 5.4). -/
def specialRegOf : Nat → Option SpecialReg
  | 0 => some .laneid | 1 => some .grpid | 2 => some .teamid | 3 => some .splitid | 4 => some .homeid
  | 5 => some .basehome | 6 => some .coreslot | 7 => some .resgen | 8 => some .clock | 9 => some .fpstat
  | 10 => some .recidx | 11 => some .grpinrec | _ => none
def specialRegCode : SpecialReg → Nat
  | .laneid => 0 | .grpid => 1 | .teamid => 2 | .splitid => 3 | .homeid => 4 | .basehome => 5 | .coreslot => 6
  | .resgen => 7 | .clock => 8 | .fpstat => 9 | .recidx => 10 | .grpinrec => 11

/-- System registers by number (23 Table 23.2). -/
def sysRegOf (n : Nat) : Option SysReg :=
  if 0x140 ≤ n ∧ n < 0x150 then some (.seamSv (BitVec.ofNat 4 (n - 0x140)))
  else if 0x100 ≤ n ∧ n < 0x140 then
    some (if n % 2 = 0 then .splitLo (BitVec.ofNat 5 ((n - 0x100) / 2)) else .splitHi (BitVec.ofNat 5 ((n - 0x100) / 2)))
  else match n with
  | 0 => some .trapvec | 1 => some .trapcause | 2 => some .trappc | 3 => some .trapaddr | 4 => some .trapmask
  | 5 => some .traphdr | 6 => some .ctxbase | 7 => some .rpseq | 8 => some .rppc | 9 => some .rpjkt
  | 10 => some .teamstat | 11 => some .diaginj | 12 => some .repairbase | _ => none
def sysRegCode : SysReg → Nat
  | .trapvec => 0 | .trapcause => 1 | .trappc => 2 | .trapaddr => 3 | .trapmask => 4 | .traphdr => 5 | .ctxbase => 6
  | .rpseq => 7 | .rppc => 8 | .rpjkt => 9 | .teamstat => 10 | .diaginj => 11 | .repairbase => 12
  | .splitLo n => 0x100 + 2 * n.toNat | .splitHi n => 0x101 + 2 * n.toNat | .seamSv k => 0x140 + k.toNat

/-! ### Source operands (02 Table 2.5) -/

/-- The extension or literal word that follows an instruction word. -/
def lit0 : List Word → Word
  | [] => 0
  | w :: _ => w

/-- The source operand of a code (02 Table 2.5). -/
def srcOf (c : Nat) (rest : List Word) : Src :=
  if c < 0x80 then .v (BitVec.ofNat 7 c)
  else if c < 0xC0 then .s (BitVec.ofNat 6 (c - 0x80))
  else if c < 0xC4 then .latch (BitVec.ofNat 2 (c - 0xC0))
  else if c < 0xD0 then .illegal (BitVec.ofNat 8 c)
  else if c < 0xE0 then .const (BitVec.ofNat 4 (c - 0xD0))
  else if c = 0xE0 then .laneid
  else if c = 0xEF then .lit (lit0 rest)
  else .illegal (BitVec.ofNat 8 c)

/-- The code of a source operand (02 Table 2.5). -/
def srcCode : Src → Nat
  | .v n => n.toNat
  | .s n => 0x80 + n.toNat
  | .latch n => 0xC0 + n.toNat
  | .const n => 0xD0 + n.toNat
  | .laneid => 0xE0
  | .lit _ => 0xEF
  | .illegal c => c.toNat

/-- The literal word that one source operand brings (R27). -/
def srcLit : Src → List Word
  | .lit w => [w]
  | _ => []

/-- The literal word of two source operands: one, read by both (R35). -/
def srcLits (a b : Src) : List Word :=
  match srcLit a with
  | [] => srcLit b
  | l => l

/-! ### Instruction formats (02 Table 2.3) -/

def rD (w : Word) : BitVec 6 := fv 6 w 20
def rA (w : Word) : BitVec 6 := fv 6 w 14
def rB (w : Word) : BitVec 6 := fv 6 w 8

def vrOf (w : Word) (rest : List Word) : VR :=
  { nwb := bitAt w 23, d := fv 7 w 16, a := srcOf (fld w 8 8) rest, b := srcOf (fld w 0 8) rest }
def vr1Of (w : Word) (rest : List Word) : VR1 :=
  { nwb := bitAt w 23, d := fv 7 w 16, a := srcOf (fld w 8 8) rest }
def vcOf (w : Word) (rest : List Word) : VC :=
  { p := fv 3 w 20, a := srcOf (fld w 8 8) rest, b := srcOf (fld w 0 8) rest }
def mmlOf (w : Word) : MML := { ls := fv 6 w 20, vd := fv 7 w 13, va := fv 7 w 6, sb := fv 6 w 0 }
def mmxOf (w : Word) : MMX := { vd := fv 7 w 13, va := fv 7 w 6, sb := fv 6 w 0 }
def mmsOf (w : Word) : Option MMS :=
  (scopeOf (fld w 23 3)).bind fun s => (orderOf (fld w 20 3)).bind fun o =>
    some { scope := s, order := o, vd := fv 7 w 13, va := fv 7 w 6, sb := fv 6 w 0 }
def saOf (w x : Word) : Option SA :=
  (scopeOf (fld x 29 3)).bind fun s => (orderOf (fld x 26 3)).bind fun o =>
    some { ls := fv 6 w 20, vd := fv 7 w 13, va := fv 7 w 6, sb := fv 6 w 0, scope := s, order := o,
           w64 := bitAt x 25, vx := fv 7 x 18, vc := fv 7 x 11 }
def mxOf (w : Word) : MX :=
  { shape := fv 5 w 21, fs := fv 3 w 18, reuse := bitAt w 17, a := fv 7 w 10, desc := fv 6 w 4, acc := bitAt w 3,
    neg := bitAt w 2, trb := bitAt w 1, evt := bitAt w 0 }

/-- An instruction whose zero fields are zero and whose static conditions hold (R29, R43). -/
def okIf (b : Bool) (i : Instr) : Option Instr := if b && WellFormed i then some i else none

/-! ### The opcode map (02 Tables 2.10 to 2.17) -/

/-- Instructions of class 0, sctl (02 Table 2.10): any other opcode is reserved (R41). -/
def decodeSctl (w : Word) (rest : List Word) : Option Instr :=
  match opOf w with
  | 0x00 => okIf (z w 20 6 && z w 14 6 && z w 8 6 && z w 0 8) (.snop)
  | 0x01 => okIf (z w 8 6 && z w 0 8) (.smov (rD w) (rA w))
  | 0x02 => okIf (z w 14 6) (.smovi (rD w) (fv 14 w 0))
  | 0x03 => okIf (z w 14 6 && z w 0 14) (.slit (rD w) (lit0 rest))
  | 0x04 => okIf (z w 0 14) (.slith (rD w) (rA w) (lit0 rest))
  | 0x05 => okIf (z w 0 8) (.sadd (rD w) (rA w) (rB w))
  | 0x06 => okIf true (.saddi (rD w) (rA w) (fv 14 w 0))
  | 0x07 => okIf (z w 0 8) (.ssub (rD w) (rA w) (rB w))
  | 0x08 => okIf (z w 0 8) (.smul (rD w) (rA w) (rB w))
  | 0x09 => okIf (z w 1 7) (.smulh (bitAt w 0) (rD w) (rA w) (rB w))
  | 0x0a => okIf (z w 0 8) (.sand (rD w) (rA w) (rB w))
  | 0x0b => okIf true (.sandi (rD w) (rA w) (fv 14 w 0))
  | 0x0c => okIf (z w 0 8) (.sor (rD w) (rA w) (rB w))
  | 0x0d => okIf true (.sori (rD w) (rA w) (fv 14 w 0))
  | 0x0e => okIf (z w 0 8) (.sxor (rD w) (rA w) (rB w))
  | 0x0f => okIf true (.sxori (rD w) (rA w) (fv 14 w 0))
  | 0x10 => okIf (z w 0 8) (.sshl (rD w) (rA w) (rB w))
  | 0x11 => okIf (z w 6 8) (.sshli (rD w) (rA w) (fv 6 w 0))
  | 0x12 => okIf (z w 0 8) (.sshr (rD w) (rA w) (rB w))
  | 0x13 => okIf (z w 6 8) (.sshri (rD w) (rA w) (fv 6 w 0))
  | 0x14 => okIf (z w 0 8) (.ssra (rD w) (rA w) (rB w))
  | 0x15 => okIf (z w 6 8) (.ssrai (rD w) (rA w) (fv 6 w 0))
  | 0x16 => okIf (z w 1 7) (.smin (bitAt w 0) (rD w) (rA w) (rB w))
  | 0x17 => okIf (z w 1 7) (.smax (bitAt w 0) (rD w) (rA w) (rB w))
  | 0x18 => (scondOf (fld w 0 8)).bind fun c => okIf true (.scmp c (rD w) (rA w) (rB w))
  | 0x19 => okIf (z w 8 6 && z w 0 8) (.spopc (rD w) (rA w))
  | 0x1a => okIf (z w 8 6 && z w 0 8) (.sclz (rD w) (rA w))
  | 0x1b => okIf (z w 1 7) (.scmov (bitAt w 0) (rD w) (rA w) (rB w))
  | 0x20 => okIf (z w 24 2) (.bra (fv 3 w 21) (bitAt w 20) (fv 20 w 0))
  | 0x21 => okIf true (.brp (hintOf (fld w 24 2)) (fv 3 w 21) (bitAt w 20) (fv 20 w 0))
  | 0x22 => okIf true (.brz (rD w) (fv 20 w 0))
  | 0x23 => okIf true (.brnz (rD w) (fv 20 w 0))
  | 0x24 => okIf true (.call (rD w) (fv 20 w 0))
  | 0x25 => okIf (z w 8 6 && z w 0 8) (.jmpr (rD w) (rA w))
  | 0x26 => okIf true (.loop (rD w) (fv 20 w 0))
  | 0x27 => okIf (z w 20 6 && z w 14 6 && z w 8 6 && z w 0 8) (.exit)
  | 0x28 => okIf (z w 20 6 && z w 14 6 && z w 8 6 && z w 0 8) (.yield)
  | 0x30 => okIf (z w 23 3 && z w 17 3 && z w 11 3 && z w 4 4) (.plog (fv 3 w 20) (fv 3 w 14) (fv 3 w 8) (fv 4 w 0))
  | 0x31 =>
    (okIf (z w 23 3 && z w 8 6 && fld w 0 8 == 0) (.pmovToPredicate (fv 3 w 20) (rA w))).or
      (okIf (z w 17 3 && z w 8 6 && fld w 0 8 == 1) (.pmovToScalar (rD w) (fv 3 w 14)))
  | 0x32 => okIf (z w 14 6 && z w 8 6 && z w 1 7) (.emrd (rD w) (bitAt w 0))
  | 0x33 =>
    (okIf (z w 20 6 && z w 8 6 && fld w 0 8 == 0) (.emwr (rA w))).or
      ((emOpOf (fld w 0 8)).bind fun f =>
      okIf (z w 20 6 && z w 17 3 && z w 8 6) (.emwrPredicate f (fv 3 w 14)))
  | 0x34 => okIf (z w 17 3 && z w 8 6 && z w 1 7) (.pcnt (rD w) (fv 3 w 14) (bitAt w 0))
  | 0x35 => okIf (z w 17 3 && z w 8 6 && z w 1 7) (.pfirst (rD w) (fv 3 w 14) (bitAt w 0))
  | 0x38 => (specialRegOf (fld w 0 14)).bind fun n => okIf (z w 14 6) (.sread (rD w) n)
  | 0x39 => (specialRegOf (fld w 0 14)).bind fun n => okIf (z w 20 6) (.swrite n (rA w))
  | _ => none

/-- Instructions of class 1, valu (02 Table 2.11): any other opcode is reserved (R41). -/
def decodeValu (w : Word) (rest : List Word) : Option Instr :=
  match opOf w with
  | 0x00 => okIf (z w 24 2 && z w 0 8) (.vmov (vr1Of w rest))
  | 0x01 => okIf (z w 24 2) (.vadd (vrOf w rest))
  | 0x02 => okIf (z w 24 2) (.vsub (vrOf w rest))
  | 0x03 => okIf (z w 24 2) (.vmul (vrOf w rest))
  | 0x04 => okIf (z w 25 1) (.vmulh (bitAt w 24) (vrOf w rest))
  | 0x05 => okIf (z w 24 2) (.vmad (vrOf w rest))
  | 0x06 => okIf (z w 24 2) (.vand (vrOf w rest))
  | 0x07 => okIf (z w 24 2) (.vor (vrOf w rest))
  | 0x08 => okIf (z w 24 2) (.vxor (vrOf w rest))
  | 0x09 => okIf (z w 24 2) (.vandn (vrOf w rest))
  | 0x0a => okIf (z w 24 2) (.vshl (vrOf w rest))
  | 0x0b => okIf (z w 24 2) (.vshr (vrOf w rest))
  | 0x0c => okIf (z w 24 2) (.vsra (vrOf w rest))
  | 0x0d => okIf (z w 25 1) (.vmin (bitAt w 24) (vrOf w rest))
  | 0x0e => okIf (z w 25 1) (.vmax (bitAt w 24) (vrOf w rest))
  | 0x0f => okIf (z w 25 1 && z w 0 8) (.vabs (bitAt w 24) (vr1Of w rest))
  | 0x10 => okIf (z w 25 1) (.vadds (bitAt w 24) (vrOf w rest))
  | 0x11 => okIf (z w 25 1) (.vsubs (bitAt w 24) (vrOf w rest))
  | 0x12 => okIf (z w 24 2) (.vadd64 (vrOf w rest))
  | 0x13 => okIf (z w 24 2) (.vsub64 (vrOf w rest))
  | 0x14 => okIf (z w 25 1) (.vmulw (bitAt w 24) (vrOf w rest))
  | 0x15 => okIf true (.vsel (fv 2 w 24) (vrOf w rest))
  | 0x18 => okIf true (.fadd (rmOf (fld w 24 2)) (vrOf w rest))
  | 0x19 => okIf true (.fsub (rmOf (fld w 24 2)) (vrOf w rest))
  | 0x1a => okIf true (.fmul (rmOf (fld w 24 2)) (vrOf w rest))
  | 0x1b => okIf true (.ffma (rmOf (fld w 24 2)) (vrOf w rest))
  | 0x1c => okIf true (.ffms (rmOf (fld w 24 2)) (vrOf w rest))
  | 0x1d => okIf (z w 24 2) (.fmin (vrOf w rest))
  | 0x1e => okIf (z w 24 2) (.fmax (vrOf w rest))
  | 0x20 => okIf true (.dadd (rmOf (fld w 24 2)) (vrOf w rest))
  | 0x21 => okIf true (.dsub (rmOf (fld w 24 2)) (vrOf w rest))
  | 0x22 => okIf true (.dmul (rmOf (fld w 24 2)) (vrOf w rest))
  | 0x23 => okIf true (.dfma (rmOf (fld w 24 2)) (vrOf w rest))
  | 0x24 => okIf (z w 24 2) (.dmin (vrOf w rest))
  | 0x25 => okIf (z w 24 2) (.dmax (vrOf w rest))
  | 0x28 => okIf true (.hadd2 (rmOf (fld w 24 2)) (vrOf w rest))
  | 0x29 => okIf true (.hmul2 (rmOf (fld w 24 2)) (vrOf w rest))
  | 0x2a => okIf true (.hfma2 (rmOf (fld w 24 2)) (vrOf w rest))
  | 0x2b => okIf true (.bfma2 (rmOf (fld w 24 2)) (vrOf w rest))
  | 0x2c => okIf (z w 25 1) (.dot4 (bitAt w 24) (vrOf w rest))
  | 0x2d => okIf true (.dot2h (rmOf (fld w 24 2)) (vrOf w rest))
  | 0x30 => okIf (z w 16 4) (.vcmp (condOf (fld w 23 3)) (vcOf w rest))
  | 0x31 => okIf (z w 16 4) (.vcmpu (condOf (fld w 23 3)) (vcOf w rest))
  | 0x32 => okIf (z w 16 4) (.fcmp (condOf (fld w 23 3)) (vcOf w rest))
  | 0x33 => okIf (z w 16 4) (.dcmp (condOf (fld w 23 3)) (vcOf w rest))
  | 0x38 =>
    (cvtOf (fld w 4 4)).bind fun d => (cvtOf (fld w 0 4)).bind fun x =>
      okIf true (.cvt (rmOf (fld w 24 2)) (vr1Of w rest) d x)
  | 0x39 =>
    (cvtOf (fld w 4 4)).bind fun p => okIf true (.cvtf (rmOf (fld w 24 2)) (vr1Of w rest) p (bitAt w 3) (fv 3 w 0))
  | 0x3a => okIf true (.pack (rmOf (fld w 24 2)) (vrOf w rest))
  | 0x3b => okIf (z w 24 2) (.unpk (vrOf w rest))
  | _ => none

/-- Instructions of class 2, vspc (02 Table 2.13): any other opcode is reserved (R41). -/
def decodeVspc (w : Word) (rest : List Word) : Option Instr :=
  match opOf w with
  | 0x00 => okIf (z w 24 2 && z w 0 8) (.frcp (vr1Of w rest))
  | 0x01 => okIf (z w 24 2 && z w 0 8) (.frsq (vr1Of w rest))
  | 0x02 => okIf (z w 24 2 && z w 0 8) (.fsqrt (vr1Of w rest))
  | 0x03 => okIf (z w 24 2) (.fdiv (vrOf w rest))
  | 0x04 => okIf (z w 24 2 && z w 0 8) (.fexp2 (vr1Of w rest))
  | 0x05 => okIf (z w 24 2 && z w 0 8) (.flog2 (vr1Of w rest))
  | 0x06 => okIf (z w 24 2 && z w 0 8) (.fsinpi (vr1Of w rest))
  | 0x07 => okIf (z w 24 2 && z w 0 8) (.fcospi (vr1Of w rest))
  | 0x08 => okIf (z w 24 2 && z w 0 8) (.ftanh (vr1Of w rest))
  | 0x09 => okIf (z w 24 2 && z w 0 8) (.drcpa (vr1Of w rest))
  | 0x0a => okIf (z w 24 2 && z w 0 8) (.drsqa (vr1Of w rest))
  | 0x10 => okIf (z w 24 2 && z w 0 8) (.popc (vr1Of w rest))
  | 0x11 => okIf (z w 24 2 && z w 0 8) (.clz (vr1Of w rest))
  | 0x12 => okIf (z w 24 2 && z w 0 8) (.brev (vr1Of w rest))
  | 0x13 => okIf (z w 25 1) (.bfe (bitAt w 24) (vrOf w rest))
  | 0x14 => okIf (z w 24 2) (.bfi (vrOf w rest))
  | 0x15 => okIf (z w 24 2) (.funsh (vrOf w rest))
  | 0x18 => okIf (z w 16 10 && z w 0 8) (.bsinit (srcOf (fld w 8 8) rest))
  | 0x19 => okIf (z w 24 2) (.bsrd (vrOf w rest))
  | 0x1a => okIf (z w 24 2) (.bsfill (vrOf w rest))
  | 0x1b => okIf (z w 24 2) (.bspeek (vrOf w rest))
  | 0x20 => okIf (z w 24 2) (.shfl (vrOf w rest))
  | 0x21 => okIf (z w 24 2) (.shflup (vrOf w rest))
  | 0x22 => okIf (z w 24 2) (.shfldn (vrOf w rest))
  | 0x23 => okIf (z w 24 2) (.shflx (vrOf w rest))
  | 0x24 =>
    (voteOf (fld w 23 3)).bind fun c => okIf (z w 16 4 && z w 0 8) (.vote c (fv 3 w 20) (srcOf (fld w 8 8) rest))
  | 0x25 => (scanOpOf (fld w 0 8)).bind fun o => okIf (z w 24 2) (.redi (vr1Of w rest) o)
  | 0x26 => (redfOf (fld w 0 8)).bind fun o => okIf (z w 24 2) (.redf (vr1Of w rest) o)
  | 0x27 => (scanOpOf (fld w 0 4)).bind fun o => okIf (z w 24 2 && z w 5 3) (.scan (vr1Of w rest) (bitAt w 4) o)
  | 0x28 => okIf (z w 24 2) (.rdlane (vrOf w rest))
  | 0x29 => okIf (z w 24 2) (.wrlane (vrOf w rest))
  | 0x2a => okIf (z w 25 1 && z w 0 8) (.bcast (bitAt w 24) (vr1Of w rest))
  | _ => none

/-- Instructions of class 3, mem (02 Table 2.14): any other opcode is reserved (R41). -/
def decodeMem (w : Word) (rest : List Word) : Option Instr :=
  match opOf w with
  | 0x00 => okIf true (.ldb (mmlOf w))
  | 0x01 => okIf true (.ldbs (mmlOf w))
  | 0x02 => okIf true (.ldh (mmlOf w))
  | 0x03 => okIf true (.ldhs (mmlOf w))
  | 0x04 => okIf true (.ldw (mmlOf w))
  | 0x05 => okIf true (.ldd (mmlOf w))
  | 0x06 => okIf true (.ldq (mmlOf w))
  | 0x07 =>
    (scopeOf (fld (lit0 rest) 29 3)).bind fun s => (orderOf (fld (lit0 rest) 26 3)).bind fun o =>
      okIf (z (lit0 rest) 0 26) (.ldaw (mmlOf w) s o)
  | 0x08 =>
    (scopeOf (fld (lit0 rest) 29 3)).bind fun s => (orderOf (fld (lit0 rest) 26 3)).bind fun o =>
      okIf (z (lit0 rest) 0 26) (.ldad (mmlOf w) s o)
  | 0x10 => (mmsOf w).bind fun m => okIf true (.stb m)
  | 0x11 => (mmsOf w).bind fun m => okIf true (.sth m)
  | 0x12 => (mmsOf w).bind fun m => okIf true (.stw m)
  | 0x13 => (mmsOf w).bind fun m => okIf true (.std m)
  | 0x14 => (mmsOf w).bind fun m => okIf true (.stq m)
  | 0x15 => (mmsOf w).bind fun m => okIf true (.strw m)
  | 0x16 => (mmsOf w).bind fun m => okIf true (.strd m)
  | 0x18 => okIf true (.ldpw (mmlOf w))
  | 0x19 => okIf true (.ldpd (mmlOf w))
  | 0x1a => (mmsOf w).bind fun m => okIf true (.stpw m)
  | 0x1b => (mmsOf w).bind fun m => okIf true (.stpd m)
  | 0x20 => okIf (z w 20 6) (.ldsw (mmxOf w))
  | 0x21 => okIf (z w 20 6) (.ldsd (mmxOf w))
  | 0x22 => okIf (z w 20 6) (.ldsq (mmxOf w))
  | 0x23 => okIf (z w 20 6) (.stsw (mmxOf w))
  | 0x24 => okIf (z w 20 6) (.stsd (mmxOf w))
  | 0x25 => okIf (z w 20 6) (.stsq (mmxOf w))
  | 0x30 => okIf (z w 13 7) (.migrate (rD w) (fv 7 w 6) (fv 6 w 0))
  | 0x31 => okIf (z w 20 6) (.homeof (mmxOf w))
  | 0x32 => (scopeOf (fld w 23 3)).bind fun s => (orderOf (fld w 20 3)).bind fun o => okIf (z w 0 20) (.fence s o)
  | _ => none

/-- Instructions of class 4, mtx (02 Table 2.15, 19 Table 19.2): any other opcode is reserved (R41). -/
def decodeMtx (w : Word) (_rest : List Word) : Option Instr :=
  match opOf w with
  | 0x00 => okIf true (.mma (mxOf w))
  | 0x01 => okIf true (.mmaz (mxOf w))
  | 0x02 => okIf true (.mmnp (mxOf w))
  | 0x03 => okIf true (.mctr (mxOf w))
  | 0x04 => okIf true (.tldv (mxOf w))
  | 0x05 => okIf true (.tstv (mxOf w))
  | 0x06 => okIf true (.tzero (mxOf w))
  | 0x07 => okIf true (.tepi (mxOf w))
  | 0x08 => okIf true (.taddst (mxOf w))
  | 0x09 => okIf true (.tstore (mxOf w))
  | 0x0a => okIf (z w 0 26) (.mrel)
  | _ => none

/-- Instructions of class 5, copy (02 Table 2.15, 19 R304): any other opcode is reserved (R41). -/
def decodeCopy (w : Word) (_rest : List Word) : Option Instr :=
  match opOf w with
  | 0x00 => okIf (z w 14 6 && z w 1 6) (.itld (rD w) (rB w) (bitAt w 7) (bitAt w 0))
  | 0x01 => okIf (z w 14 6 && z w 0 7) (.cpin (rD w) (rB w) (bitAt w 7))
  | 0x02 => okIf (z w 0 7) (.cpga (rD w) (rA w) (rB w) (bitAt w 7))
  | 0x03 => okIf (z w 14 6 && z w 0 7) (.cpout (rD w) (rB w) (bitAt w 7))
  | 0x04 => okIf (z w 0 7) (.cpsc (rD w) (rA w) (rB w) (bitAt w 7))
  | 0x05 => okIf (z w 8 6 && z w 0 7) (.cpsig (rD w) (rA w) (bitAt w 7))
  | 0x06 =>
    (sweepOf (fld w 4 3)).bind fun o => okIf true (.sweep (rD w) (rA w) (rB w) (bitAt w 7) o (bitAt w 3) (fv 3 w 0))
  | 0x07 => okIf (z w 14 6 && z w 0 7) (.cpfill (rD w) (rB w) (bitAt w 7))
  | _ => none

/-- Instructions of class 6, sync (02 Table 2.16): any other opcode is reserved (R41). -/
def decodeSync (w : Word) (rest : List Word) : Option Instr :=
  match opOf w with
  | 0x00 => (saOf w (lit0 rest)).bind fun m => okIf (z (lit0 rest) 0 11) (.atadd m)
  | 0x01 => (saOf w (lit0 rest)).bind fun m => okIf (z (lit0 rest) 0 11) (.atmin m)
  | 0x02 => (saOf w (lit0 rest)).bind fun m => okIf (z (lit0 rest) 0 11) (.atmax m)
  | 0x03 => (saOf w (lit0 rest)).bind fun m => okIf (z (lit0 rest) 0 11) (.atminu m)
  | 0x04 => (saOf w (lit0 rest)).bind fun m => okIf (z (lit0 rest) 0 11) (.atmaxu m)
  | 0x05 => (saOf w (lit0 rest)).bind fun m => okIf (z (lit0 rest) 0 11) (.atand m)
  | 0x06 => (saOf w (lit0 rest)).bind fun m => okIf (z (lit0 rest) 0 11) (.ator m)
  | 0x07 => (saOf w (lit0 rest)).bind fun m => okIf (z (lit0 rest) 0 11) (.atxor m)
  | 0x08 => (saOf w (lit0 rest)).bind fun m => okIf (z (lit0 rest) 0 11) (.atxch m)
  | 0x09 => (saOf w (lit0 rest)).bind fun m => okIf (z (lit0 rest) 0 11) (.atcas m)
  | 0x0a => (saOf w (lit0 rest)).bind fun m => okIf (z (lit0 rest) 0 11) (.atfadd m)
  | 0x10 => (mmsOf w).bind fun m => okIf true (.rdadd m)
  | 0x11 => (mmsOf w).bind fun m => okIf true (.rdmin m)
  | 0x12 => (mmsOf w).bind fun m => okIf true (.rdmax m)
  | 0x13 => (mmsOf w).bind fun m => okIf true (.rdand m)
  | 0x14 => (mmsOf w).bind fun m => okIf true (.rdor m)
  | 0x15 => (mmsOf w).bind fun m => okIf true (.rdxor m)
  | 0x16 => (mmsOf w).bind fun m => okIf true (.rdfadd m)
  | 0x17 => (mmsOf w).bind fun m => okIf true (.rddadd m)
  | 0x18 => (saOf w (lit0 rest)).bind fun m => okIf (z (lit0 rest) 0 11) (.dqpush m)
  | 0x19 => (saOf w (lit0 rest)).bind fun m => okIf (z (lit0 rest) 0 11) (.dqpop m)
  | 0x1a => (saOf w (lit0 rest)).bind fun m => okIf (z (lit0 rest) 0 11) (.dqsteal m)
  | 0x20 => okIf (z w 20 6 && z w 8 6 && z w 0 8) (.tjoin (rA w))
  | 0x21 => okIf (z w 20 6 && z w 14 6 && z w 8 6 && z w 0 8) (.tleave)
  | 0x22 => okIf (z w 20 6 && z w 14 6 && z w 8 6 && z w 0 8) (.barrive)
  | 0x23 => okIf (z w 14 6 && z w 8 6 && z w 0 8) (.barwait (rD w))
  | 0x24 => okIf (z w 14 6 && z w 8 6 && z w 0 8) (.barsync (rD w))
  | 0x25 => okIf (z w 0 8) (.genwait (rD w) (rA w) (rB w))
  | 0x26 => okIf (z w 20 6 && z w 0 8) (.sigdec (rA w) (rB w))
  | 0x27 => okIf (z w 0 8) (.sigwait (rD w) (rA w) (rB w))
  | 0x28 => (seamOf (fld w 4 2)).bind fun m => okIf (z w 6 14) (.seam (rD w) m (fv 4 w 0))
  | 0x29 => okIf (z w 8 18) (.waitc (ctrOf (fld w 6 2)) (fv 6 w 0))
  | 0x2a => okIf (z w 20 6 && z w 8 6 && z w 0 8) (.lease (rA w))
  | 0x2b => okIf (z w 20 6 && z w 14 6 && z w 8 6 && z w 0 8) (.unlease)
  | _ => none

/-- Instructions of class 7, sys (02 Table 2.17, 23 Table 23.1): any other opcode is reserved (R41). -/
def decodeSys (w : Word) (_rest : List Word) : Option Instr :=
  match opOf w with
  | 0x00 => okIf (z w 14 12) (.trap (fv 14 w 0))
  | 0x01 => okIf (z w 0 26) (.eret)
  | 0x02 => okIf (z w 0 26) (.brk)
  | 0x03 => (sysRegOf (fld w 0 14)).bind fun n => okIf (z w 14 6) (.rdsys (rD w) n)
  | 0x04 => (sysRegOf (fld w 0 14)).bind fun n => okIf (z w 20 6) (.wrsys n (rA w))
  | 0x05 => okIf (z w 0 20) (.iregion (rD w))
  | 0x06 => okIf (z w 0 26) (.irend)
  | 0x07 => okIf (z w 0 20) (.safept (rD w))
  | 0x08 => okIf (z w 0 14) (.ckbegin (rD w) (rA w))
  | 0x09 => okIf (z w 0 14) (.ckcommit (rD w) (rA w))
  | 0x0a => okIf (z w 0 14) (.rpget (rD w) (rA w))
  | 0x0b => okIf (z w 20 6 && z w 13 1) (.tlbinv (rA w) (fv 13 w 0))
  | 0x0c => okIf (z w 20 6) (.icinv (rA w) (fv 14 w 0))
  | 0x0d => okIf (z w 0 26) (.halt)
  | 0x0e => okIf (z w 20 6 && z w 2 12) (.preempt (fv 2 w 0) (rA w))
  | _ => none

/-- The instruction of a class that a word and its following words form; none for a reserved encoding (R24, R43). -/
def decodeIn (c : EngineClass) (w : Word) (rest : List Word) : Option Instr :=
  match c with
  | .sctl => decodeSctl w rest
  | .valu => decodeValu w rest
  | .vspc => decodeVspc w rest
  | .mem => decodeMem w rest
  | .mtx => decodeMtx w rest
  | .copy => decodeCopy w rest
  | .sync => decodeSync w rest
  | .sys => decodeSys w rest

/-! ### Words of an instruction and placement in a clause (R27, R28) -/

/-- EngineClass-1 opcodes whose A field and whose B field name sources (06). -/
def valuSources (op : Nat) : Bool × Bool :=
  if op = 0x00 ∨ op = 0x0F ∨ op = 0x38 ∨ op = 0x39 then (true, false)
  else if op ≤ 0x15 ∨ (0x18 ≤ op ∧ op ≤ 0x1E) ∨ (0x20 ≤ op ∧ op ≤ 0x25) ∨ (0x28 ≤ op ∧ op ≤ 0x2D)
    ∨ (0x30 ≤ op ∧ op ≤ 0x33) ∨ op = 0x3A ∨ op = 0x3B then (true, true)
  else (false, false)

/-- EngineClass-2 opcodes whose A field and whose B field name sources (07, 11). -/
def vspcSources (op : Nat) : Bool × Bool :=
  if op = 0x03 ∨ (0x13 ≤ op ∧ op ≤ 0x15) ∨ (0x19 ≤ op ∧ op ≤ 0x1B) ∨ (0x20 ≤ op ∧ op ≤ 0x23) ∨ op = 0x28
    ∨ op = 0x29 then (true, true)
  else if op ≤ 0x0A ∨ (0x10 ≤ op ∧ op ≤ 0x12) ∨ op = 0x18 ∨ (0x24 ≤ op ∧ op ≤ 0x27) ∨ op = 0x2A then (true, false)
  else (false, false)

/-- One literal word when a source field names 0xEF (R27). -/
def literalWords (w : Word) (s : Bool × Bool) : Nat :=
  if (s.1 && fld w 8 8 == 0xEF) || (s.2 && fld w 0 8 == 0xEF) then 1 else 0

/-- The words that the instruction of a word occupies in a clause of a class (R27); a reserved opcode occupies one. -/
def wordCount (c : EngineClass) (w : Word) : Nat :=
  match c with
  | .sctl => if opOf w = 0x03 ∨ opOf w = 0x04 then 2 else 1
  | .valu => 1 + literalWords w (valuSources (opOf w))
  | .vspc => 1 + literalWords w (vspcSources (opOf w))
  | .mem => if opOf w = 0x07 ∨ opOf w = 0x08 then 2 else 1
  | .sync => if opOf w ≤ 0x0A ∨ (0x18 ≤ opOf w ∧ opOf w ≤ 0x1A) then 2 else 1
  | _ => 1

/-- The instructions that end their clause (R28, 02 Table 2.2). -/
def endsClause (c : EngineClass) (w : Word) : Bool :=
  match c with
  | .sctl => 0x20 ≤ opOf w && opOf w ≤ 0x28
  | .mem => opOf w ≤ 0x08 || opOf w == 0x18 || opOf w == 0x19 || opOf w == 0x30
  | .sync => opOf w ≤ 0x0A || (0x18 ≤ opOf w && opOf w ≤ 0x1A) || (0x23 ≤ opOf w && opOf w ≤ 0x25)
      || (0x27 ≤ opOf w && opOf w ≤ 0x29)
  | .sys => opOf w ≤ 0x02 || opOf w == 0x05 || (0x07 ≤ opOf w && opOf w ≤ 0x09) || opOf w == 0x0D || opOf w == 0x0E
  | _ => false

/-- The placement rules of a clause's words: every word of an instruction lies within the clause, and a clause-ending
instruction is the last (R27, R28). -/
def placed (c : EngineClass) : List Word → Bool
  | [] => true
  | [w] => wordCount c w == 1
  | w :: x :: rest =>
    if wordCount c w = 1 then !endsClause c w && placed c (x :: rest)
    else (!endsClause c w || rest.isEmpty) && placed c rest

/-! ### Decoding -/

/-- Why words are not an instruction. -/
inductive Reject where
  /-- A word of the instruction would lie past the end of the clause: illegal-clause trap (R27). -/
  | pastClause
  /-- A reserved opcode, a non-zero zero field, a code outside its set: illegal-instruction trap (R43). -/
  | illegalInstruction
  deriving DecidableEq, Repr

/-- The instruction at the head of the words left in a clause of a class. -/
def decode (c : EngineClass) : List Word → Except Reject Instr
  | [] => .error .pastClause
  | w :: rest =>
    if rest.length + 1 < wordCount c w then .error .pastClause
    else match decodeIn c w rest with
      | none => .error .illegalInstruction
      | some i => .ok i

/-! ### Encoding -/

/-- A word of an opcode and the number that its fields form. -/
def eW (op f : Nat) : Word := BitVec.ofNat 32 (op * 2 ^ 26 + f)
def eSR (op d a b fn : Nat) : List Word := [eW op (d * 2 ^ 20 + a * 2 ^ 14 + b * 2 ^ 8 + fn)]
def eSI (op d a i : Nat) : List Word := [eW op (d * 2 ^ 20 + a * 2 ^ 14 + i)]
def eBR (op h p n o : Nat) : List Word := [eW op (h * 2 ^ 24 + p * 2 ^ 21 + n * 2 ^ 20 + o)]
def eBS (op n o : Nat) : List Word := [eW op (n * 2 ^ 20 + o)]
def eVR (op m : Nat) (f : VR) : List Word :=
  eW op (m * 2 ^ 24 + b2n f.nwb * 2 ^ 23 + f.d.toNat * 2 ^ 16 + srcCode f.a * 2 ^ 8 + srcCode f.b) :: srcLits f.a f.b
def eVR1 (op m : Nat) (f : VR1) (b : Nat) : List Word :=
  eW op (m * 2 ^ 24 + b2n f.nwb * 2 ^ 23 + f.d.toNat * 2 ^ 16 + srcCode f.a * 2 ^ 8 + b) :: srcLit f.a
def eVC (op c : Nat) (f : VC) : List Word :=
  eW op (c * 2 ^ 23 + f.p.toNat * 2 ^ 20 + srcCode f.a * 2 ^ 8 + srcCode f.b) :: srcLits f.a f.b
def eMML (op : Nat) (m : MML) : Word :=
  eW op (m.ls.toNat * 2 ^ 20 + m.vd.toNat * 2 ^ 13 + m.va.toNat * 2 ^ 6 + m.sb.toNat)
def eMMS (op : Nat) (m : MMS) : Word :=
  eW op (scopeCode m.scope * 2 ^ 23 + orderCode m.order * 2 ^ 20 + m.vd.toNat * 2 ^ 13 + m.va.toNat * 2 ^ 6 + m.sb.toNat)
def eMMX (op : Nat) (m : MMX) : Word := eW op (m.vd.toNat * 2 ^ 13 + m.va.toNat * 2 ^ 6 + m.sb.toNat)
def eExt (s : Scope) (o : Order) (f : Nat) : Word := BitVec.ofNat 32 (scopeCode s * 2 ^ 29 + orderCode o * 2 ^ 26 + f)
def eSA (op : Nat) (m : SA) : List Word :=
  [eW op (m.ls.toNat * 2 ^ 20 + m.vd.toNat * 2 ^ 13 + m.va.toNat * 2 ^ 6 + m.sb.toNat),
   eExt m.scope m.order (b2n m.w64 * 2 ^ 25 + m.vx.toNat * 2 ^ 18 + m.vc.toNat * 2 ^ 11)]
def eMX (op : Nat) (m : MX) : Word :=
  eW op (m.shape.toNat * 2 ^ 21 + m.fs.toNat * 2 ^ 18 + b2n m.reuse * 2 ^ 17 + m.a.toNat * 2 ^ 10 + m.desc.toNat * 2 ^ 4
    + b2n m.acc * 2 ^ 3 + b2n m.neg * 2 ^ 2 + b2n m.trb * 2 + b2n m.evt)
def eCP (op d k p fl : Nat) : Word := eW op (d * 2 ^ 20 + k * 2 ^ 14 + p * 2 ^ 8 + fl)

/-- The class and the words of an instruction; the steps of spec/95 have none. -/
def encode : Instr → Option (EngineClass × List Word)
  | .snop => some (.sctl, eSR 0x00 0 0 0 0)
  | .smov d a => some (.sctl, eSR 0x01 d.toNat a.toNat 0 0)
  | .smovi d i => some (.sctl, eSI 0x02 d.toNat 0 i.toNat)
  | .slit d l => some (.sctl, eSI 0x03 d.toNat 0 0 ++ [l])
  | .slith d a l => some (.sctl, eSI 0x04 d.toNat a.toNat 0 ++ [l])
  | .sadd d a b => some (.sctl, eSR 0x05 d.toNat a.toNat b.toNat 0)
  | .ssub d a b => some (.sctl, eSR 0x07 d.toNat a.toNat b.toNat 0)
  | .smul d a b => some (.sctl, eSR 0x08 d.toNat a.toNat b.toNat 0)
  | .sand d a b => some (.sctl, eSR 0x0a d.toNat a.toNat b.toNat 0)
  | .sor d a b => some (.sctl, eSR 0x0c d.toNat a.toNat b.toNat 0)
  | .sxor d a b => some (.sctl, eSR 0x0e d.toNat a.toNat b.toNat 0)
  | .sshl d a b => some (.sctl, eSR 0x10 d.toNat a.toNat b.toNat 0)
  | .sshr d a b => some (.sctl, eSR 0x12 d.toNat a.toNat b.toNat 0)
  | .ssra d a b => some (.sctl, eSR 0x14 d.toNat a.toNat b.toNat 0)
  | .saddi d a i => some (.sctl, eSI 0x06 d.toNat a.toNat i.toNat)
  | .sandi d a i => some (.sctl, eSI 0x0b d.toNat a.toNat i.toNat)
  | .sori d a i => some (.sctl, eSI 0x0d d.toNat a.toNat i.toNat)
  | .sxori d a i => some (.sctl, eSI 0x0f d.toNat a.toNat i.toNat)
  | .sshli d a i => some (.sctl, eSI 0x11 d.toNat a.toNat i.toNat)
  | .sshri d a i => some (.sctl, eSI 0x13 d.toNat a.toNat i.toNat)
  | .ssrai d a i => some (.sctl, eSI 0x15 d.toNat a.toNat i.toNat)
  | .smulh x d a b => some (.sctl, eSR 0x09 d.toNat a.toNat b.toNat (b2n x))
  | .smin x d a b => some (.sctl, eSR 0x16 d.toNat a.toNat b.toNat (b2n x))
  | .smax x d a b => some (.sctl, eSR 0x17 d.toNat a.toNat b.toNat (b2n x))
  | .scmov x d a b => some (.sctl, eSR 0x1b d.toNat a.toNat b.toNat (b2n x))
  | .scmp c d a b => some (.sctl, eSR 0x18 d.toNat a.toNat b.toNat (scondCode c))
  | .spopc d a => some (.sctl, eSR 0x19 d.toNat a.toNat 0 0)
  | .sclz d a => some (.sctl, eSR 0x1a d.toNat a.toNat 0 0)
  | .bra p n o => some (.sctl, eBR 0x20 0 p.toNat (b2n n) o.toNat)
  | .brp h p n o => some (.sctl, eBR 0x21 (hintCode h) p.toNat (b2n n) o.toNat)
  | .brz n o => some (.sctl, eBS 0x22 n.toNat o.toNat)
  | .brnz n o => some (.sctl, eBS 0x23 n.toNat o.toNat)
  | .call n o => some (.sctl, eBS 0x24 n.toNat o.toNat)
  | .loop n o => some (.sctl, eBS 0x26 n.toNat o.toNat)
  | .jmpr d a => some (.sctl, eSR 0x25 d.toNat a.toNat 0 0)
  | .exit => some (.sctl, eSR 0x27 0 0 0 0)
  | .yield => some (.sctl, eSR 0x28 0 0 0 0)
  | .plog d a b t => some (.sctl, eSR 0x30 d.toNat a.toNat b.toNat t.toNat)
  | .pmovToPredicate d a => some (.sctl, eSR 0x31 d.toNat a.toNat 0 0)
  | .pmovToScalar d a => some (.sctl, eSR 0x31 d.toNat a.toNat 0 1)
  | .emrd d l => some (.sctl, eSR 0x32 d.toNat 0 0 (b2n l))
  | .emwr a => some (.sctl, eSR 0x33 0 a.toNat 0 0)
  | .emwrPredicate f a => some (.sctl, eSR 0x33 0 a.toNat 0 (emOpCode f))
  | .pcnt d a l => some (.sctl, eSR 0x34 d.toNat a.toNat 0 (b2n l))
  | .pfirst d a l => some (.sctl, eSR 0x35 d.toNat a.toNat 0 (b2n l))
  | .sread d n => some (.sctl, eSI 0x38 d.toNat 0 (specialRegCode n))
  | .swrite n a => some (.sctl, eSI 0x39 0 a.toNat (specialRegCode n))
  | .vmov f => some (.valu, eVR1 0x00 0 f 0)
  | .vadd f => some (.valu, eVR 0x01 0 f)
  | .vsub f => some (.valu, eVR 0x02 0 f)
  | .vmul f => some (.valu, eVR 0x03 0 f)
  | .vmulh x f => some (.valu, eVR 0x04 (b2n x) f)
  | .vmad f => some (.valu, eVR 0x05 0 f)
  | .vand f => some (.valu, eVR 0x06 0 f)
  | .vor f => some (.valu, eVR 0x07 0 f)
  | .vxor f => some (.valu, eVR 0x08 0 f)
  | .vandn f => some (.valu, eVR 0x09 0 f)
  | .vshl f => some (.valu, eVR 0x0a 0 f)
  | .vshr f => some (.valu, eVR 0x0b 0 f)
  | .vsra f => some (.valu, eVR 0x0c 0 f)
  | .vmin x f => some (.valu, eVR 0x0d (b2n x) f)
  | .vmax x f => some (.valu, eVR 0x0e (b2n x) f)
  | .vabs x f => some (.valu, eVR1 0x0f (b2n x) f 0)
  | .vadds x f => some (.valu, eVR 0x10 (b2n x) f)
  | .vsubs x f => some (.valu, eVR 0x11 (b2n x) f)
  | .vadd64 f => some (.valu, eVR 0x12 0 f)
  | .vsub64 f => some (.valu, eVR 0x13 0 f)
  | .vmulw x f => some (.valu, eVR 0x14 (b2n x) f)
  | .vsel m f => some (.valu, eVR 0x15 m.toNat f)
  | .fadd r f => some (.valu, eVR 0x18 (rmCode r) f)
  | .fsub r f => some (.valu, eVR 0x19 (rmCode r) f)
  | .fmul r f => some (.valu, eVR 0x1a (rmCode r) f)
  | .ffma r f => some (.valu, eVR 0x1b (rmCode r) f)
  | .ffms r f => some (.valu, eVR 0x1c (rmCode r) f)
  | .fmin f => some (.valu, eVR 0x1d 0 f)
  | .fmax f => some (.valu, eVR 0x1e 0 f)
  | .dadd r f => some (.valu, eVR 0x20 (rmCode r) f)
  | .dsub r f => some (.valu, eVR 0x21 (rmCode r) f)
  | .dmul r f => some (.valu, eVR 0x22 (rmCode r) f)
  | .dfma r f => some (.valu, eVR 0x23 (rmCode r) f)
  | .dmin f => some (.valu, eVR 0x24 0 f)
  | .dmax f => some (.valu, eVR 0x25 0 f)
  | .hadd2 r f => some (.valu, eVR 0x28 (rmCode r) f)
  | .hmul2 r f => some (.valu, eVR 0x29 (rmCode r) f)
  | .hfma2 r f => some (.valu, eVR 0x2a (rmCode r) f)
  | .bfma2 r f => some (.valu, eVR 0x2b (rmCode r) f)
  | .dot4 x f => some (.valu, eVR 0x2c (b2n x) f)
  | .dot2h r f => some (.valu, eVR 0x2d (rmCode r) f)
  | .vcmp c f => some (.valu, eVC 0x30 (condCode c) f)
  | .vcmpu c f => some (.valu, eVC 0x31 (condCode c) f)
  | .fcmp c f => some (.valu, eVC 0x32 (condCode c) f)
  | .dcmp c f => some (.valu, eVC 0x33 (condCode c) f)
  | .cvt r f d x => some (.valu, eVR1 0x38 (rmCode r) f (cvtCode d * 2 ^ 4 + cvtCode x))
  | .cvtf r f p x k => some (.valu, eVR1 0x39 (rmCode r) f (cvtCode p * 2 ^ 4 + b2n x * 2 ^ 3 + k.toNat))
  | .pack r f => some (.valu, eVR 0x3a (rmCode r) f)
  | .unpk f => some (.valu, eVR 0x3b 0 f)
  | .frcp f => some (.vspc, eVR1 0x00 0 f 0)
  | .frsq f => some (.vspc, eVR1 0x01 0 f 0)
  | .fsqrt f => some (.vspc, eVR1 0x02 0 f 0)
  | .fdiv f => some (.vspc, eVR 0x03 0 f)
  | .fexp2 f => some (.vspc, eVR1 0x04 0 f 0)
  | .flog2 f => some (.vspc, eVR1 0x05 0 f 0)
  | .fsinpi f => some (.vspc, eVR1 0x06 0 f 0)
  | .fcospi f => some (.vspc, eVR1 0x07 0 f 0)
  | .ftanh f => some (.vspc, eVR1 0x08 0 f 0)
  | .drcpa f => some (.vspc, eVR1 0x09 0 f 0)
  | .drsqa f => some (.vspc, eVR1 0x0a 0 f 0)
  | .popc f => some (.vspc, eVR1 0x10 0 f 0)
  | .clz f => some (.vspc, eVR1 0x11 0 f 0)
  | .brev f => some (.vspc, eVR1 0x12 0 f 0)
  | .bfe x f => some (.vspc, eVR 0x13 (b2n x) f)
  | .bfi f => some (.vspc, eVR 0x14 0 f)
  | .funsh f => some (.vspc, eVR 0x15 0 f)
  | .bsinit a => some (.vspc, eW 0x18 (srcCode a * 2 ^ 8) :: srcLit a)
  | .bsrd f => some (.vspc, eVR 0x19 0 f)
  | .bsfill f => some (.vspc, eVR 0x1a 0 f)
  | .bspeek f => some (.vspc, eVR 0x1b 0 f)
  | .shfl f => some (.vspc, eVR 0x20 0 f)
  | .shflup f => some (.vspc, eVR 0x21 0 f)
  | .shfldn f => some (.vspc, eVR 0x22 0 f)
  | .shflx f => some (.vspc, eVR 0x23 0 f)
  | .vote c p a => some (.vspc, eW 0x24 (voteCode c * 2 ^ 23 + p.toNat * 2 ^ 20 + srcCode a * 2 ^ 8) :: srcLit a)
  | .redi f o => some (.vspc, eVR1 0x25 0 f (scanOpCode o))
  | .redf f o => some (.vspc, eVR1 0x26 0 f (redfCode o))
  | .scan f x o => some (.vspc, eVR1 0x27 0 f (b2n x * 2 ^ 4 + scanOpCode o))
  | .rdlane f => some (.vspc, eVR 0x28 0 f)
  | .wrlane f => some (.vspc, eVR 0x29 0 f)
  | .bcast x f => some (.vspc, eVR1 0x2a (b2n x) f 0)
  | .ldb m => some (.mem, [eMML 0x00 m])
  | .ldbs m => some (.mem, [eMML 0x01 m])
  | .ldh m => some (.mem, [eMML 0x02 m])
  | .ldhs m => some (.mem, [eMML 0x03 m])
  | .ldw m => some (.mem, [eMML 0x04 m])
  | .ldd m => some (.mem, [eMML 0x05 m])
  | .ldq m => some (.mem, [eMML 0x06 m])
  | .ldaw m s o => some (.mem, [eMML 0x07 m, eExt s o 0])
  | .ldad m s o => some (.mem, [eMML 0x08 m, eExt s o 0])
  | .stb m => some (.mem, [eMMS 0x10 m])
  | .sth m => some (.mem, [eMMS 0x11 m])
  | .stw m => some (.mem, [eMMS 0x12 m])
  | .std m => some (.mem, [eMMS 0x13 m])
  | .stq m => some (.mem, [eMMS 0x14 m])
  | .strw m => some (.mem, [eMMS 0x15 m])
  | .strd m => some (.mem, [eMMS 0x16 m])
  | .ldpw m => some (.mem, [eMML 0x18 m])
  | .ldpd m => some (.mem, [eMML 0x19 m])
  | .stpw m => some (.mem, [eMMS 0x1a m])
  | .stpd m => some (.mem, [eMMS 0x1b m])
  | .ldsw m => some (.mem, [eMMX 0x20 m])
  | .ldsd m => some (.mem, [eMMX 0x21 m])
  | .ldsq m => some (.mem, [eMMX 0x22 m])
  | .stsw m => some (.mem, [eMMX 0x23 m])
  | .stsd m => some (.mem, [eMMX 0x24 m])
  | .stsq m => some (.mem, [eMMX 0x25 m])
  | .migrate l a b => some (.mem, [eW 0x30 (l.toNat * 2 ^ 20 + a.toNat * 2 ^ 6 + b.toNat)])
  | .homeof m => some (.mem, [eMMX 0x31 m])
  | .fence s o => some (.mem, [eW 0x32 (scopeCode s * 2 ^ 23 + orderCode o * 2 ^ 20)])
  | .mma m => some (.mtx, [eMX 0x00 m])
  | .mmaz m => some (.mtx, [eMX 0x01 m])
  | .mmnp m => some (.mtx, [eMX 0x02 m])
  | .mctr m => some (.mtx, [eMX 0x03 m])
  | .tldv m => some (.mtx, [eMX 0x04 m])
  | .tstv m => some (.mtx, [eMX 0x05 m])
  | .tzero m => some (.mtx, [eMX 0x06 m])
  | .tepi m => some (.mtx, [eMX 0x07 m])
  | .taddst m => some (.mtx, [eMX 0x08 m])
  | .tstore m => some (.mtx, [eMX 0x09 m])
  | .mrel => some (.mtx, [eW 0x0a 0])
  | .itld q p e x => some (.copy, [eCP 0x00 q.toNat 0 p.toNat (b2n e * 2 ^ 7 + b2n x)])
  | .cpin d p e => some (.copy, [eCP 0x01 d.toNat 0 p.toNat (b2n e * 2 ^ 7)])
  | .cpout d p e => some (.copy, [eCP 0x03 d.toNat 0 p.toNat (b2n e * 2 ^ 7)])
  | .cpga d l p e => some (.copy, [eCP 0x02 d.toNat l.toNat p.toNat (b2n e * 2 ^ 7)])
  | .cpsc d l p e => some (.copy, [eCP 0x04 d.toNat l.toNat p.toNat (b2n e * 2 ^ 7)])
  | .cpsig a x e => some (.copy, [eCP 0x05 a.toNat x.toNat 0 (b2n e * 2 ^ 7)])
  | .sweep d x p e o y k => some (.copy, [eCP 0x06 d.toNat x.toNat p.toNat 
      (b2n e * 2 ^ 7 + sweepCode o * 2 ^ 4 + b2n y * 2 ^ 3 + k.toNat)])
  | .cpfill d p e => some (.copy, [eCP 0x07 d.toNat 0 p.toNat (b2n e * 2 ^ 7)])
  | .atadd m => some (.sync, eSA 0x00 m)
  | .atmin m => some (.sync, eSA 0x01 m)
  | .atmax m => some (.sync, eSA 0x02 m)
  | .atminu m => some (.sync, eSA 0x03 m)
  | .atmaxu m => some (.sync, eSA 0x04 m)
  | .atand m => some (.sync, eSA 0x05 m)
  | .ator m => some (.sync, eSA 0x06 m)
  | .atxor m => some (.sync, eSA 0x07 m)
  | .atxch m => some (.sync, eSA 0x08 m)
  | .atcas m => some (.sync, eSA 0x09 m)
  | .atfadd m => some (.sync, eSA 0x0a m)
  | .rdadd m => some (.sync, [eMMS 0x10 m])
  | .rdmin m => some (.sync, [eMMS 0x11 m])
  | .rdmax m => some (.sync, [eMMS 0x12 m])
  | .rdand m => some (.sync, [eMMS 0x13 m])
  | .rdor m => some (.sync, [eMMS 0x14 m])
  | .rdxor m => some (.sync, [eMMS 0x15 m])
  | .rdfadd m => some (.sync, [eMMS 0x16 m])
  | .rddadd m => some (.sync, [eMMS 0x17 m])
  | .dqpush m => some (.sync, eSA 0x18 m)
  | .dqpop m => some (.sync, eSA 0x19 m)
  | .dqsteal m => some (.sync, eSA 0x1a m)
  | .tjoin a => some (.sync, eSR 0x20 0 a.toNat 0 0)
  | .tleave => some (.sync, eSR 0x21 0 0 0 0)
  | .barrive => some (.sync, eSR 0x22 0 0 0 0)
  | .barwait l => some (.sync, eSR 0x23 l.toNat 0 0 0)
  | .barsync l => some (.sync, eSR 0x24 l.toNat 0 0 0)
  | .genwait l a b => some (.sync, eSR 0x25 l.toNat a.toNat b.toNat 0)
  | .sigdec a b => some (.sync, eSR 0x26 0 a.toNat b.toNat 0)
  | .sigwait l a b => some (.sync, eSR 0x27 l.toNat a.toNat b.toNat 0)
  | .seam l m k => some (.sync, eSR 0x28 l.toNat 0 0 (seamCode m * 2 ^ 4 + k.toNat))
  | .waitc c n => some (.sync, eSR 0x29 0 0 0 (ctrCode c * 2 ^ 6 + n.toNat))
  | .lease a => some (.sync, eSR 0x2a 0 a.toNat 0 0)
  | .unlease => some (.sync, eSR 0x2b 0 0 0 0)
  | .trap n => some (.sys, eSI 0x00 0 0 n.toNat)
  | .eret => some (.sys, eSI 0x01 0 0 0)
  | .brk => some (.sys, eSI 0x02 0 0 0)
  | .irend => some (.sys, eSI 0x06 0 0 0)
  | .halt => some (.sys, eSI 0x0d 0 0 0)
  | .rdsys d n => some (.sys, eSI 0x03 d.toNat 0 (sysRegCode n))
  | .wrsys n a => some (.sys, eSI 0x04 0 a.toNat (sysRegCode n))
  | .iregion l => some (.sys, eSI 0x05 l.toNat 0 0)
  | .safept l => some (.sys, eSI 0x07 l.toNat 0 0)
  | .ckbegin d a => some (.sys, eSI 0x08 d.toNat a.toNat 0)
  | .ckcommit d a => some (.sys, eSI 0x09 d.toNat a.toNat 0)
  | .rpget d a => some (.sys, eSI 0x0a d.toNat a.toNat 0)
  | .tlbinv a n => some (.sys, eSI 0x0b 0 a.toNat n.toNat)
  | .icinv a n => some (.sys, eSI 0x0c 0 a.toNat n.toNat)
  | .preempt k a => some (.sys, eSI 0x0e 0 a.toNat k.toNat)
  | .clauseFetch .. | .clauseIssue .. | .issueDueLevel .. | .counterRoom .. | .safePointOverrunTrap ..
  | .translationWalkDone .. | .inPlaceAccessComplete .. | .packetAccept .. | .hotLineRunClose ..
  | .arrivalAcknowledge .. | .hierarchicalArrival .. | .orderingHoldEnd .. | .jacketDepart ..
  | .jacketArrive .. | .admitItem .. | .waitWake .. | .spinDetectorFire .. | .spinWaitTimeout .. | .brpResolve ..
  | .matrixOperandsConsumed .. | .matrixComplete .. | .copyStart .. | .copyFinish .. | .copyFaultReport ..
  | .waitCounterSatisfied .. | .trapEntry .. | .handlerStart .. | .regionRestart .. | .teamRollback ..
  | .preemptSave .. | .teamSave .. | .groupRetire .. | .append .. | .cardTake .. | .chunkDeal .. | .steal ..
  | .balancerMove .. | .mirrorCopyAccept .. | .dieReset .. | .flitReceive .. | .linkDown .. | .linkRetrained ..
  | .reorderWindowRoom .. | .packageLost .. | .pageMoveStart .. | .cutover .. | .redirect .. | .pageMoveEnd ..
  | .autoPageMove .. | .partnerWrite .. | .registerWrite .. | .rdmaWrite .. | .rdmaRead .. | .rdmaSend ..
  | .atomicFetchAdd .. | .atomicCompareSwap .. | .invalidRequest .. | .regq .. | .unregq ..
  | .preemptCommand .. | .resume .. | .kill .. | .replay .. | .drain .. | .update .. | .homeReturn ..
  | .route .. | .movlist .. | .hwin .. | .attest .. | .move .. | .partner .. | .tlbinvCommand ..
  | .icinvCommand .. | .unknownCommand .. | .homeDrained .. | .powerOn .. | .bootImageVerify ..
  | .dieIdentity .. | .calibration .. | .homeReady .. | .temperatureChange .. | .supplyDroop ..
  | .portStateChange .. | .coreResetComplete .. | .uncorrectableEccError .. | .invalidationComplete ..
  | .checkpointCrcComplete .. | .roceAcknowledgement .. | .clockIncrement .. => none

/-! ### One word of the opcode table -/

/-- The classes of an opcode, the class whose row fixes most bits first (log 7); a word carries no class (R24). -/
def tableOrder (op : Nat) : List EngineClass :=
  match op with
  | 0x00 => [.sctl, .copy, .sys, .valu, .vspc, .mtx, .mem, .sync]
  | 0x01 => [.sys, .sctl, .copy, .vspc, .valu, .mtx, .mem, .sync]
  | 0x02 => [.sys, .vspc, .copy, .sctl, .mtx, .valu, .mem, .sync]
  | 0x03 => [.copy, .mtx, .sys, .valu, .vspc, .sctl, .mem, .sync]
  | 0x04 => [.vspc, .copy, .mtx, .sys, .valu, .sctl, .mem, .sync]
  | 0x05 => [.sys, .copy, .vspc, .sctl, .mtx, .valu, .mem, .sync]
  | 0x06 => [.sys, .mtx, .vspc, .valu, .sctl, .mem, .copy, .sync]
  | 0x07 => [.sys, .copy, .vspc, .mtx, .sctl, .valu, .mem, .sync]
  | 0x08 => [.sys, .vspc, .sctl, .mtx, .valu, .mem, .sync]
  | 0x09 => [.sys, .vspc, .sctl, .mtx, .valu, .sync]
  | 0x0a => [.mtx, .sys, .vspc, .sctl, .valu, .sync]
  | 0x0b => [.sys, .valu, .sctl]
  | 0x0c => [.sctl, .sys, .valu]
  | 0x0d => [.sys, .valu, .sctl]
  | 0x0e => [.sys, .sctl, .valu]
  | 0x0f => [.valu, .sctl]
  | 0x10 => [.vspc, .sctl, .valu, .mem, .sync]
  | 0x11 => [.vspc, .sctl, .valu, .mem, .sync]
  | 0x12 => [.vspc, .sctl, .valu, .mem, .sync]
  | 0x14 => [.sctl, .vspc, .valu, .mem, .sync]
  | 0x15 => [.sctl, .vspc, .valu, .mem, .sync]
  | 0x18 => [.vspc, .sctl, .valu, .mem, .sync]
  | 0x19 => [.sctl, .vspc, .valu, .mem, .sync]
  | 0x1a => [.sctl, .vspc, .valu, .mem, .sync]
  | 0x1b => [.sctl, .vspc, .valu, .mem]
  | 0x20 => [.sync, .mem, .sctl, .vspc, .valu]
  | 0x21 => [.sync, .mem, .vspc, .sctl, .valu]
  | 0x22 => [.sync, .mem, .vspc, .sctl, .valu]
  | 0x23 => [.sync, .mem, .vspc, .sctl, .valu]
  | 0x24 => [.sync, .vspc, .mem, .valu, .sctl]
  | 0x25 => [.sctl, .sync, .vspc, .mem, .valu]
  | 0x26 => [.sync, .vspc, .sctl]
  | 0x27 => [.sctl, .sync, .vspc]
  | 0x28 => [.sctl, .sync, .vspc, .valu]
  | 0x29 => [.sync, .vspc, .valu]
  | 0x2a => [.sync, .vspc, .valu]
  | 0x2b => [.sync, .valu]
  | 0x30 => [.sctl, .mem, .valu]
  | 0x31 => [.sctl, .mem, .valu]
  | 0x32 => [.mem, .sctl, .valu]
  | _ => [.sctl, .valu, .vspc, .mem, .mtx, .copy, .sync, .sys]

/-- The first class of a list in which words decode. -/
def firstDecoding (ws : List Word) : List EngineClass → Option (EngineClass × Instr)
  | [] => none
  | c :: cs => match decode c ws with
    | .ok i => some (c, i)
    | .error _ => firstDecoding ws cs

/-- The words of an instruction whose bits a number holds, lowest word first, zero above. -/
def tableWords (w : Nat) : List Word := [BitVec.ofNat 32 w, BitVec.ofNat 32 (w / 2 ^ 32)]

/-- The class and instruction of a table word (log 7). -/
def tableInstr (nbits w : Nat) : Option (EngineClass × Instr) :=
  let ws := tableWords (w % 2 ^ nbits)
  firstDecoding ws (tableOrder (opOf (lit0 ws)))

/-- The instruction that the decoder reads from a row's word. -/
def decodeTableWord (nbits w : Nat) : Option Instr := (tableInstr nbits w).map (·.2)

end Sys2Proof
end

