-- ==== Sys2Proof/Machine/Map.lean ====
section
/-! DEFINITION. Sparse storage: a list of (key, value) pairs in one canonical form, and little-endian bytes over it.
Keys rise strictly and no entry equals the value an unlisted key reads as, so equal contents are equal data. -/

namespace Sys2Proof.Machine

/-- Sparse contents keyed by a number. -/
abbrev Cells (α : Type) := List (Nat × α)

/-- What key `k` holds; `d` is what an unlisted key reads as. -/
def Cells.get {α : Type} (d : α) : Cells α → Nat → α
  | [], _ => d
  | (k', v) :: m, k => if k = k' then v else Cells.get d m k

/-- Nothing stands at key `k`. -/
def Cells.erase {α : Type} (m : Cells α) (k : Nat) : Cells α := m.filter fun e => decide (e.1 ≠ k)

/-- An entry takes its place among the rising keys. -/
def Cells.insert {α : Type} : Cells α → Nat → α → Cells α
  | [], k, v => [(k, v)]
  | (k', v') :: m, k, v =>
    if k < k' then (k, v) :: (k', v') :: m
    else if k = k' then (k, v) :: m
    else (k', v') :: Cells.insert m k v

/-- Puts `v` at key `k`; the value an unlisted key reads as removes the entry. -/
def Cells.set {α : Type} [DecidableEq α] (d : α) (m : Cells α) (k : Nat) (v : α) : Cells α :=
  if v = d then m.erase k else m.insert k v

/-- Every key lies at or above `n`, keys rise strictly and no entry is the default. -/
def Cells.wfFrom {α : Type} [DecidableEq α] (d : α) : Nat → Cells α → Bool
  | _, [] => true
  | n, (k, v) :: m => decide (n ≤ k) && decide (v ≠ d) && Cells.wfFrom d (k + 1) m

/-- The canonical form. -/
def Cells.wf {α : Type} [DecidableEq α] (d : α) (m : Cells α) : Bool := Cells.wfFrom d 0 m

/-- The consecutive keys from `k` receive the values of a list. -/
def Cells.setMany {α : Type} [DecidableEq α] (d : α) : Cells α → Nat → List α → Cells α
  | m, _, [] => m
  | m, k, v :: vs => Cells.setMany d (Cells.set d m k v) (k + 1) vs

/-- The `n` values at consecutive keys from `k`. -/
def Cells.getMany {α : Type} (d : α) (m : Cells α) (k n : Nat) : List α :=
  (List.range n).map fun i => Cells.get d m (k + i)

/-- Removes every key that a test names. -/
def Cells.drop {α : Type} (m : Cells α) (p : Nat → Bool) : Cells α := m.filter fun e => !p e.1

/-- Little-endian value of a list of bytes (R3). -/
def leNat : List Byte → Nat
  | [] => 0
  | b :: bs => b.toNat + 256 * leNat bs

/-- The `n` little-endian bytes of a number (R3). -/
def leBytes : Nat → Nat → List Byte
  | 0, _ => []
  | n + 1, x => BitVec.ofNat 8 x :: leBytes n (x / 256)

/-- Byte storage: an unlisted byte reads 0 (DESIGN CHOICE, log 2). -/
abbrev Bytes := Cells Byte

/-- One byte of storage. -/
def Bytes.read (m : Bytes) (a : Nat) : Byte := Cells.get 0 m a

/-- `n` bytes of storage, as a number (R3). -/
def Bytes.readN (m : Bytes) (a n : Nat) : Nat := leNat (Cells.getMany 0 m a n)

/-- Writes a list of bytes. -/
def Bytes.write (m : Bytes) (a : Nat) (bs : List Byte) : Bytes := Cells.setMany 0 m a bs

/-- Writes the low `n` bytes of a number (R3). -/
def Bytes.writeN (m : Bytes) (a n x : Nat) : Bytes := Bytes.write m a (leBytes n x)

/-- Bits [hi:lo] of a number (R3). -/
def bits (x hi lo : Nat) : Nat := (x / 2 ^ lo) % 2 ^ (hi + 1 - lo)

/-- Sign extension of the low `n` bits of a number to an integer. -/
def signedOf (n x : Nat) : Int := if 2 * (x % 2 ^ n) < 2 ^ n then (x % 2 ^ n : Nat) else (x % 2 ^ n : Nat) - (2 ^ n : Nat)

/-- Number of leading zero bits of a `w`-bit value; `w` when it is zero. -/
def clzNat (w x : Nat) : Nat := if x = 0 then w else w - 1 - Nat.log2 x

/-- Number of one bits among the low `w`. -/
def popNat : Nat → Nat → Nat
  | 0, _ => 0
  | w + 1, x => x % 2 + popNat w (x / 2)

/-- The lowest number below `n` that satisfies a test, counted from `i`. -/
def firstFrom (p : Nat → Bool) : Nat → Nat → Option Nat
  | 0, _ => none
  | n + 1, i => if p i then some i else firstFrom p n (i + 1)

/-- Replaces the elements of a list that satisfy a test. -/
def updateWhere {α : Type} (p : α → Bool) (f : α → α) (l : List α) : List α := l.map fun x => if p x then f x else x

/-- Replaces the first element of a list that satisfies a test. -/
def updateFirst {α : Type} (p : α → Bool) (f : α → α) : List α → List α
  | [] => []
  | x :: xs => if p x then f x :: xs else x :: updateFirst p f xs

end Sys2Proof.Machine
end

