-- ==== Sys2Proof/Machine/Fp.lean ====
section
/-! DEFINITION. Number formats and arithmetic (spec/04): every value is held exactly, as a sign, a natural mantissa and an
exponent, and rounded once where a rule says so. -/

namespace Sys2Proof.Machine

/-- FPSTAT flags of 01 Table 1.2. -/
def flagNV : Word := 0x01
def flagDZ : Word := 0x02
def flagOF : Word := 0x04
def flagUF : Word := 0x08
def flagNX : Word := 0x10
def flagSAT : Word := 0x20
def flagDN : Word := 0x40

/-- A floating-point format of 04 Table 4.1: exponent and fraction widths and bias; `e4m3` has no infinity. -/
structure FFmt where
  ew : Nat
  mw : Nat
  bias : Nat
  e4m3 : Bool
  /-- Distinguishes signalling NaNs (R60). -/
  signals : Bool
  /-- Canonical NaN pattern (R61). -/
  cnan : Nat
  deriving DecidableEq, Repr

def fp64 : FFmt := ⟨11, 52, 1023, false, true, 0x7FF8000000000000⟩
def fp32 : FFmt := ⟨8, 23, 127, false, true, 0x7FC00000⟩
def fp16 : FFmt := ⟨5, 10, 15, false, true, 0x7E00⟩
def bf16 : FFmt := ⟨8, 7, 127, false, true, 0x7FC0⟩
def e4m3 : FFmt := ⟨4, 3, 7, true, false, 0x7F⟩
def e5m2 : FFmt := ⟨5, 2, 15, false, false, 0x7E⟩

/-- Width of a format in bits. -/
def FFmt.width (f : FFmt) : Nat := 1 + f.ew + f.mw

/-- The value a pattern names (R60): a NaN, an infinity, or (-1)^neg × m × 2^e. -/
inductive FVal where
  | nan (signalling : Bool)
  | inf (neg : Bool)
  | fin (neg : Bool) (m : Nat) (e : Int)
  deriving DecidableEq, Repr

/-- Pattern to value (R60). -/
def FFmt.value (f : FFmt) (x : Nat) : FVal :=
  let neg := x / 2 ^ (f.ew + f.mw) % 2 == 1
  let e := x / 2 ^ f.mw % 2 ^ f.ew
  let m := x % 2 ^ f.mw
  let ones := 2 ^ f.ew - 1
  if f.e4m3 && e == ones && m == 2 ^ f.mw - 1 then .nan false
  else if !f.e4m3 && e == ones then
    if m == 0 then .inf neg else .nan (f.signals && m < 2 ^ (f.mw - 1))
  else if e == 0 then .fin neg m (1 - (f.bias : Int) - f.mw)
  else .fin neg (2 ^ f.mw + m) ((e : Int) - f.bias - f.mw)

def FVal.isNan : FVal → Bool
  | .nan _ => true
  | _ => false

def FVal.isSnan : FVal → Bool
  | .nan s => s
  | _ => false

def FVal.isInf : FVal → Bool
  | .inf _ => true
  | _ => false

def FVal.isZero : FVal → Bool
  | .fin _ 0 _ => true
  | _ => false

def FVal.neg : FVal → Bool
  | .nan _ => false
  | .inf n => n
  | .fin n _ _ => n

/-- The value with its sign reversed; a NaN stays a NaN. -/
def FVal.negate : FVal → FVal
  | .nan s => .nan s
  | .inf n => .inf (!n)
  | .fin n m e => .fin (!n) m e

/-- The sign bit of a pattern. -/
def FFmt.signBit (f : FFmt) (neg : Bool) : Nat := if neg then 2 ^ (f.ew + f.mw) else 0

/-- The pattern of an infinity; a format without one has its canonical NaN there (R63). -/
def FFmt.infPat (f : FFmt) (neg : Bool) : Nat :=
  if f.e4m3 then f.cnan else f.signBit neg + (2 ^ f.ew - 1) * 2 ^ f.mw

/-- The pattern of the largest finite value. -/
def FFmt.maxPat (f : FFmt) (neg : Bool) : Nat :=
  f.signBit neg + (if f.e4m3 then 2 ^ (f.ew + f.mw) - 2 else (2 ^ f.ew - 1) * 2 ^ f.mw - 1)

/-- Whether the rounding mode increases a truncated magnitude: `rem` of `2^sh` were cut off (R63). -/
def roundsUp (rm : RM) (neg odd : Bool) (rem sh : Nat) : Bool :=
  match rm with
  | .rne => 2 * rem > 2 ^ sh || (2 * rem == 2 ^ sh && odd)
  | .rtz => false
  | .rup => rem != 0 && !neg
  | .rdn => rem != 0 && neg

/-- `m × 2^e` to a multiple of `2^q`: the multiple and whether anything was cut off (R63). -/
def roundAt (rm : RM) (neg : Bool) (m : Nat) (e q : Int) : Nat × Bool :=
  if q ≤ e then (m * 2 ^ (e - q).toNat, false)
  else
    let sh := (q - e).toNat
    let t := m / 2 ^ sh
    let rem := m % 2 ^ sh
    (if roundsUp rm neg (t % 2 == 1) rem sh then t + 1 else t, rem != 0)

/-- A rounded pattern with the flags the rounding sets, and whether it overflowed. -/
structure Rounded where
  pat : Nat
  flags : Word
  overflowed : Bool := false
  deriving DecidableEq, Repr

/-- What an overflowing step returns (R63, R70). -/
def FFmt.overflow (f : FFmt) (rm : RM) (sat neg : Bool) : Rounded :=
  if sat then ⟨f.maxPat neg, flagSAT ||| flagNX, true⟩
  else
    let toInf := match rm with
      | .rne => true
      | .rtz => false
      | .rup => !neg
      | .rdn => neg
    if toInf then ⟨f.infPat neg, flagOF ||| flagNX ||| (if f.e4m3 then flagNV else 0), true⟩
    else ⟨f.maxPat neg, flagOF ||| flagNX, true⟩

/-- One rounding step on the exact value (-1)^neg × m × 2^e (R63). -/
def FFmt.round (f : FFmt) (rm : RM) (sat : Bool) (neg : Bool) (m : Nat) (e : Int) : Rounded :=
  if m = 0 then ⟨f.signBit neg, 0, false⟩
  else
    let top := (Nat.log2 m : Int) + e
    let emin := 1 - (f.bias : Int)
    let q := max top emin - f.mw
    let (t, inexact) := roundAt rm neg m e q
    let (t, q) := if t = 2 ^ (f.mw + 1) then (2 ^ f.mw, q + 1) else (t, q)
    let be := (q + f.mw + f.bias).toNat
    let body := if t < 2 ^ f.mw then t else be * 2 ^ f.mw + (t - 2 ^ f.mw)
    if f.maxPat false < body then f.overflow rm sat neg
    else
      ⟨f.signBit neg + body,
       (if inexact then flagNX else 0) ||| (if inexact && top < emin then flagUF else 0), false⟩

/-- A finished arithmetic value rounded: NaN canonical, infinities exact (R61, R107). -/
def FFmt.finish (f : FFmt) (rm : RM) : FVal → Rounded
  | .nan _ => ⟨f.cnan, 0, false⟩
  | .inf n => ⟨f.infPat n, 0, false⟩
  | .fin n m e => f.round rm false n m e

/-- The exact sum of two finite values; an exact zero is signed under R63. -/
def finAdd (rm : RM) (n1 : Bool) (m1 : Nat) (e1 : Int) (n2 : Bool) (m2 : Nat) (e2 : Int) : FVal :=
  if m1 = 0 ∧ m2 = 0 then .fin (if n1 == n2 then n1 else rm == .rdn) 0 0
  else
    let e := if m1 = 0 then e2 else if m2 = 0 then e1 else min e1 e2
    let a : Int := if m1 = 0 then 0 else (m1 * 2 ^ (e1 - e).toNat : Nat)
    let b : Int := if m2 = 0 then 0 else (m2 * 2 ^ (e2 - e).toNat : Nat)
    let s := (if n1 then -a else a) + (if n2 then -b else b)
    if s = 0 then .fin (rm == .rdn) 0 0 else .fin (s < 0) s.natAbs e

/-- A value with the NV flag its operation raised. -/
abbrev FRes := FVal × Word

/-- a + b exactly, with the invalid case of 06 Table 6.3 (R107). -/
def fvAdd (rm : RM) (a b : FVal) : FRes :=
  match a, b with
  | .nan _, _ => (.nan false, 0)
  | _, .nan _ => (.nan false, 0)
  | .inf x, .inf y => if x = y then (.inf x, 0) else (.nan false, flagNV)
  | .inf x, .fin _ _ _ => (.inf x, 0)
  | .fin _ _ _, .inf y => (.inf y, 0)
  | .fin n1 m1 e1, .fin n2 m2 e2 => (finAdd rm n1 m1 e1 n2 m2 e2, 0)

/-- a × b exactly, with the invalid case of 06 Table 6.3 (R107). -/
def fvMul (a b : FVal) : FRes :=
  match a, b with
  | .nan _, _ => (.nan false, 0)
  | _, .nan _ => (.nan false, 0)
  | .inf x, .inf y => (.inf (x != y), 0)
  | .inf x, .fin y m _ => if m = 0 then (.nan false, flagNV) else (.inf (x != y), 0)
  | .fin x m _, .inf y => if m = 0 then (.nan false, flagNV) else (.inf (x != y), 0)
  | .fin x m1 e1, .fin y m2 e2 => (.fin (x != y) (m1 * m2) (e1 + e2), 0)

/-- NV for a signalling NaN among the operands (R62). -/
def snanFlag (vs : List FVal) : Word := if vs.any FVal.isSnan then flagNV else 0

/-- Rounds an exact result of the given operands (R107). -/
def FFmt.arith (f : FFmt) (rm : RM) (ops : List FVal) (r : FRes) : Nat × Word :=
  let x := f.finish rm r.1
  (x.pat, x.flags ||| r.2 ||| snanFlag ops)

/-- FADD, DADD, HADD2's element (R107, R109). -/
def FFmt.add (f : FFmt) (rm : RM) (a b : Nat) : Nat × Word :=
  f.arith rm [f.value a, f.value b] (fvAdd rm (f.value a) (f.value b))

/-- FSUB, DSUB (R107). -/
def FFmt.sub (f : FFmt) (rm : RM) (a b : Nat) : Nat × Word :=
  f.arith rm [f.value a, f.value b] (fvAdd rm (f.value a) (f.value b).negate)

/-- FMUL, DMUL, HMUL2's element (R107, R109). -/
def FFmt.mul (f : FFmt) (rm : RM) (a b : Nat) : Nat × Word :=
  f.arith rm [f.value a, f.value b] (fvMul (f.value a) (f.value b))

/-- a × b + c rounded once, `neg` for a × b − c (FFMA, FFMS, DFMA, HFMA2, BFMA2: R107, R109). An invalid product
sets NV even beside a quiet NaN. -/
def FFmt.fma (f : FFmt) (rm : RM) (negC : Bool) (a b c : Nat) : Nat × Word :=
  let cv := f.value c
  let p := fvMul (f.value a) (f.value b)
  let s := fvAdd rm p.1 (if negC then cv.negate else cv)
  f.arith rm [f.value a, f.value b, cv] (s.1, s.2 ||| p.2)

/-- Exact comparison of finite values: a < b. -/
def finLt (n1 : Bool) (m1 : Nat) (e1 : Int) (n2 : Bool) (m2 : Nat) (e2 : Int) : Bool :=
  match finAdd .rne n1 m1 e1 (!n2) m2 e2 with
  | .fin n m _ => n && m != 0
  | _ => false

/-- a < b for numbers; −0 equals +0 (R112). -/
def fvLt : FVal → FVal → Bool
  | .fin n1 m1 e1, .fin n2 m2 e2 => finLt n1 m1 e1 n2 m2 e2
  | .inf x, .inf y => x && !y
  | .inf x, .fin _ _ _ => x
  | .fin _ _ _, .inf y => !y
  | _, _ => false

/-- a = b for numbers (R112). -/
def fvEq (a b : FVal) : Bool := !a.isNan && !b.isNan && !fvLt a b && !fvLt b a

/-- FMIN and DMIN, FMAX and DMAX: one operand's pattern, −0 below +0, NaN rules of R108. -/
def FFmt.minmax (f : FFmt) (takeMax : Bool) (a b : Nat) : Nat × Word :=
  let x := f.value a
  let y := f.value b
  let fl := snanFlag [x, y]
  if x.isNan && y.isNan then (f.cnan, fl)
  else if x.isNan then (b, fl)
  else if y.isNan then (a, fl)
  else
    let less := if x.isZero && y.isZero then x.neg && !y.neg else fvLt x y
    (if less != takeMax then a else b, fl)

/-- A compare condition on floating-point values with its NV rule (R112, R113, Table 6.6). -/
def FFmt.cmp (f : FFmt) (c : Cond) (a b : Nat) : Bool × Word :=
  let x := f.value a
  let y := f.value b
  let un := x.isNan || y.isNan
  let quietNV := match c with
    | .lt | .le | .gt | .ge => un
    | _ => false
  let t := match c with
    | .eq => fvEq x y
    | .ne => !fvEq x y
    | .lt => fvLt x y
    | .le => !un && !fvLt y x
    | .gt => fvLt y x
    | .ge => !un && !fvLt x y
    | .ord => !un
    | .uno => un
  (t, (if quietNV then flagNV else 0) ||| snanFlag [x, y])

/-- A conversion between floating-point formats (R63, R66, R70). -/
def convFloat (src dst : FFmt) (rm : RM) (sat : Bool) (x : Nat) : Rounded :=
  match src.value x with
  | .nan s => ⟨dst.cnan, if s then flagNV else 0, false⟩
  | .inf n =>
    if sat then ⟨dst.maxPat n, flagSAT ||| flagNX, false⟩
    else ⟨dst.infPat n, if dst.e4m3 then flagNV else 0, false⟩
  | .fin n m e => dst.round rm sat n m e

/-- A value to an integer of `w` bits, signed or not: nearest end when out of range, NaN gives 0 (R67). -/
def fvToInt (rm : RM) (signed : Bool) (w : Nat) : FVal → Int × Word × Bool
  | .nan _ => (0, flagNV, false)
  | .inf n =>
    let lo : Int := if signed then -(2 ^ (w - 1) : Nat) else 0
    let hi : Int := if signed then (2 ^ (w - 1) : Nat) - 1 else (2 ^ w : Nat) - 1
    (if n then lo else hi, flagNV ||| flagSAT, false)
  | .fin n m e =>
    let lo : Int := if signed then -(2 ^ (w - 1) : Nat) else 0
    let hi : Int := if signed then (2 ^ (w - 1) : Nat) - 1 else (2 ^ w : Nat) - 1
    let (t, inexact) := roundAt rm n m e 0
    let v : Int := if n then -(t : Int) else t
    if v < lo then (lo, flagNV ||| flagSAT, true)
    else if hi < v then (hi, flagNV ||| flagSAT, true)
    else (v, if inexact then flagNX else 0, false)

/-- An integer to a floating-point format (R68). -/
def intToFloat (dst : FFmt) (rm : RM) (sat : Bool) (v : Int) : Rounded := dst.round rm sat (v < 0) v.natAbs 0

/-! ## Format slots (R71, R72) -/

/-- The fields of a 16-bit format slot (04 Table 4.3). -/
structure Slot where
  accf : Nat
  crnd : RM
  csat : Bool
  scale : Nat
  half : Bool
  pln : Nat
  efmt : Nat
  deriving DecidableEq, Repr

/-- Reads a slot's fields (04 Table 4.3). -/
def slotOf (x : BitVec 16) : Slot :=
  { accf := bits x.toNat 15 13, crnd := rmOf (bits x.toNat 12 11), csat := bits x.toNat 10 10 == 1,
    scale := bits x.toNat 9 8, half := bits x.toNat 7 7 == 1, pln := bits x.toNat 6 4, efmt := bits x.toNat 3 0 }

/-- The rows of 04 Table 4.4 that apply to every instruction that reads the slot. -/
def Slot.generalOk (f : Slot) : Bool :=
  f.efmt < 8 && f.accf < 2 && f.scale != 3
    && !(f.efmt != 6 && (f.pln != 0 || f.half))
    && !(f.efmt == 6 && f.pln == 0)
    && !(f.efmt == 6 && f.pln == 7 && f.half)

/-- The multiply rows of 04 Table 4.4; `efmts` are the formats of the shape (Table 4.6). -/
def Slot.multiplyOk (f : Slot) (efmts : List Nat) : Bool :=
  f.generalOk && efmts.contains f.efmt && f.efmt != 5 && f.efmt != 7
    && !(f.accf == 1 && f.efmt != 6) && !(f.accf == 0 && f.efmt == 6)
    && !(f.scale != 0 && (f.efmt == 0 || f.efmt == 6))

/-- The conversion type of an element format code (04 Table 4.3, 06 Table 6.7); code 6 has none. -/
def cvtOfEfmt : Nat → Option CvtType
  | 0 => some .fp32
  | 1 => some .fp16
  | 2 => some .bf16
  | 3 => some .e4m3
  | 4 => some .e5m2
  | 5 => some .int8
  | 7 => some .fp64
  | _ => none

/-- The floating-point format of a conversion type, if it is one (06 Table 6.7). -/
def cvtFmt : CvtType → Option FFmt
  | .fp32 => some fp32
  | .fp16 => some fp16
  | .bf16 => some bf16
  | .e4m3 => some Sys2Proof.Machine.e4m3
  | .e5m2 => some Sys2Proof.Machine.e5m2
  | .fp64 => some fp64
  | _ => none

/-- Signedness of an integer conversion type (06 Table 6.7). -/
def cvtSigned : CvtType → Bool
  | .int8 | .int32 | .int16 | .int64 => true
  | _ => false

/-- Width of a conversion type in bits (06 Table 6.7). -/
def cvtWidth : CvtType → Nat
  | .fp32 | .int32 | .uint32 => 32
  | .fp16 | .bf16 | .int16 | .uint16 => 16
  | .e4m3 | .e5m2 | .int8 | .uint8 => 8
  | .fp64 | .int64 | .uint64 => 64

def cvtIs64 (t : CvtType) : Bool := cvtWidth t == 64

/-- The integer that the low bits of a pattern hold in an integer type (R114). -/
def cvtIntValue (t : CvtType) (x : Nat) : Int :=
  if cvtSigned t then signedOf (cvtWidth t) x else ((x % 2 ^ cvtWidth t : Nat) : Int)

/-- One vector conversion: result as a 64-bit number already placed in its lane, flags (R66-R70, R114, R115). -/
def convert (src dst : CvtType) (rm : RM) (sat : Bool) (x : Nat) : Nat × Word :=
  let place := if cvtIs64 dst then 64 else 32
  match cvtFmt src, cvtFmt dst with
  | some f, some g => let r := convFloat f g rm sat (x % 2 ^ f.width); (r.pat, r.flags)
  | some f, none =>
    let r := fvToInt rm (cvtSigned dst) (cvtWidth dst) (f.value (x % 2 ^ f.width))
    ((r.1 % (2 ^ place : Nat)).toNat, r.2.1)
  | none, some g => let r := intToFloat g rm sat (cvtIntValue src x); (r.pat, r.flags)
  | none, none => ((cvtIntValue src x % (2 ^ place : Nat)).toNat, 0)

/-- FP32 pattern widened exactly to FP64 as an operand: NaN payload and signalling bit kept (02 R34). -/
def widenF32 (x : Nat) : Nat :=
  match fp32.value x with
  | .nan _ => (x / 2 ^ 31 % 2) * 2 ^ 63 + 2047 * 2 ^ 52 + (x % 2 ^ 23) * 2 ^ 29
  | .inf n => fp64.infPat n
  | .fin n m e => (fp64.round .rne false n m e).pat

/-- One BF16 element of PACK: numbers rounded, a NaN moved (R117). -/
def packElement (rm : RM) (x : Nat) : Nat × Word :=
  match fp32.value x with
  | .nan _ => let h := x / 2 ^ 16; (if h % 128 = 0 then h + 64 else h, 0)
  | _ => let r := convFloat fp32 bf16 rm false x; (r.pat, r.flags)

/-- FP32 addition of one combining step, RNE, canonical NaN (R80, R188). -/
def addF32 (a b : Word) : Word × Word :=
  let r := fp32.add .rne a.toNat b.toNat
  (BitVec.ofNat 32 r.1, r.2)

/-- FP64 addition of one combining step (R80). -/
def addF64 (a b : DWord) : DWord × Word :=
  let r := fp64.add .rne a.toNat b.toNat
  (BitVec.ofNat 64 r.1, r.2)

/-- A NaN as the canonical NaN, every other pattern as it is (R79). -/
def canonF32 (a : Word) : Word × Word :=
  match fp32.value a.toNat with
  | .nan s => (BitVec.ofNat 32 fp32.cnan, if s then flagNV else 0)
  | _ => (a, 0)

/-- The exact sum of a list of finite signed terms on a common exponent, with whether every term is −0. -/
def exactSum (ts : List (Bool × Nat × Int)) : Int × Int :=
  let live := ts.filter fun t => t.2.1 != 0
  let e := live.foldl (fun a t => min a t.2.2) (match live with
    | [] => 0
    | t :: _ => t.2.2)
  (live.foldl (fun a t =>
    let v : Int := (t.2.1 * 2 ^ (t.2.2 - e).toNat : Nat)
    a + if t.1 then -v else v) 0, e)

/-- A sum of terms by the chunk rules of R76: NaN, infinity, signed zero, or the exact sum. -/
def chunkSum (terms : List FVal) : FVal :=
  if terms.any FVal.isNan then .nan false
  else
    let pos := terms.any fun t => t.isInf && !t.neg
    let neg := terms.any fun t => t.isInf && t.neg
    if pos && neg then .nan false
    else if pos then .inf false
    else if neg then .inf true
    else
      let s := exactSum (terms.map fun t => match t with
        | .fin n m e => (n, m, e)
        | _ => (false, 0, 0))
      if s.1 = 0 then .fin (terms.all FVal.neg) 0 0 else .fin (s.1 < 0) s.1.natAbs s.2

/-- DOT2H's exact three-term sum with its special cases, decided in the order of R111. -/
def dot2h (rm : RM) (a b d : Nat) : Nat × Word :=
  let el (x e : Nat) : FVal := fp16.value (x / 2 ^ (16 * e) % 65536)
  let ops := [el a 0, el b 0, el a 1, el b 1, fp32.value d]
  let p0 := fvMul (el a 0) (el b 0)
  let p1 := fvMul (el a 1) (el b 1)
  let dv := fp32.value d
  let terms := [dv, p0.1, p1.1]
  let clash := terms.any (fun t => t.isInf && t.neg) && terms.any (fun t => t.isInf && !t.neg)
  let inv := p0.2 ||| p1.2 ||| (if clash then flagNV else 0)
  match chunkSum terms with
  | .fin n 0 e =>
    let allNeg := terms.all FVal.neg
    let allPos := terms.all fun t => !t.neg
    fp32.arith rm ops (.fin (if allNeg then n else !allPos && rm == .rdn) 0 e, inv)
  | v => fp32.arith rm ops (v, inv)

end Sys2Proof.Machine
end

