-- ==== Sys2Proof/Machine/State.lean ====
section
/-! DEFINITION. The state of the YG-6300: groups and their splits (spec/01 Tables 1.1 and 1.7, spec/10, spec/21), the
engines (spec/18), memory and the homes (spec/13, spec/14), scheduling (spec/12), checking (spec/22), the fabric
(spec/25), host attachment and bring-up (spec/26) and diagnostics (spec/08). Every field's default is its value at
reset; the fields of a group or a split that launch sets stand at the values of a vacant record (log 10).

The group and split whose turn it is stand apart from the others (`g`, `g.sp`), so that a meaning reads and writes them
directly. Homes are named PKG x 16 + HOME (05 Table 5.5), partitions home x 256 + core x 4 + part (05 Table 5.6), cores
by the number of their partition 0 divided by 4. -/

namespace Sys2Proof.Machine

/-! ### Reasons to stop -/

/-- Why the machine stops with a fault. -/
inductive Fault where
  /-- The port engine is asked for host memory of a window that no host answers for (26 R380). Raised by no meaning of
  this model: host memory is part of `State`. Safe. -/
  | noHost
  deriving DecidableEq, Repr

/-- Why the machine refuses an instruction or step. -/
inductive Refusal where
  /-- The instruction has no meaning yet. Raised by `exec` alone. Safe. -/
  | notModelled (mnemonic : String)
  deriving DecidableEq, Repr

/-! ### Splits -/

/-- STATE of a split-table entry (10 Table 10.1); a free entry is no split at all. -/
inductive SplitStatus where
  | runnable | atSeam | waiting | suspended | transit
  deriving DecidableEq, Repr

/-- How far the clause at the split's PC has come (01 R13). -/
inductive Stage where
  | idle | fetched | issued
  deriving DecidableEq, Repr

/-- The clause at the split's PC: its header, its words, the words and instructions already executed, the words of the
instruction in execution, the bypass latches captured so far (02 R22, R37, R38; latch key k x 32 + lane), and whether the
group was anchored when the clause issued (13 R216, 15 R269, R270). `inside` marks a clause that ERET enters at `pos` and
whose words are still to be fetched again (21 R318). -/
structure Clause where
  stage : Stage := .idle
  hdr : Header := { n := 1, cls := .sctl, s := false, y := false, wcopy := 15, wmtx := 15, wpost := 15, wsync := 15 }
  words : List Word := []
  pos : Nat := 0
  k : Nat := 0
  len : Nat := 1
  latch : Cells DWord := []
  anch : Bool := false
  inside : Bool := false
  deriving DecidableEq, Repr

/-- An outstanding operation charged to a split (10 R166, 18 R285). -/
structure OutOp where
  id : Nat
  cls : Ctr
  fin : Bool := false
  deriving DecidableEq, Repr

/-- What one lane's step of a pending in-place access does at its home (14 R231). -/
inductive AccessKind where
  | load (bytes : Nat) (sgn : Bool)
  | atomic (op : Nat) (w64 : Bool)
  | dqpush (w64 : Bool)
  | dqpop (w64 : Bool)
  | dqsteal (w64 : Bool)
  deriving DecidableEq, Repr

/-- One lane of a pending in-place access: its number, virtual and physical address, leaf, operand and compare value. -/
structure LaneAccess where
  lane : Nat
  va : Nat
  pa : Nat
  pte : Nat := 0
  x : Nat := 0
  c : Nat := 0
  deriving DecidableEq, Repr

/-- What a posted packet carries (13 R225, 14 Table 14.3). -/
inductive Payload where
  /-- Bytes of one line (R225). -/
  | store (bytes : List (Nat × Byte))
  /-- Combined words of one line: reduction opcode of 15 R257, address, value (R225, R80). -/
  | reduce (op : Nat) (words : List (Nat × Nat))
  /-- Words of one line of TADDST: accumulator format (0 FP32, 1 INT32), address, value (19 R300). -/
  | addWords (int : Bool) (words : List (Nat × Nat))
  /-- An arrival at the barrier word of a record; `note` asks for its generation (15 R264, 09 R154). -/
  | arrive (pa : Nat) (note : Bool)
  /-- A decrement of a signal (09 R156). -/
  | decrement (pa : Nat) (x : Nat)
  /-- The arrival of a completed child record, whose leaf is `cpte`, at its parent record (09 R154). -/
  | parent (pa : Nat) (child : Nat) (cpte : Nat)
  /-- Poison of the line at an address: of a copy for a mirror (22 R338, 25 R368). -/
  | poison (pa : Nat)
  /-- No packet: a release fence, behind which later writes wait (14 R238). -/
  | fence
  deriving DecidableEq, Repr

/-- The crossing of an item between packages: its sequence number among those of its packages and class, and whether it takes the
two-hop path (25 R365). -/
structure Crossing where
  seq : Nat
  detour : Bool := false
  deriving DecidableEq, Repr

/-- A packet: its operation, group and context (no group for the device's own), its source and destination home and class, what
it carries, the leaf of its page, whether it reaches private memory of its group, the accesses that must be performed before it
enters its egress queue, whether it waits for the end of an ordering hold, and, of a release at .mantle scope, whether it has
already waited for the copies of others' writes (13 R225, 14 R235 to R237, R244); and its crossing, once it has left for another
package (25 R365). Packets of one source, destination and class stand in the order in which they
entered the queue; `seq` gives a copy for a mirror its place among them (25 R368, 14 R235). -/
structure Packet where
  id : Nat
  gid : Option Word := none
  ctx : Nat := 0
  src : Nat
  dst : Nat
  cls : Nat := 0
  body : Payload
  pte : Nat := 0
  priv : Bool := false
  after : List Nat := []
  held : Bool := false
  mantle : Option Bool := none
  cross : Option Crossing := none
  seq : Nat := 0
  deriving DecidableEq, Repr

/-- An open idempotent region (22 R333, 13 Table 13.6 IRENTRY). -/
structure Region where
  ls : Nat
  pc : DWord
  deriving DecidableEq, Repr

/-- A registered wait: the word watched and its condition (15 R266 to R268). -/
inductive WaitCond where
  /-- GEN or generation word: (value - target) mod 2^32 < 2^31. -/
  | gen (target : Word)
  /-- Signal: value at or below the threshold, signed. -/
  | sig (threshold : DWord)
  deriving DecidableEq, Repr

structure Wait where
  pa : Nat
  cond : WaitCond
  deriving DecidableEq, Repr

/-- A trap that an instruction or an engine raises (21 R312, R313). -/
structure TrapRec where
  code : Nat
  acc : Nat := 3
  eng : Bool := false
  defer : Bool := false
  lane : Nat := 0
  addr : DWord := 0
  pc : DWord
  hdr : DWord
  mask : LaneSet
  deriving DecidableEq, Repr

/-- Words a demoted split watches (10 R181): aligned words of memory, or of a core's scratchpad, with the values it
loaded; `load` numbers the load. -/
structure Watch where
  scratch : Option Nat := none
  words : List (Nat × Nat) := []
  load : Nat := 0
  deriving DecidableEq, Repr

/-- The instruction that a moved split executes again, with its own sources (13 R220, 15 R247): v words keyed
register x 32 + lane, scalars keyed by number; and what R221 keeps. -/
structure Tail where
  v : Cells Word := []
  s : Cells DWord := []
  inject : Bool := false
  deriving DecidableEq, Repr

/-- A live set: masks of vector registers, scalars and predicates, and BCUR (03 Table 3.5). -/
structure LiveSet where
  v : Nat := 0
  s : Nat := 0
  p : Nat := 0
  b : Bool := false
  deriving DecidableEq, Repr

/-- A jacket as it was packed: its header of 64 bytes and the live set whose registers follow it (13 R222, R223). -/
structure Jacket where
  header : List Byte
  live : LiveSet
  deriving DecidableEq, Repr

/-- One split of a group (10 R163 to R166). `joins` marks the jacket of an absorbed split that is still to reach the split
of that entry; such a record is no table entry, and its number is 32 above the entry it left (10 R171). `acquire` holds the accesses that later ones of a domain wait for, of every location without one (14 R232, R237), `fence` the tokens
of its release fences that later writes wait for (14 R238), `await` the private store of a handler that it waits for in place (21
R316), `sent` the home that its moving jacket leaves and its place among the jackets on their way, with `cross` its crossing (13 R220, 14 R235, 25 R365), `lastPart` the partition at which RESGEN was last counted (05 R96), `keep` what it keeps when it moves and `live` the live set that its
jacket carries, with its index `ls` (13 R221, R223), `jacket` the jacket of a split that has been packed (13 R220, R227,
21 R324), and `strands` its writes to MANTLE pages that were lost, for which a later release at .mantle scope waits for ever (22 R342). -/
structure Split where
  idx : Nat := 0
  pc : DWord := 0
  lanes : LaneSet := 0xFFFFFFFF
  status : SplitStatus := .runnable
  seam : Nat := 0
  home : Nat := 0
  demoted : Bool := false
  part : Option Nat := none
  s : Cells DWord := []
  fpstat : Word := 0
  resgen : Word := 0
  clause : Clause := {}
  ops : List OutOp := []
  acquire : List (Option Scope × Nat) := []
  fence : List Nat := []
  await : Option Nat := none
  sent : Option (Nat × Nat) := none
  cross : Option Crossing := none
  lastPart : Option Nat := none
  jacket : Option Jacket := none
  strands : List Nat := []
  safe : Nat := 0
  region : Option Region := none
  wait : Option Wait := none
  wonly : Bool := false
  move : Option Nat := none
  ls : Nat := 0
  keep : LiveSet := {}
  live : LiveSet := {}
  joins : Option Nat := none
  tail : Option Tail := none
  watch : Option Watch := none
  woken : Bool := false
  lastLoad : Watch := {}
  timeout : Nat := 0
  trap : Option TrapRec := none
  restart : Option TrapRec := none
  err : Option TrapRec := none
  defer : Nat := 0
  stopped : Bool := false
  crc : Nat := 0
  inval : Option Nat := none
  yielded : Bool := false
  spin : Nat := 0
  trace : List (Nat × Nat × Nat) := []
  prev : List (Nat × Nat × Nat) := []
  past : List (Bool × List (Nat × Nat × Nat)) := []
  dirty : Bool := false
  poisonS : Cells Bool := []
  poisonP : Cells Bool := []
  deriving DecidableEq, Repr

/-- A pending in-place access: the lanes that one step serves (a load's line) or that later steps serve in order (an
atomic's lanes), the splits it belongs to (10 R166), the accesses that must be performed before it, whether it waits for
the end of an ordering hold, whether its split issues nothing until it is performed, and whether the split's STATE is
that of a wait until then (14 R231, R232, R237, 15 R255, 21 R316). `undo` is the split as it stood before its instruction, of an
access that its split waits for before its next clause: the instruction may still turn out to have no effect (22 R339, 25 R373). `after` holds tokens: 2 x id until an operation is
accepted or performed, 2 x id + 1 until it is also acknowledged (14 R243). Of a release at .mantle scope, `mantle` says whether
it has already waited for the copies of others' writes (14 R244). `elems` are the bytes of the elements that a deque operation
may reach, as address and length; `load` numbers the load that a load's line belongs to (10 R181). -/
structure Access where
  id : Nat
  owners : List Nat
  kind : AccessKind
  lanes : List LaneAccess
  vd : Nat
  vs : Nat := 0
  after : List Nat := []
  held : Bool := false
  block : Bool := false
  stall : Bool := false
  mantle : Option Bool := none
  elems : List (Nat × Nat) := []
  load : Nat := 0
  undo : Option Split := none
  pc : DWord
  hdr : DWord
  mask : LaneSet
  deriving DecidableEq, Repr

/-! ### Groups -/

/-- A seam record (10 Table 10.2). -/
structure Seam where
  arrived : LaneSet := 0
  cohort : LaneSet := 0
  deriving DecidableEq, Repr

/-- An unresolved predicted path (10 R175 to R177): the split that issued the BRP, the predicted side and mask, and the
clause position and count of the instructions issued into the hem buffer, and whether issue has stopped (10 R176). -/
structure Path where
  sp : Nat
  taken : Bool
  mask : LaneSet
  pc : DWord
  pos : Nat := 0
  count : Nat := 0
  shut : Bool := false
  deriving DecidableEq, Repr

/-- A write of one tile row by a matrix-class operation: the row, runs of bytes with the byte each starts at, the finite values
of the row that overflowed, and the byte at which the overflow count is written (18 R282, 19 R299). -/
structure RowWrite where
  row : Nat
  runs : List (Nat × List Byte) := []
  spill : Nat := 0
  count : Option Nat := none
  deriving DecidableEq, Repr

/-- A matrix-class operation that has issued (18 R282, 19 R293): its opcode, its operands as they stood at issue (slot,
descriptor, scale, Active(), A registers), its destinations in memory (a run of words of a lane: first word in `x`, number
in `c`), the in-place accesses that it follows, the operand rows still to be read before its operands-consumed event and the D
rows after it, the tile rows as it read them, the row writes that are left once every row is read, the lowest lane that poison
reached, an injected mismatch, and whether its packets are posted; also the partition whose matrix unit performs it, the poisoned lanes of
A (register x 32 + lane), and the D rows as it read them, apart from the operand rows. -/
structure MtxOp where
  id : Nat
  sp : Nat
  op : Nat
  m : MX
  slot : BitVec 16
  desc : DWord
  scale : Word := 0
  act : LaneSet
  a : Cells Word := []
  dests : List LaneAccess := []
  after : List Nat := []
  rows : List Nat := []
  drows : List Nat := []
  consumed : Bool := false
  tile : Bytes := []
  outs : Option (List RowWrite) := none
  bad : Option Nat := none
  inject : Bool := false
  sent : Bool := false
  part : Option Nat := none
  spoilt : List Nat := []
  dtile : Bytes := []
  pc : DWord
  hdr : DWord
  deriving DecidableEq, Repr

/-- A class-5 command that has issued (18 R286 to R290, 19 R302 to R307): its opcode, flags byte, slot and scalars (record or
address, list or value, place), the core and lease it works on, the matrix operation whose event it waits for, the in-place
accesses that it follows, whether it is of supervisor state, whether it has started, the iterator record and the words of its
list that it has read, the element it goes on with, the element it reads next and the elements in between as they were read,
whether a fault holds it, the fault still to be reported and the split at which it has been raised, and whether only packets or mirror
copies of it are left. -/
structure CopyCmd where
  id : Nat
  sp : Nat
  code : Nat
  flags : Nat
  slot : BitVec 16 := 0
  a : DWord
  b : DWord
  c : DWord
  core : Nat
  lease : Option Nat := none
  evt : Option Nat := none
  after : List Nat := []
  sup : Bool := false
  started : Bool := false
  iter : List Nat := []
  list : List Nat := []
  index : Nat := 0
  got : Nat := 0
  out : List Nat := []
  fault : Bool := false
  report : Option TrapRec := none
  raised : Option Nat := none
  wrote : Bool := false
  pc : DWord
  hdr : DWord
  deriving DecidableEq, Repr

/-- The open checkpoint: its log, number and field values (22 R345). -/
structure Checkpoint where
  log : DWord
  n : DWord
  base : DWord
  len : DWord
  rpc : DWord
  rjkt : DWord
  deriving DecidableEq, Repr

/-- Supervisor handler of a group (21 R314 to R316). -/
inductive Handler where
  | none
  /-- The split whose entry waits for the others to stop and for its frame. -/
  | pending (sp : Nat)
  /-- The handler runs; the split that trapped is named. -/
  | running (sp : Nat)
  deriving DecidableEq, Repr

/-- Life of a group: no group; a group; a group whose last split ended and that waits to retire; a retired group of which
an engine still carries out work; a saved group. -/
inductive Life where
  | vacant | live | ending | ghost | saved
  deriving DecidableEq, Repr

/-- A group and its record (09 R144, 01 Tables 1.1 and 1.7). Per-lane keys are register x 32 + lane. -/
structure Group where
  life : Life := .vacant
  gid : Word := 0
  w : Nat := 128
  v : Cells Word := []
  p : Cells LaneSet := []
  em : LaneSet := 0xFFFFFFFF
  bcur : Cells Byte := []
  fs : Cells (BitVec 16) := []
  baseHome : Nat := 0
  recIdx : Word := 0
  grpInRec : BitVec 16 := 0
  ctx : Nat := 0
  card : Nat := 0
  diag : Bool := false
  prio : Nat := 0
  floorPrio : Nat := 0
  team : Option Nat := none
  teamVa : DWord := 0
  teamPte : Nat := 0
  teamId : Word := 0xFFFFFFFF
  note : Option Word := none
  acks : List (Nat × Nat × Word) := []
  slot : Option Nat := none
  tileRows : Nat := 0
  tile : Bytes := []
  ovf : Word := 0
  /-- Overflows that belong to no earlier TEPI: the number of the operation that counted them, and how many (19 R299). -/
  ovfLate : List (Nat × Nat) := []
  seams : Cells Seam := []
  sup : Bool := false
  floor : Nat := 0
  handler : Handler := .none
  seamSv : Cells Seam := []
  trapvec : DWord := 0
  trapcause : Word := 0
  trappc : DWord := 0
  trapaddr : DWord := 0
  trapmask : Word := 0
  traphdr : DWord := 0
  ctxbase : DWord := 0
  rpseq : DWord := 0
  rppc : DWord := 0
  rpjkt : DWord := 0
  teamstat : Word := 0
  diaginj : Word := 0
  ck : Option Checkpoint := none
  rcnt : Nat := 0
  path : Option Path := none
  accs : List Access := []
  mtx : List MtxOp := []
  copies : List CopyCmd := []
  copyFault : Option TrapRec := none
  preempt : Bool := false
  /-- A handler ended its issue with HALT, and the group is to be saved behind it (23 R350). -/
  halted : Bool := false
  killed : Bool := false
  rollback : Bool := false
  /-- Writes of the group to MANTLE pages that were lost, for which its commits wait for ever (22 R342, R345). -/
  lost : List Nat := []
  waitTeam : Bool := false
  poisonV : Cells Bool := []
  poisonTile : Cells Bool := []
  /-- Poison that the trap frame carries: of lanes, scalars and predicates (22 R338). -/
  svV : Cells Bool := []
  svS : Cells Bool := []
  svP : Cells Bool := []
  sp : Split := {}
  sibs : List Split := []
  deriving DecidableEq, Repr

/-! ### Partitions, cores, homes -/

/-- An entry of the mask predictor (10 Table 10.3). -/
structure PredEntry where
  cls : BitVec 2 := 0
  conf : BitVec 2 := 0
  last : LaneSet := 0
  deriving DecidableEq, Repr

/-- What a reuse latch holds: its tag, and the A values of all 32 lanes (18 R283). -/
structure Latch where
  gid : Word
  base : Nat
  count : Nat
  efmt : Nat
  a : Cells Word := []
  deriving DecidableEq, Repr

/-- A partition: mask predictor, issue counts of the levels and the levels that held a candidate at the last slot, the last group
served at each level and the last split of each group, the reuse latch (10 R174, R182, 12 R203, 18 R283). -/
structure Part where
  pred : Cells PredEntry := []
  count : Cells Nat := []
  had : List Nat := []
  served : Cells (Option Word) := []
  splits : Cells (Option Nat) := []
  reuse : Option Latch := none
  deriving DecidableEq, Repr

/-- A core: scratchpad bytes, poisoned scratch words, diagnostic repair table and status, and the cause of the trap that
ended its last diagnostic group (07 R134, 08 R137 to R142). -/
structure Core where
  scratch : Bytes := []
  poison : Cells Bool := []
  repair : Cells DWord := []
  count : Nat := 0
  ovf : Bool := false
  bad : Bool := false
  status : Word := 0
  synd : Word := 0
  cause : Word := 0
  cells : Bytes := []
  wasReset : Bool := false
  deriving DecidableEq, Repr

/-- A lease: its team's record, core, place, length, and the contents of a saved one (09 R149, 15 R269, 21 R325). -/
structure Lease where
  id : Nat
  team : Nat
  core : Nat
  base : Nat
  len : Nat
  saved : Option Bytes := none
  spoiled : Cells Bool := []
  dead : Bool := false
  deriving DecidableEq, Repr

/-- A range of undealt records of a card: runs `lo` to `hi` - 1 in rising order (12 R195 to R200); `routed` marks those that affinity or
the forwarding of a diagnostic card has sent to their home (08 R136, 12 R198). -/
structure Range where
  owner : Nat
  recs : List (Nat × Nat)
  routed : Bool := false
  deriving DecidableEq, Repr

/-- A role of a gang card (09 Table 9.4). -/
structure Role where
  pc : DWord
  w : Nat
  count : Nat
  tileRows : Nat
  deriving DecidableEq, Repr

/-- A taken card (09 R145 to R150, 12 R194, R195). -/
structure Card where
  id : Nat
  slot : Nat
  slotPte : Nat := 0
  ctx : Nat
  trapvec : DWord := 0
  home : Nat
  gang : Bool := false
  prio : Nat := 0
  w : Nat := 8
  diag : Bool := false
  noSteal : Bool := false
  recSize : Nat := 0
  entry : DWord := 0
  args : DWord := 0
  records : Nat := 0
  grpRec : Nat := 1
  teamSize : Nat := 0
  done : DWord := 0
  waitPa : Option Nat := none
  waitThr : DWord := 0
  ready : Bool := true
  refused : Bool := false
  boot : Bool := false
  fs : List (BitVec 16) := []
  lease : Nat := 0
  tileRows : Nat := 0
  floorPrio : Nat := 0
  roles : List Role := []
  chunk0 : Nat := 0
  chunkMin : Nat := 0
  affinity : Bool := false
  sval : List DWord := []
  ranges : List Range := []
  left : Nat := 0
  pend : List Word := []
  teams : List (Nat × Nat) := []
  replay : Option (DWord × DWord × DWord) := none
  deriving DecidableEq, Repr

/-- What an admission queue holds (12 R201). -/
inductive Item where
  /-- Groups of a card still to be admitted: runs `lo` to `hi` - 1 of their numbers. -/
  | chunk (card : Nat) (groups : List (Nat × Nat))
  /-- An arrived jacket or a woken split. -/
  | split (gid : Word) (sp : Nat)
  /-- A resumed group, or the members of a resumed team. -/
  | groups (gids : List Word)
  deriving DecidableEq, Repr

/-- A registered job queue (12 R192, 26 R380): its number, header, context and trap vector, the queue pair bound to it, and what the
dealer has seen: the tail up to which it knows the queue, and the cards that it has not taken yet, each by its number with the bytes
that its slot held when the tail made it visible (09 R145). -/
structure JobQueue where
  id : Nat
  hdr : Nat
  ctx : Nat
  trapvec : DWord
  qpn : Option Nat := none
  open_ : Bool := true
  boot : Bool := false
  checked : Bool := false
  seen : Nat := 0
  cards : List (Nat × List Byte) := []
  deriving DecidableEq, Repr

/-- An open run of the hot-line combiner: its word's address, size and value before the run, the kind of its reductions, the
folded value and the number of arrivals (18 R292). -/
structure Run where
  pa : Nat
  op : Nat
  size : Nat
  base : Nat
  value : Nat
  count : Nat
  deriving DecidableEq, Repr

/-- Readiness of a home (26 Table of R382, R385): in bring-up, ready, draining, drained, updating, failed. -/
inductive HomeState where
  | down | ready | draining | drained | updating | failed
  deriving DecidableEq, Repr

/-- A page move in progress at its old home (25 R371 to R374). -/
structure PageMove where
  old : Nat
  new : Nat
  size : Nat
  pte : Nat
  cutover : Bool := false
  auto : Bool := false
  deriving DecidableEq, Repr

/-- A home: admission queue in arrival order with levels, launch teams' records in use (09 R152), job queues, combiner runs, held translations, parking and
overflow, readiness, page-move registers, partner, temperature (12, 13, 18, 25, 26). -/
structure Home where
  adm : List (Nat × Item) := []
  records : List Nat := []
  queues : List JobQueue := []
  turn : Nat := 0
  runs : List Run := []
  tlb : List (Nat × Nat × DWord × Nat) := []
  overflow : Option (Nat × Nat) := none
  st : HomeState := .down
  partner : Option (BitVec 8) := none
  mvPte : DWord := 0
  mvDest : DWord := 0
  mvGo : Bool := false
  mvState : Nat := 0
  mvStatus : Nat := 0
  mv : Option PageMove := none
  movable : List (Nat × Nat) := []
  /-- Traffic is held back: drained, and not yet returned (26 R386). -/
  held : Bool := false
  /-- The counts of a listed page's atomics, reductions and deque operations: leaf address, source home, number (25 R375). -/
  counts : List (Nat × Nat × Nat) := []
  hot : Bool := false
  droops : Byte := 0
  stemp : Byte := 0
  deriving DecidableEq, Repr

/-! ### Packages, host, fabric -/

/-- What a port answers to a request of a queue pair (26 R377, R378): an acknowledgement with the bytes read or the old value,
or a NAK. -/
inductive Answer where
  | ack (bytes : List Byte)
  | accessError
  | invalidRequest
  | notReady
  deriving DecidableEq, Repr

/-- What a request of a queue pair does (26 R377, R378): a write, a read of some bytes, an atomic with its operand or with its compare
and new values, or the placing of a card in the queue of a header, whose number in the queue is known once the request has begun. -/
inductive HostOp where
  | write
  | read (len : Nat)
  | fetchAdd (x : DWord)
  | compareSwap (cmp x : DWord)
  | send (hdr : Nat) (card : List Byte) (slot : Option Nat)
  deriving DecidableEq, Repr

/-- A step that a request is still to take at a home: the place of its bytes in the request, their physical address and leaf, how many
they are, and, of a write, the bytes; it stays within one line (14 R231). -/
structure HostLine where
  at_ : Nat
  pa : Nat
  pte : Nat
  n : Nat
  bytes : List Byte := []
  deriving DecidableEq, Repr

/-- A request that a port has accepted and that is not over: its number, port and queue pair, what it does, the steps that are left,
and the bytes that it has read (14 R243). -/
structure HostReq where
  id : Nat
  port : Nat
  qpn : Nat
  op : HostOp
  lines : List HostLine := []
  got : Bytes := []
  deriving DecidableEq, Repr

/-- A queue pair of a port, with its context, its rkey and the header of the job queue that its SENDs go to (26 R377, R380). -/
structure QueuePair where
  port : Nat
  qpn : Nat
  rkey : Word := 0
  ctx : Option Nat := none
  queue : Option Nat := none
  deriving DecidableEq, Repr

/-- A host window (26 R380 HWIN). -/
structure HostWindow where
  home : Nat
  window : Nat
  base : Nat
  len : Nat
  remote : DWord := 0
  rkey : Word := 0
  qpn : Nat := 0
  port : Nat := 0
  deriving DecidableEq, Repr

/-- Bring-up of a die (26 R382, R383). -/
structure Die where
  stage : Nat := 0
  failed : Bool := false
  identity : Bool := false
  clock : DWord := 0
  deriving DecidableEq, Repr

/-- A link of the fabric (25 R363 to R365). -/
structure Link where
  up : Bool := false
  seq : Nat := 0
  replay : List Nat := []
  errors : Nat := 0
  deriving DecidableEq, Repr

/-- A package: pins, control page, dies, links, windows (26 R377 to R384); whether a card other than a diagnostic one has been dealt to
it since power-on (08 R135); the requests at its ports; and, by the other package x 4 + the class, how many items it has sent there and
how many of there its reorder window has released (25 R365). -/
structure Pkg where
  present : Bool := false
  pins : BitVec 4 := 0
  page : Bytes := []
  dies : Cells Die := []
  links : Cells Link := []
  ports : BitVec 4 := 0
  routes : Cells DWord := []
  qps : List QueuePair := []
  windows : List HostWindow := []
  dealt : Bool := false
  reqs : List HostReq := []
  sent : Cells Nat := []
  freed : Cells Nat := []
  /-- Answers of the ports, newest last: port, queue pair, answer. -/
  answers : List (Nat × Nat × Answer) := []
  /-- Ports whose link leads to a package of a number that another one bears: it never trains (26 R382). -/
  twinPorts : List Nat := []
  lost : Bool := false
  deriving DecidableEq, Repr

/-- A pending invalidation of held translations or instruction words (23 R354, R355), with the home that asks for it and the package whose
command waits for it (26 R380). -/
structure Inval where
  id : Nat
  icache : Bool
  ctx : Option Nat
  lo : Nat
  hi : Nat
  home : Nat := 0
  cmd : Option Nat := none
  deriving DecidableEq, Repr

/-- A request waiting at a port for a RoCE acknowledgement (14 R243). -/
structure RoceWait where
  home : Nat
  gid : Word
  id : Nat
  deriving DecidableEq, Repr

/-- Whose turn comes next: an instruction of a split's issued clause, the same with a checker mismatch (22 R329), a step of
spec/95 given as a row of the opcode table, or one that the machine takes by itself, named after its row (the command of a
package is the next one of its ring). The agenda of `State` is the model's own (log 1). -/
inductive Turn where
  | run (gid : Word) (sp : Nat)
  | runMismatch (gid : Word) (sp : Nat)
  | event (i : Instr)
  | eccError (site : EccSite)
  | packetFail (src dst : Nat)
  | accessFail (gid : Word) (id : Nat)
  | arrivalFail (src dst : Nat)
  | copyFail (gid : Word) (cmd : Nat)
  | clauseFetch (gid : Word) (sp : Nat)
  | clauseIssue (gid : Word) (sp : Nat)
  | trapEntry (gid : Word) (sp : Nat)
  | handlerStart (gid : Word)
  | regionRestart (gid : Word) (sp : Nat)
  | teamRollback (gid : Word)
  | accessComplete (gid : Word) (id : Nat)
  | packetAccept (src dst : Nat)
  | hierarchicalArrival (src dst : Nat)
  | mirrorAccept (home : Nat)
  | runClose (home pa : Nat)
  | roceAck (home : Nat)
  | arrivalAck (gid : Word)
  | holdEnd (gid : Word) (sp : Nat)
  | jacketDepart (gid : Word) (sp : Nat)
  | cross (src dst cls : Nat)
  | copyCross (src dst : Nat)
  | release (src dst cls : Nat)
  | hostStep (pkg id home : Nat)
  | jacketArrive (gid : Word) (sp : Nat)
  | admission (home : Nat)
  | waitWake (gid : Word) (sp : Nat)
  | spinFire (gid : Word) (sp : Nat)
  | spinTimeout (gid : Word) (sp : Nat)
  | brpResolve (gid : Word)
  | operandsConsumed (gid : Word)
  | matrixComplete (gid : Word)
  | copyStart (gid : Word)
  | copyFinish (gid : Word) (cmd : Nat)
  | copyFault (gid : Word)
  | preemptSave (gid : Word)
  | teamSave (gid : Word)
  | groupRetire (gid : Word)
  | cardTake (home queue : Nat)
  | chunkDeal (home : Nat)
  | steal (home : Nat)
  | partnerWrite (home : Nat) (value : DWord)
  | registerWrite (home offset : Nat) (value : DWord)
  | pageMoveStart (home : Nat)
  | pageCopy (home : Nat)
  | mirrorRepair (pa : Nat)
  | rewriteFail (pa : Nat)
  | mirrorUnreachable (pa : Nat)
  | cutover (home : Nat)
  | redirect (src dst : Nat)
  | pageMoveEnd (home : Nat)
  | invalidated (id : Nat)
  | crcComplete (gid : Word)
  | command (pkg : Nat)
  | homeDrained (home : Nat)
  | clock (pkg die : Nat)
  deriving DecidableEq, Repr

/-- The machine. -/
structure State where
  /-- The group whose turn it is, and the other groups. -/
  g : Group := {}
  others : List Group := []
  /-- Physical memory of tiers 0 and 1 (13 R207), byte by byte; unlisted bytes read 0 (log 2). -/
  mem : Bytes := []
  /-- Poisoned 64-byte lines, keyed by PA / 64 (22 R338). -/
  poison : Cells Bool := []
  /-- Homes whose lines a die reset has poisoned: there an entry of `poison` marks a line that holds a value (22 R342). -/
  drowned : List Nat := []
  /-- Host memory behind the host windows, by the rkey x 2^64 + the remote address that a window maps an offset to (26 R380). -/
  hostMem : Bytes := []
  packets : List Packet := []
  parts : Cells Part := []
  cores : Cells Core := []
  leases : List Lease := []
  homes : Cells Home := []
  cards : List Card := []
  /-- What groups were launched with whose card is gone with its taking home: their cards (22 R341). -/
  launches : List Card := []
  pkgs : Cells Pkg := []
  /-- What the 8-byte words of memory, keyed by PA / 8, held before each write that no ICINV has covered: the values that
  an instruction cache may still hold (01 R16, 13 R215). -/
  stale : Cells (List DWord) := []
  invals : List Inval := []
  roce : List RoceWait := []
  mirrors : List (Nat × Packet) := []
  /-- DEGRADED pages, by PA / 2^16, with whether the primary copy is the lost one (25 R370). -/
  degraded : List (Nat × Bool) := []
  /-- The model's own: the agenda, and counters for free choices and fresh numbers (log 1, 5, 9). -/
  agenda : List Turn := []
  free : Nat := 0
  fresh : Nat := 1
  deriving DecidableEq, Repr

/-- The machine after reset: no group, nothing taken, nothing in flight (log 2, 3, 10, 11). -/
def State.reset : State := {}

end Sys2Proof.Machine
end

