-- ==== Sys2Proof/Machine/Mem.lean ====
section
/-! DEFINITION. Physical addresses, translation and its checks, and the one operation that writes memory (spec/13 R207
to R215, spec/14 R231, spec/15 R246). -/

namespace Sys2Proof.Machine

/-! ### Physical addresses (13 R207) -/

/-- Package, tier, home and offset of a physical address (13 Table 13.1). -/
def paPkg (pa : Nat) : Nat := bits pa 55 52
def paTier (pa : Nat) : Nat := bits pa 51 48
def paHome (pa : Nat) : Nat := bits pa 47 44
def paOffset (pa : Nat) : Nat := pa % 2 ^ 44

/-- The home that serves a physical address, PKG x 16 + HOME (R207). -/
def homeOfPa (pa : Nat) : Nat := paPkg pa * 16 + paHome pa

/-- A physical address from its fields. -/
def paOf (pkg tier home offset : Nat) : Nat := ((pkg * 16 + tier) * 16 + home) * 2 ^ 44 + offset

/-- A package of the scale-up domain: one that is powered (13 R210, 26 R382). -/
def State.inDomain (s : State) (pkg : Nat) : Bool := (Cells.get {} s.pkgs pkg).present

/-- A tier-0 or tier-1 address that exists and lies outside every parking area (R207, R210). -/
def memAddressOk (s : State) (pa : Nat) : Bool :=
  s.inDomain (paPkg pa) && paHome pa < Config.homesPerPackage &&
  ((paTier pa == 0 && Config.parkingBytes ≤ paOffset pa && paOffset pa < Config.tier0Bytes)
    || (paTier pa == 1 && paOffset pa < Config.tier1Bytes))

/-- A tier-2 offset of a home that a host window maps (26 R378). -/
def inHostWindow (s : State) (pa : Nat) : Bool :=
  ((Cells.get {} s.pkgs (paPkg pa)).windows.any fun w =>
    w.home == homeOfPa pa && w.base ≤ paOffset pa && paOffset pa < w.base + w.len)

/-- A physical address that a leaf may name (R210); a tier-2 offset outside every host window counts as beyond the tier's
capacity (26 R378). -/
def leafAddressOk (s : State) (pa : Nat) : Bool :=
  memAddressOk s pa
    || (s.inDomain (paPkg pa) && paHome pa < Config.homesPerPackage
        && ((paTier pa == 2 && inHostWindow s pa) || paTier pa == 3))

/-! ### Page-table entries (13 Table 13.3) -/

def pteV (e : Nat) : Bool := e % 2 == 1
def pteLeaf (e : Nat) : Bool := bits e 1 1 == 1
def pteW (e : Nat) : Bool := bits e 2 2 == 1
def pteX (e : Nat) : Bool := bits e 3 3 == 1
def pteUser (e : Nat) : Bool := bits e 4 4 == 1
def pteMirror (e : Nat) : Bool := bits e 5 5 == 1
def pteMantle (e : Nat) : Bool := bits e 6 6 == 1
def pteSysAtom (e : Nat) : Bool := bits e 7 7 == 1
def pteGrow (e : Nat) : Bool := bits e 8 8 == 1

/-- What a walk ends in: a physical address with its leaf and page size, no leaf, or a page held for growth. -/
inductive Walk where
  | ok (pa : Nat) (pte : Nat) (size : Nat)
  | bad
  | grow
  deriving DecidableEq, Repr

/-- The reserved and zero fields of a leaf read at the level of shift `sh` (R209, R210). -/
def leafFieldsOk (e sh : Nat) : Bool :=
  bits e 63 56 == 0 && bits e 15 13 == 0 && bits e 12 9 == 0 && (sh != 26 || bits e 25 16 == 0)
    && (!pteMantle e || pteMirror e)

/-- The reserved and zero fields of a non-leaf entry (R209, R210). -/
def tableFieldsOk (e : Nat) : Bool := bits e 63 56 == 0 && bits e 12 9 == 0 && bits e 8 2 == 0

/-- The walk from table `t`, over the index shifts that are left (R209, R210, R214). The other fields of a leaf with V = 0 that is held
for growth are not looked at (DESIGN CHOICE, log 108). -/
def walkFrom (s : State) (va : Nat) : List Nat → Nat → Walk
  | [], _ => .bad
  | sh :: rest, t =>
    if !memAddressOk s t then .bad
    else
      let e := s.mem.readN (t + 8 * (va / 2 ^ sh % 1024)) 8
      if !pteV e then (if pteGrow e && pteLeaf e && (sh == 26 || sh == 16) then .grow else .bad)
      else if pteLeaf e then
        if (sh == 26 || sh == 16) && leafFieldsOk e sh then
          let pa := bits e 55 16 * 2 ^ 16 + va % 2 ^ sh
          if leafAddressOk s pa then .ok pa e (2 ^ sh) else .bad
        else .bad
      else if tableFieldsOk e then walkFrom s va rest (bits e 55 13 * 2 ^ 13) else .bad

/-! ### Context descriptors (13 Table 13.2), read afresh at each use (R208) -/

def ctxRoot (s : State) (ctx : Nat) : Nat := s.mem.readN ctx 8
def ctxCrt (s : State) (ctx : Nat) : Nat := s.mem.readN (ctx + 8) 8
def ctxCrCount (s : State) (ctx : Nat) : Nat := s.mem.readN (ctx + 0x10) 2
def ctxPrivSlots (s : State) (ctx : Nat) : Nat := s.mem.readN (ctx + 0x12) 2
def ctxPrivLog (s : State) (ctx : Nat) : Nat := s.mem.readN (ctx + 0x14) 1
def ctxPrivBase (s : State) (ctx : Nat) : Nat := s.mem.readN (ctx + 0x20) 8

/-- The walk of the tables as they stand. A ROOT with offset bits below 8 KiB names no table, and no address of more than 56
bits is mapped (R208, R209). -/
def walk (s : State) (ctx va : Nat) : Walk :=
  if ctxRoot s ctx % 2 ^ 13 = 0 ∧ ctxRoot s ctx < 2 ^ 56 ∧ va < 2 ^ 56 then walkFrom s va [46, 36, 26, 16] (ctxRoot s ctx) else .bad

/-- What a translation unit holds for an address (R212): leaf and page size. A walk that ended without a leaf is held too, as a
leaf with V = 0 (21 R322). -/
def heldLeaf (h : Home) (ctx va : Nat) : Option (Nat × Nat) :=
  (h.tlb.find? fun e => e.1 == ctx && va / e.2.2.2 * e.2.2.2 == e.2.1).map fun e => (e.2.2.1.toNat, e.2.2.2)

/-- PARTNER of a home: its mirror home (25 Table 25.1). -/
def partnerOf (s : State) (home : Nat) : Nat :=
  match (Cells.get {} s.homes home : Home).partner with
  | some p => p.toNat
  | none => home / 16 * 16 + (home % 16 + 6) % 12

/-- The mirror of a physical address: same tier and offset at the partner (25 R368). -/
def mirrorOf (s : State) (pa : Nat) : Nat :=
  let p := partnerOf s (homeOfPa pa)
  paOf (p / 16) (paTier pa) (p % 16) (paOffset pa)

/-- A DEGRADED page whose primary copy is lost is served by its survivor (25 R370). -/
def serving (s : State) (w : Walk) : Walk :=
  match w with
  | .ok pa pte z => if pteMirror pte && s.degraded.contains (pa / 2 ^ 16, true) then .ok (mirrorOf s pa) pte z else w
  | w => w

/-- The result that a held leaf stands for, at an address of its page (R212, R214, 21 R322). -/
def heldWalk (e size va : Nat) : Walk :=
  if pteV e then .ok (bits e 55 16 * 2 ^ 16 + va % size) e size else if pteGrow e then .grow else .bad

/-- The leaf and page size that a unit holds for the result of a walk; without a leaf, those of the 64 KiB page (R212). -/
def leafOf (w : Walk) : Nat × Nat :=
  match w with
  | .ok _ pte size => (pte, size)
  | .bad => (0, 2 ^ 16)
  | .grow => (2 ^ 8 + 2, 2 ^ 16)

/-- Translation at a home: the walk, or the translation that the unit holds where the two differ, chosen for each access
(R212, log 5). -/
def translate (s : State) (home ctx va : Nat) : Walk :=
  let w := serving s (walk s ctx va)
  match heldLeaf (Cells.get {} s.homes home) ctx va with
  | none => w
  | some (e, size) =>
    let old := serving s (heldWalk e size va)
    if old = w then w else if Config.keepsOld (s.free * 2 ^ 56 + va) then old else w

/-- What an access needs of its leaf (R211). -/
inductive Need where
  | read | write | fetch
  deriving DecidableEq, Repr

/-- The permission check of a leaf (R211). -/
def permitted (sup : Bool) (n : Need) (pa pte : Nat) : Bool :=
  (pteUser pte || sup) && (paTier pa != 3 || sup) &&
  match n with
  | .read => true
  | .write => pteW pte
  | .fetch => pteX pte

/-- ACC code of a failed access (21 Table 21.2). -/
def Need.acc : Need → Nat
  | .read => 0
  | .write => 1
  | .fetch => 2

/-- The physical address and leaf of an address for which translation and permission hold, or the cause code of the fault
(R210, R211, R214; `priv` says that the access is a private one). -/
def resolve (s : State) (home ctx : Nat) (sup priv : Bool) (n : Need) (va : Nat) : Except Nat (Nat × Nat) :=
  match translate s home ctx va with
  | .bad => .error 0x07
  | .grow => .error (if priv then 0x09 else 0x07)
  | .ok pa pte _ => if permitted sup n pa pte then .ok (pa, pte) else .error 0x08

/-! ### Packages, homes, cores and partitions by number -/

def State.pkg (s : State) (p : Nat) : Pkg := Cells.get {} s.pkgs p
def State.home (s : State) (h : Nat) : Home := Cells.get {} s.homes h
def State.core (s : State) (c : Nat) : Core := Cells.get {} s.cores c
def State.part (s : State) (p : Nat) : Part := Cells.get {} s.parts p
def State.setPkg (s : State) (p : Nat) (f : Pkg → Pkg) : State := { s with pkgs := Cells.set {} s.pkgs p (f (s.pkg p)) }
def State.setHome (s : State) (h : Nat) (f : Home → Home) : State :=
  { s with homes := Cells.set {} s.homes h (f (s.home h)) }
def State.setCore (s : State) (c : Nat) (f : Core → Core) : State :=
  { s with cores := Cells.set {} s.cores c (f (s.core c)) }
def State.setPart (s : State) (p : Nat) (f : Part → Part) : State :=
  { s with parts := Cells.set {} s.parts p (f (s.part p)) }

/-! ### Host memory (26 R378, R380) -/

/-- The place of a tier-2 byte in the host's memory, through the host window that maps its offset (R380). -/
def hostKey (s : State) (pa : Nat) : Option Nat :=
  if paTier pa = 2 then
    ((s.pkg (paPkg pa)).windows.find? fun w => w.home == homeOfPa pa && w.base ≤ paOffset pa && paOffset pa < w.base + w.len).map fun w =>
      w.rkey.toNat * 2 ^ 64 + (w.remote.toNat + (paOffset pa - w.base)) % 2 ^ 64
  else none

/-- One byte of memory at a physical address: of the host's memory for a mapped offset of tier 2 (R380), else of the device's. -/
def State.byte (s : State) (pa : Nat) : Byte :=
  match hostKey s pa with
  | some k => s.hostMem.read k
  | none => s.mem.read pa

/-- `n` bytes of memory, as a list and as a number (01 R3). -/
def State.bytes (s : State) (pa n : Nat) : List Byte :=
  if paTier pa = 2 then (List.range n).map fun i => s.byte (pa + i) else Cells.getMany 0 s.mem pa n
def State.readN (s : State) (pa n : Nat) : Nat := leNat (s.bytes pa n)

/-! ### Writing memory -/

/-- Applies a change to every split of a group. -/
def Group.mapSplits (f : Split → Split) (g : Group) : Group := { g with sp := f g.sp, sibs := g.sibs.map f }

/-- Applies a change to every group. -/
def State.mapGroups (f : Group → Group) (s : State) : State := { s with g := f s.g, others := s.others.map f }

/-- Applies a change to every split. -/
def State.mapSplits (f : Split → Split) (s : State) : State := s.mapGroups (Group.mapSplits f)

/-- Does the condition of a wait hold for memory as it stands (15 R267, R268)? -/
def waitHolds (s : State) (w : Wait) : Bool :=
  match w.cond with
  | .gen t => (s.readN w.pa 4 + 2 ^ 32 - t.toNat) % 2 ^ 32 < 2 ^ 31
  | .sig t => decide (signedOf 64 (s.readN w.pa 8) ≤ t.toInt)

/-- Bytes of the word that a wait watches (15 R266). -/
def Wait.size (w : Wait) : Nat := match w.cond with | .gen _ => 4 | .sig _ => 8

/-- Does a write of bytes touch a word of n bytes at an address? -/
def touches (bs : List (Nat × Byte)) (pa n : Nat) : Bool := bs.any fun b => pa ≤ b.1 && b.1 < pa + n

/-- What a write does to a waiting or demoted split: the home engine evaluates a registered wait, and a watched word wakes
whatever the value written (15 R266, 10 R181). -/
def notifySplit (m : State) (bs : List (Nat × Byte)) (sp : Split) : Split :=
  let byWait := match sp.wait with
    | some w => touches bs w.pa w.size && waitHolds m w
    | none => false
  let byWatch := match sp.watch with
    | some w => w.scratch.isNone && w.words.any fun x => touches bs x.1 4
    | none => false
  if byWait || byWatch then { sp with woken := true } else sp

/-- What a write does to a card that waits on its signal (09 R157). -/
def notifyCard (m : State) (bs : List (Nat × Byte)) (c : Card) : Card :=
  match c.waitPa with
  | some pa =>
    if touches bs pa 8 && waitHolds m { pa := pa, cond := .sig c.waitThr } then { c with ready := true } else c
  | none => c

/-- The 8-byte words that a write changes keep their old values for caches that are not coherent (01 R16, 13 R215). -/
def recordStale (m : State) (st : Cells (List DWord)) (bs : List (Nat × Byte)) : Cells (List DWord) :=
  bs.foldl (fun st b =>
    if m.byte b.1 = b.2 then st
    else
      let old := BitVec.ofNat 64 (m.readN (b.1 / 8 * 8) 8)
      let held := Cells.get [] st (b.1 / 8)
      if held.contains old then st else Cells.set [] st (b.1 / 8) (old :: held)) st

/-- A line's home lost its memory (22 R342). -/
def lineDrowned (s : State) (l : Nat) : Bool := s.drowned.contains (homeOfPa (64 * l)) && paTier (64 * l) < 2

/-- A 64-byte line of memory is poisoned (22 R338). -/
def poisonedLine (s : State) (l : Nat) : Bool := Cells.get false s.poison l != lineDrowned s l

/-- A line becomes poisoned, or loses its poison. -/
def setLinePoison (x : Bool) (l : Nat) (s : State) : State :=
  { s with poison := Cells.set false s.poison l (x != lineDrowned s l) }

/-- The lines that some bytes cover whole. -/
def wholeLines (bs : List (Nat × Byte)) : List Nat :=
  (bs.foldl (fun l b => if l.contains (b.1 / 64) then l else l ++ [b.1 / 64]) []).filter fun l =>
    (bs.filter fun b => b.1 / 64 == l).length == 64

/-- Lines that a write covers whole lose their poison (22 R338). -/
def clearPoison (bs : List (Nat × Byte)) (s : State) : State :=
  if bs.length < 64 then s else (wholeLines bs).foldl (fun s l => setLinePoison false l s) s

/-- Consecutive bytes from an address. -/
def bytesAt (pa : Nat) : List Byte → List (Nat × Byte)
  | [] => []
  | b :: bs => (pa, b) :: bytesAt (pa + 1) bs

/-- One byte takes a new value: the host's for a mapped offset of tier 2 (26 R380), else the device's. -/
def putByte (s : State) (b : Nat × Byte) : State :=
  match hostKey s b.1 with
  | some k => { s with hostMem := Cells.set 0 s.hostMem k b.2 }
  | none => { s with mem := Cells.set 0 s.mem b.1 b.2 }

/-- Bytes of memory take new values, and the caches may hold the old ones. -/
def putMemory (bs : List (Nat × Byte)) (s : State) : State := { bs.foldl putByte s with stale := recordStale s s.stale bs }

/-- LOGSZ of a queue header, and the virtual address of the slot of a card by its number (12 Table 12.1). -/
def queueLog (s : State) (h : Nat) : Nat := s.mem.readN (h + 0x18) 1
def queueSlotVa (s : State) (h n : Nat) : Nat := s.mem.readN (h + 0x10) 8 + 128 * (n % 2 ^ queueLog s h)

/-- The bytes at the slot of a queue's card; none where it does not translate (09 R145). -/
def slotBytes (s : State) (home : Nat) (q : JobQueue) (n : Nat) : Option (List Byte) :=
  match translate s home q.ctx (queueSlotVa s q.hdr n) with
  | .ok pa _ _ => some (Cells.getMany 0 s.mem pa 128)
  | _ => none

/-- A queue whose tail word has been written: the cards that it makes visible are known with what their slots hold (09 R145). A tail
further off than any ring is long makes none visible: such a queue stops (12 R193). -/
def seeQueue (s : State) (home : Nat) (q : JobQueue) : JobQueue :=
  let tail := s.mem.readN q.hdr 8
  let k := (tail + 2 ^ 64 - q.seen) % 2 ^ 64
  let new : List (Nat × List Byte) :=
    if 2 ^ 16 < k then []
    else (List.range k).filterMap fun i => (slotBytes s home q ((q.seen + i) % 2 ^ 64)).map fun bs => ((q.seen + i) % 2 ^ 64, bs)
  { q with seen := tail, cards := q.cards ++ new }

/-- A write wakes the dealers of the queues whose tail words it reaches (12 R193). -/
def seeCards (bs : List (Nat × Byte)) (s : State) : State :=
  if s.homes.any fun h => h.2.queues.any fun q => touches bs q.hdr 8 then
    { s with homes := s.homes.map fun h =>
        (h.1, { h.2 with queues := h.2.queues.map fun q => if touches bs q.hdr 8 then seeQueue s h.1 q else q }) }
  else s

/-- The home engine evaluates what waits on some bytes, for memory as it stands (15 R266, 10 R181, 09 R157, 12 R193). -/
def notifyWaits (bs : List (Nat × Byte)) (s : State) : State :=
  seeCards bs { s.mapSplits (notifySplit s bs) with cards := s.cards.map (notifyCard s bs) }

/-! ### Open runs of the hot-line combiner (18 R292, 14 R241)

Memory holds the word of an open run as it will stand when the run closes, so that every read sees every reduction that arrived
before it; a run keeps the word as it stood before, with the folded value, and no wait is evaluated before it closes. -/

/-- A run closes: its word's waits are evaluated. -/
def noteRun (s : State) (r : Run) : State := notifyWaits (bytesAt r.pa (s.bytes r.pa r.size)) s

/-- The runs of a home that a test names close, in the order in which they opened (R292). -/
def closeRuns (home : Nat) (p : Run → Bool) (s : State) : State :=
  let rs := (s.home home).runs
  if rs.any p then
    (rs.filter p).foldl noteRun (s.setHome home fun h => { h with runs := rs.filter fun r => !p r })
  else s

/-- An access other than a foldable reduction closes the runs of its line (R292). -/
def closeLine (pa : Nat) (s : State) : State :=
  if (s.home (homeOfPa pa)).runs.isEmpty then s else closeRuns (homeOfPa pa) (fun r => r.pa / 64 == pa / 64) s

/-- The runs of the lines that `n` bytes lie in close (R292). -/
def closeSpan (pa n : Nat) (s : State) : State :=
  if (s.home (homeOfPa pa)).runs.isEmpty then s
  else closeRuns (homeOfPa pa) (fun r => pa / 64 ≤ r.pa / 64 && r.pa / 64 ≤ (pa + n - 1) / 64) s

/-- The runs of the lines that a write touches close (R292). -/
def endRuns (bs : List (Nat × Byte)) (s : State) : State :=
  if s.homes.all fun h => h.2.runs.isEmpty then s else bs.foldl (fun s b => closeLine b.1 s) s

/-- One write of bytes to memory: with the combiner's own (`putRun`), the one operation that changes it (14 R231). -/
def storeBytes (s : State) (bs : List (Nat × Byte)) : State := clearPoison bs (notifyWaits bs (putMemory bs (endRuns bs s)))

/-- One write of the low n bytes of a number. -/
def storeN (s : State) (pa n x : Nat) : State := storeBytes s (bytesAt pa (leBytes n x))

/-- A device read of n bytes at a virtual address, page by page (21 R318). -/
def deviceRead : Nat → State → Nat → Nat → Nat → Nat → Option (List Byte)
  | 0, _, _, _, _, n => if n = 0 then some [] else none
  | fuel + 1, s, home, ctx, va, n =>
    if n = 0 then some []
    else
      match translate s home ctx va with
      | .ok pa _ _ =>
        let k := min n (2 ^ 16 - va % 2 ^ 16)
        (deviceRead fuel s home ctx (va + k) (n - k)).map fun rest => s.bytes pa k ++ rest
      | _ => none

/-- A device read of n bytes at a virtual address closes the runs of its lines (18 R292). -/
def closeVirtual : Nat → State → Nat → Nat → Nat → Nat → State
  | 0, s, _, _, _, _ => s
  | fuel + 1, s, home, ctx, va, n =>
    if n = 0 then s
    else
      let k := min n (2 ^ 16 - va % 2 ^ 16)
      match translate s home ctx va with
      | .ok pa _ _ => closeVirtual fuel (closeSpan pa k s) home ctx (va + k) (n - k)
      | _ => s

/-- One of the values that a cache may hold for a word: each old one by a free choice, else the value `v` (log 5). -/
def staleChoose (k : Nat) : List DWord → Nat → DWord → DWord
  | [], _, v => v
  | old :: rest, i, v => staleChoose k rest (i + 1) (if Config.keepsOld (k + i) then old else v)

/-- An 8-byte word read by a cache that may hold an old value of it (01 R16, 13 R215); `k` numbers the read. -/
def staleRead (s : State) (pa k : Nat) : DWord :=
  staleChoose ((s.free * 2 ^ 56 + k) * 2 ^ 16) (Cells.get [] s.stale (pa / 8)) 0
    (BitVec.ofNat 64 (s.readN (pa / 8 * 8) 8))

/-- An instruction word at a physical address, old or new (01 R16). -/
def fetchWord (s : State) (pa : Nat) : Word :=
  BitVec.ofNat 32 ((staleRead s pa pa).toNat / 2 ^ (pa % 8 / 4 * 32))

end Sys2Proof.Machine
end

