-- ==== Sys2Proof/Machine/Diag.lean ====
section
/-! DEFINITION. The diagnostic lease and the repair table of a core (spec/08 R137 to R142). -/

namespace Sys2Proof.Machine

/-- Length of the diagnostic lease (R137). -/
def diagLength : Nat := 0xC1610
/-- End of the march array: the first repair entry's offset (08 Table 8.1). -/
def diagEntries : Nat := 0xC1400
/-- Offset of the first port word (08 Table 8.2). -/
def diagPorts : Nat := 0xC1600

/-- KIND of a march-array offset (08 Tables 8.1, 8.3). -/
def repairKind (o : Nat) : Nat :=
  if o < 0x40000 then 0
  else if o < 0x40400 then 1
  else if (o - 0x40400) % 0x20400 / 128 < 1024 then 2 else 3

/-- Fields of a repair entry (08 Table 8.3). -/
def repairOffset (e : DWord) : Nat := bits e.toNat 31 0
def entryKind (e : DWord) : Nat := bits e.toNat 35 32
def entrySpare (e : DWord) : Nat := bits e.toNat 39 36
def entryRes (e : DWord) : Nat := bits e.toNat 43 40

/-- A repair entry from its fields (08 Table 8.3). -/
def repairEntry (res spare kind offset : Nat) : DWord :=
  BitVec.ofNat 64 (2 ^ 63 + res * 2 ^ 40 + spare * 2 ^ 36 + kind * 2 ^ 32 + offset)

/-- The offsets of the valid entries of a core. -/
def repairOffsets (c : Core) : List Nat := (List.range c.count).map fun i => repairOffset (Cells.get 0 c.repair i)

/-- One value appended to the repair table (R139). -/
def appendRepair (c : Core) (value : Word) : Core :=
  let o := value.toNat
  if o % 4 ≠ 0 ∨ diagEntries ≤ o then { c with bad := true }
  else if (repairOffsets c).contains o then c
  else if c.count = 64 then { c with ovf := true }
  else { c with repair := Cells.set 0 c.repair c.count (repairEntry 0 0 (repairKind o) o), count := c.count + 1 }

/-- The unit whose spares an entry uses: a scratch bank, a register file, a tile store (R140). -/
def repairUnit (e : DWord) : Nat × Nat :=
  let o := repairOffset e
  match entryKind e with
  | 0 | 1 => (0, o / 4 % 32)
  | 2 | 3 => (1, (o - 0x40400) / 0x20400)
  | _ => (2, (o - 0x100000) / 0x10400)

/-- The row of a register-file or tile-store entry within its unit. -/
def repairRow (e : DWord) : Nat :=
  let o := repairOffset e
  match entryKind e with
  | 2 | 3 => (o - 0x40400) % 0x20400 / 128
  | 4 | 5 => (o - 0x100000) % 0x10400 / 256
  | _ => o / 128

/-- The spare number that a spare entry names (R140 pass 1). -/
def spareNumber (e : DWord) : Nat :=
  match entryKind e with
  | 1 => (repairOffset e - 0x40000) / 128
  | 3 => repairRow e - 1024
  | _ => repairRow e - 256

/-- Spares of a unit: 8 words of a bank, 8 rows of a register file, 4 rows of a tile store (08 Table 8.1, R142). -/
def spareCount (u : Nat × Nat) : Nat := if u.1 = 2 then 4 else 8

/-- Pass 1: entries of spares retire them (R140). -/
def retireSpares (es : List DWord) : List DWord :=
  es.map fun e =>
    if entryKind e = 1 ∨ entryKind e = 3 ∨ entryKind e = 5 then repairEntry 2 0 (entryKind e) (repairOffset e) else e

/-- Spares of a unit that are retired or assigned, among all entries after pass 1 and the entries already handled. -/
def sparesUsed (u : Nat × Nat) (all handled : List DWord) : List Nat :=
  ((all.filter fun e => repairUnit e == u && entryRes e == 2).map spareNumber)
    ++ ((handled.filter fun e => repairUnit e == u && entryRes e == 1).map entrySpare)

/-- Pass 2, one entry: a register-file row that holds a spare keeps it; another entry takes the lowest free spare (R140). -/
def assignSpare (all handled : List DWord) (e : DWord) : DWord :=
  if entryRes e = 2 then e
  else
    let same := handled.find? fun x =>
      entryKind e == 2 && entryKind x == 2 && repairUnit x == repairUnit e && repairRow x == repairRow e && entryRes x == 1
    match same with
    | some x => repairEntry 1 (entrySpare x) (entryKind e) (repairOffset e)
    | none =>
      match firstFrom (fun i => !(sparesUsed (repairUnit e) all handled).contains i) (spareCount (repairUnit e)) 0 with
      | some i => repairEntry 1 i (entryKind e) (repairOffset e)
      | none => repairEntry 3 0 (entryKind e) (repairOffset e)

/-- Pass 2 over the entries in index order (R140). -/
def assignSpares (all : List DWord) : List DWord → List DWord → List DWord
  | handled, [] => handled
  | handled, e :: es => assignSpares all (handled ++ [assignSpare all handled e]) es

/-- An entry of KIND 4 or 5 for a failing row of a tile store (R142), under the rules of R139. -/
def appendTileRow (c : Core) (q n : Nat) : Core :=
  let o := 0x100000 + 0x10400 * q + 256 * n
  if (repairOffsets c).contains o then c
  else if c.count = 64 then { c with ovf := true }
  else { c with repair := Cells.set 0 c.repair c.count (repairEntry 0 0 (if n < 256 then 4 else 5) o), count := c.count + 1 }

/-- The failing rows of a core's tile stores are appended, in increasing partition and row order (R142, log 20). -/
def appendTileRows (core : Nat) (c : Core) : Core :=
  ((List.range (4 * 260)).filter fun i => Config.badTileRow core (i / 260) (i % 260)).foldl
    (fun c i => appendTileRow c (i / 260) (i % 260)) c

/-- Offset of the spare word that replaces a scratch word (08 Table 8.1). -/
def spareWord (e : DWord) : Nat := 0x40000 + 128 * entrySpare e + repairOffset e % 128

/-- A remapped scratch word and its spare change places: `scratch` holds the words that accesses reach (R140). -/
def swapWord (c : Core) (e : DWord) : Core :=
  if entryKind e = 0 ∧ entryRes e = 1 then
    { c with scratch := c.scratch.writeN (repairOffset e) 4 (c.cells.readN (spareWord e) 4)
             cells := c.cells.writeN (spareWord e) 4 (c.scratch.readN (repairOffset e) 4) }
  else c

/-- The remaps of a core's loaded table take effect, or are undone: every access to a remapped scratch word reaches its spare
(R140). Registers and tile rows are held with their groups, under the names that a remap leaves unchanged (log 96). -/
def swapSpares (c : Core) : Core := (List.range c.count).foldl (fun c i => swapWord c (Cells.get 0 c.repair i)) c

/-- The repair table after it is loaded (R140). -/
def loadRepair (c : Core) : Core :=
  let es := retireSpares ((List.range c.count).map fun i => Cells.get 0 c.repair i)
  swapSpares { c with repair := Cells.setMany 0 [] 0 (assignSpares es [] es) }

/-- A core with an entry that no spare repairs has failed (R140). -/
def coreFailed (c : Core) : Bool := (List.range c.count).any fun i => entryRes (Cells.get 0 c.repair i) == 3

/-- A port word as it reads (08 Table 8.2). -/
def portWord (c : Core) (o : Nat) : Word :=
  if o = 0xC1604 then
    BitVec.ofNat 32 ((if c.bad then 256 else 0) + (if c.ovf then 128 else 0) + c.count)
  else if o = 0xC1608 then c.status
  else if o = 0xC160C then c.synd
  else 0

/-- A 32-bit word of the diagnostic lease: cells, repair entries, port words (R137, R138). -/
def diagWord (c : Core) (o : Nat) : Word :=
  if o < 0x40000 then BitVec.ofNat 32 (c.scratch.readN o 4)
  else if o < diagEntries then BitVec.ofNat 32 (c.cells.readN o 4)
  else if o < diagPorts then
    BitVec.ofNat 32 ((Cells.get 0 c.repair ((o - diagEntries) / 8)).toNat / 2 ^ (if (o - diagEntries) % 8 = 4 then 32 else 0))
  else portWord c o

/-- A 32-bit word written to the diagnostic lease; writes to the entries are discarded (R137 to R139). -/
def setDiagWord (c : Core) (o : Nat) (w : Word) : Core :=
  if o < 0x40000 then { c with scratch := c.scratch.writeN o 4 w.toNat }
  else if o < diagEntries then { c with cells := c.cells.writeN o 4 w.toNat }
  else if o = diagPorts then appendRepair c w
  else if o = 0xC1608 then { c with status := w }
  else if o = 0xC160C then { c with synd := w }
  else c

end Sys2Proof.Machine
end

