-- ==== Sys2Proof/Machine/Team.lean ====
section
/-! DEFINITION. Events to the driver, posted packets of the device, team records and the barrier word, leaving a team,
card completion, retirement and kill (spec/09 R152 to R160, spec/26 R381). -/

namespace Sys2Proof.Machine

/-! ### Packages, homes, cores and partitions by number -/

/-- The package of a home, the home, core and place of a partition, the home of a core (05 Tables 5.5, 5.6). -/
def homePkg (h : Nat) : Nat := h / 16
def partHome (p : Nat) : Nat := p / 256
def partCore (p : Nat) : Nat := p / 4
def coreHome (c : Nat) : Nat := c / 64

/-- A home's cores and a core's partitions. -/
def homeCores (h : Nat) : List Nat := (List.range Config.coresPerHome).map fun c => h * 64 + c
def coreParts (c : Nat) : List Nat := (List.range 4).map fun p => c * 4 + p

/-- The core that a diagnostic group tests: RECIDX is 40 x home + core (08 R136). -/
def diagCore (g : Group) : Nat := g.baseHome * 64 + g.recIdx.toNat % Config.coresPerHome

/-- The die of a home: two homes each (22 R342, 13 worked example). -/
def homeDie (h : Nat) : Nat := h % 16 / 2

/-! ### Outstanding operations (10 R166, 14 R237, 18 R285) -/

/-- Every group. -/
def State.groups (s : State) : List Group := s.g :: s.others

/-- Drops the operations of a class that finished with none unfinished before them. -/
def pruneClass (c : Ctr) : List OutOp → List OutOp
  | [] => []
  | o :: os => if o.cls == c then (if o.fin then pruneClass c os else o :: os) else o :: pruneClass c os

/-- The operations that are still counted, in issue order (R285). -/
def pruneOps (os : List OutOp) : List OutOp :=
  pruneClass .copy (pruneClass .matrix (pruneClass .post (pruneClass .sync os)))

/-- An operation of a group has finished, in every split to which it is charged (R166, R285). -/
def finishOp (gid : Word) (id : Nat) (s : State) : State :=
  s.mapGroups fun g =>
    if g.gid == gid then
      g.mapSplits fun sp => { sp with ops := pruneOps (updateWhere (fun o => o.id == id) (fun o => { o with fin := true }) sp.ops) }
    else g

/-- Something of an operation is still to be performed, accepted, or taken by a mirror (13 R224, 25 R368). -/
def stillPending (s : State) (id : Nat) : Bool :=
  s.packets.any (fun p => p.id == id) || s.mirrors.any (fun m => m.2.id == id)
    || s.groups.any fun g => g.accs.any (fun a => a.id == id) || g.mtx.any (fun o => o.id == id) || g.copies.any fun c => c.id == id

/-- What waits for an operation goes on once it is performed, or performed and acknowledged (14 R237, R243). -/
def settle (id : Nat) (s : State) : State :=
  if stillPending s id then s
  else
    let waits := s.roce.any fun r => r.id == id
    let drop (l : List Nat) := l.filter fun x => x != 2 * id && (waits || x != 2 * id + 1)
    { s.mapGroups (fun g =>
        { g.mapSplits (fun sp => { sp with acquire := sp.acquire.filter fun a => a.2 != id, fence := drop sp.fence }) with
          accs := g.accs.map fun a => { a with after := drop a.after } }) with
      packets := s.packets.map fun p => { p with after := drop p.after } }

/-! ### The control page (26 Table 26.2) -/

def State.pageN (s : State) (p off n : Nat) : Nat := (s.pkg p).page.readN off n

/-- The core has failed its test (26 R382, Table 26.2 FAILCORES). -/
def coreMarked (s : State) (c : Nat) : Bool :=
  s.pageN (homePkg (coreHome c)) (0x18 + 8 * (coreHome c % 16)) 8 / 2 ^ (c % 64) % 2 == 1
def State.setPageN (s : State) (p off n x : Nat) : State := s.setPkg p fun k => { k with page := k.page.writeN off n x }

/-- Writes an event to the ring of a home's package, or counts it lost (26 R381). The sequence number is the count of
events written before it (log 15). -/
def postEvent (home code cause : Nat) (gid : Word) (a b : Nat) (s : State) : State :=
  let p := homePkg home
  let tail := s.pageN p 0x110 8
  if (tail + 2 ^ 64 - s.pageN p 0x118 8) % 2 ^ 64 = 1024 then s.setPageN p 0x120 8 ((s.pageN p 0x120 8 + 1) % 2 ^ 64)
  else
    let e := 0x8000 + tail % 1024 * 32
    let s1 := s.setPkg p fun k =>
      { k with page := k.page.write e (leBytes 1 code ++ leBytes 1 home ++ leBytes 2 cause ++ leBytes 4 gid.toNat
                                        ++ leBytes 8 a ++ leBytes 8 b ++ leBytes 8 tail) }
    s1.setPageN p 0x110 8 ((tail + 1) % 2 ^ 64)

/-! ### Paths between homes (25 R363, R365, R366, 26 R386) -/

/-- A direct link of the route table is up from one package to another. -/
def directLink (s : State) (p q : Nat) : Bool :=
  let e := (Cells.get 0 (s.pkg p).routes q).toNat
  bits e 23 23 == 1 && (List.range 15).any fun k => bits e k k == 1 && (Cells.get {} (s.pkg p).links k : Link).up

/-- Traffic passes from one package to another, direct or over the detour peer (25 R365). -/
def reachable (s : State) (p q : Nat) : Bool :=
  p == q || directLink s p q
    || (let d := bits (Cells.get 0 (s.pkg p).routes q).toNat 19 16
        bits (Cells.get 0 (s.pkg p).routes q).toNat 23 23 == 1 && directLink s p d && directLink s d q)

/-- A home takes device traffic: one that has been drained does not until it is returned (26 R386). -/
def takesTraffic (s : State) (home : Nat) : Bool := !(s.home home).held

/-- An item goes from one home to another. -/
def delivers (s : State) (src dst : Nat) : Bool := reachable s (homePkg src) (homePkg dst) && takesTraffic s dst

/-! ### Packets of the device's own -/

/-- A packet enters its egress queue (13 R225). -/
def postPacket (p : Packet) (s : State) : State := { s with packets := s.packets ++ [{ p with seq := s.fresh }] }

/-- A decrement of a signal posted by the device (09 R156), after the accesses that it releases. -/
def postDecrement (src pa pte x : Nat) (after : List Nat) (s : State) : State :=
  postPacket { id := s.fresh, src := src, dst := homeOfPa pa, body := .decrement pa x, pte := pte, after := after }
    { s with fresh := s.fresh + 1 }

/-! ### Copies of writes for mirror homes (25 R368, R370) -/

/-- A page of the device is DEGRADED, named by either copy (R370). -/
def isDegraded (s : State) (pa pte : Nat) : Bool :=
  pteMirror pte && s.degraded.any fun d => d.1 == pa / 2 ^ 16 || mirrorOf s (d.1 * 2 ^ 16) / 2 ^ 16 == pa / 2 ^ 16

/-- The bytes that stand at an address go to the mirror of their page, in order; a DEGRADED page has none (R368, R370). -/
def copyMirror (id : Nat) (gid : Option Word) (pa n pte : Nat) (s : State) : State :=
  if !pteMirror pte || isDegraded s pa pte then s
  else
    let m := mirrorOf s pa
    { s with
      mirrors := s.mirrors ++ [(homeOfPa m, { id := id, gid := gid, src := homeOfPa pa, dst := homeOfPa m, pte := pte, seq := s.fresh,
                                              body := .store (bytesAt m (s.bytes pa n)) })]
      fresh := s.fresh + 1 }

/-- The line of an address becomes poisoned at its home, and behind the copies before it at its mirror (22 R338, 25 R368). -/
def poisonBoth (gid : Option Word) (pa pte : Nat) (s : State) : State :=
  let t := setLinePoison true (pa / 64) s
  if !pteMirror pte || isDegraded s pa pte then t
  else
    let m := mirrorOf s pa
    { t with
      mirrors := t.mirrors ++ [(homeOfPa m, { id := t.fresh, gid := gid, src := homeOfPa pa, dst := homeOfPa m, pte := pte, seq := t.fresh,
                                              body := .poison m })]
      fresh := t.fresh + 1 }

/-- A write of n bytes that the device makes of its own accord, with its copy. -/
def deviceStore (pte pa n x : Nat) (s : State) : State :=
  if pteMirror pte then copyMirror s.fresh none pa n pte { storeN s pa n x with fresh := s.fresh + 1 } else storeN s pa n x

/-! ### Team records (09 Table 9.5) -/

def recGen (s : State) (r : Nat) : Nat := s.readN (r + 4) 4
def recExpected (s : State) (r : Nat) : Nat := s.readN (r + 2) 2
def recArrived (s : State) (r : Nat) : Nat := s.readN r 2
def recParent (s : State) (r : Nat) : Nat := s.readN (r + 8) 8
def recMembers (s : State) (r : Nat) : Nat := s.readN (r + 16) 4
def recTeamId (s : State) (r : Nat) : Nat := s.readN (r + 20) 4
def recFailSig (s : State) (r : Nat) : Nat := s.readN (r + 24) 8
def recStatus (s : State) (r : Nat) : Nat := s.readN (r + 32) 4

/-- Reserved bytes and TSTAT[31:3] are zero (09 R154, 15 R261). -/
def recReservedOk (s : State) (r : Nat) : Bool := recStatus s r < 8 && s.readN (r + 36) 28 == 0

/-- One update of the barrier word of a record, whose leaf is `pte` (09 Table 9.6). -/
def setBarrier (pte r gen expected arrived : Nat) (s : State) : State :=
  deviceStore pte r 8 (gen % 2 ^ 32 * 2 ^ 32 + expected % 2 ^ 16 * 2 ^ 16 + arrived % 2 ^ 16) s

/-- Sets a bit of TSTAT (09 Table 9.5). -/
def setTeamStatus (pte r bit : Nat) (s : State) : State := deviceStore pte (r + 32) 4 (recStatus s r ||| 2 ^ bit) s

/-- A group's write to a DEGRADED page is accepted: TEAMSTAT.DEGRADED, and TSTAT[1] of its team (25 R370). -/
def noteDegraded (gid : Word) (s : State) : State :=
  match s.groups.find? fun g => g.life != .vacant && g.gid == gid with
  | none => s
  | some g =>
    let s1 := s.mapGroups fun x => if x.life != .vacant && x.gid == gid then { x with teamstat := x.teamstat ||| 2 } else x
    match g.team with
    | some r => setTeamStatus g.teamPte r 1 s1
    | none => s1

/-- The result of a group's write goes to the mirror of its page; one to a DEGRADED page is noted (25 R368, R370). -/
def forward (id : Nat) (gid : Option Word) (pa n pte : Nat) (s : State) : State :=
  if isDegraded s pa pte then (match gid with
    | some g => noteDegraded g s
    | none => s)
  else copyMirror id gid pa n pte s

/-- A device write of bytes at virtual addresses for the focused group, page by page, with the copies for mirrors: none when some page does
not translate or is held for growth (21 R315, 22 R336, 25 R368). -/
def deviceWrite : Nat → State → Nat → Nat → Nat → List Byte → Option State
  | 0, s, _, _, _, bs => if bs.isEmpty then some s else none
  | fuel + 1, s, home, ctx, va, bs =>
    if bs.isEmpty then some s
    else
      match translate s home ctx va with
      | .ok pa pte _ =>
        if paTier pa < 2 && pteW pte then
          let n := 2 ^ 16 - va % 2 ^ 16
          deviceWrite fuel (forward s.fresh (some s.g.gid) pa (min n bs.length) pte (storeBytes s (bytesAt pa (bs.take n))))
            home ctx (va + n) (bs.drop n)
        else none
      | _ => none

/-- An arrival that could not be delivered to PARENT: TSTAT[2] and event 0x09 (09 R154). -/
def undelivered (pte r : Nat) (s : State) : State := postEvent (homeOfPa r) 0x09 0 0 r 0 (setTeamStatus pte r 2 s)

/-- The arrival that a completion posts to the parent record, in the context of the completing group (09 R154). One whose PARENT is a word
of host memory, tier 2, counts as undelivered (DESIGN CHOICE, log 108). -/
def postParent (ctx pte r : Nat) (s : State) : State :=
  let p := recParent s r
  if p = 0 then s
  else if p % 64 ≠ 0 ∨ 2 ^ 56 ≤ p then undelivered pte r s
  else match resolve s (homeOfPa r) ctx false false .write p with
    | .error _ => undelivered pte r s
    | .ok (pa, ppte) =>
      if paTier pa < 2 then
        postPacket { id := s.fresh, src := homeOfPa r, dst := homeOfPa pa, cls := 3, pte := ppte, ctx := ctx, body := .parent pa r pte }
          { s with fresh := s.fresh + 1 }
      else undelivered pte r s

/-- An arrival applied to the barrier word of a record, with the completion it may bring (09 R154). -/
def applyArrival (ctx pte r : Nat) (s : State) : State :=
  let arrived := (recArrived s r + 1) % 2 ^ 16
  if arrived = recExpected s r then
    postParent ctx pte r (setBarrier pte r (recGen s r + 1) (recExpected s r) 0 s)
  else setBarrier pte r (recGen s r) (recExpected s r) arrived s

/-- The parent's side of a completion (09 R154): refused when the record's reserved bytes are not zero. -/
def applyParentArrival (ctx pte pa child cpte : Nat) (s : State) : State :=
  if recReservedOk s pa then applyArrival ctx pte pa s else undelivered cpte child s

/-! ### Leaving a team (09 R155) -/

/-- A group holds a lease through its team, and its core is the anchor core (13 R216). -/
def leaseOf (s : State) (g : Group) : Option Lease :=
  g.team.bind fun t => s.leases.find? fun l => l.team == t && !l.dead

/-- Leases that no copy command addresses any more and that are released are gone (15 R270). -/
def purgeLeases (s : State) : State :=
  let used (l : Lease) := (s.g :: s.others).any fun g => g.copies.any fun c => c.lease == some l.id
  { s with leases := s.leases.filter fun l => !l.dead || used l }

/-- The team's lease is released (09 R155, 15 R270). -/
def releaseLease (team : Nat) (s : State) : State :=
  purgeLeases { s with leases := updateWhere (fun l => l.team == team) (fun l => { l with dead := true }) s.leases }

/-- A launch team's record is released (09 R155). -/
def releaseRecord (r : Nat) (s : State) : State :=
  if (s.home (homeOfPa r)).records.contains r then
    s.setHome (homeOfPa r) fun h => { h with records := h.records.filter fun x => x != r }
  else s

/-- The focused group leaves its team: one update of the record, and the lease's release by the last member (09 R155,
15 R263). -/
def leaveTeam (s : State) : State :=
  match s.g.team with
  | none => s
  | some r =>
    let s := if isDegraded s r s.g.teamPte then noteDegraded s.g.gid s else s
    let gen := recGen s r
    let expected := (recExpected s r + 2 ^ 16 - 1) % 2 ^ 16
    let counted := s.g.note == some (BitVec.ofNat 32 gen)
    let arrived := if counted then (recArrived s r + 2 ^ 16 - 1) % 2 ^ 16 else recArrived s r
    let members := (recMembers s r + 2 ^ 32 - 1) % 2 ^ 32
    let pte := s.g.teamPte
    let s1 := deviceStore pte (r + 16) 4 members s
    let s2 := if expected ≠ 0 ∧ arrived = expected then postParent s.g.ctx pte r (setBarrier pte r (gen + 1) expected 0 s1)
              else setBarrier pte r gen expected arrived s1
    let s3 := if members = 0 then releaseRecord r (releaseLease r s2) else s2
    { s3 with g := { s3.g with team := none, teamVa := 0, teamPte := 0, teamId := 0xFFFFFFFF, note := none } }

/-! ### Cards (09 R147, R158) -/

/-- Sets a bit of STATUS in a card's slot (09 R147). -/
def setCardStatus (c : Card) (bit : Nat) (s : State) : State :=
  deviceStore c.slotPte (c.slot + 6) 2 (s.mem.readN (c.slot + 6) 2 ||| 2 ^ bit) s

/-- Tokens of a group's work that is not yet performed and acknowledged: what its card's completion and its failure signal
release (09 R158, R160, 14 R243). -/
def groupPending (s : State) (gid : Word) : List Nat :=
  let own (x : Option Word) : Bool := x == some gid
  let work (g : Group) : List Nat :=
    if g.life != .vacant && g.gid == gid then g.accs.map (·.id) ++ g.mtx.map (·.id) ++ g.copies.map (·.id) else []
  ((s.packets.filter fun p => own p.gid).map (·.id) ++ (s.mirrors.filter fun m => own m.2.gid).map (·.2.id)
    ++ (s.roce.filter fun r => r.gid == gid).map (·.id) ++ (s.g :: s.others).flatMap work).map (2 * · + 1)

/-- The boot image's queue is released when its cards have completed (26 R382). -/
def releaseBoot (home : Nat) (s : State) : State :=
  if s.cards.any (·.boot) then s
  else s.setHome home fun h =>
    { h with queues := h.queues.filter fun q => !(q.boot && q.checked && s.mem.readN q.hdr 8 == s.mem.readN (q.hdr + 8) 8) }

/-- A card completes: one decrement of DONE with release, or event 0x0B, and STATUS[9] of an accepted card (09 R147,
R158). A refused card whose DONE is misaligned takes the same way as one whose DONE does not translate (DESIGN CHOICE, log 108). -/
def completeCard (c : Card) (after : List Nat) (s : State) : State :=
  let s0 := { s with cards := s.cards.filter fun x => x.id != c.id }
  let s1 := if c.boot then releaseBoot c.home s0 else s0
  let lost : State := postEvent c.home 0x0B 0 0 c.done.toNat c.slot (if c.refused then s1 else setCardStatus c 9 s1)
  if c.done = 0 then s1
  else if c.done.toNat % 8 ≠ 0 then lost
  else match resolve s1 c.home c.ctx true false .write c.done.toNat with
    | .ok (pa, pte) => if paTier pa < 2 then postDecrement c.home pa pte 1 after s1 else lost
    | .error _ => lost

/-- One group of a card has retired; the last one completes the card (09 R158, R159). -/
def cardRetire (id : Nat) (gid : Word) (s : State) : State :=
  match s.cards.find? fun c => c.id == id with
  | none => s
  | some c =>
    let pend := (c.pend ++ [gid]).filter fun g => !(groupPending s g).isEmpty
    let c' := { c with left := c.left - 1, pend := pend }
    let s1 := { s with cards := updateWhere (fun x => x.id == id) (fun _ => c') s.cards }
    if c'.left = 0 then completeCard c' (pend.flatMap (groupPending s)) s1 else s1

/-! ### Retirement and kill -/

/-- A retired group holds nothing; while an engine still works for it, its record stays as a ghost (09 R159, R160). -/
def releaseGroup (s : State) : State :=
  let g := s.g
  if g.copies.isEmpty ∧ g.mtx.isEmpty ∧ g.accs.isEmpty then { s with g := {} }
  else
    { s with g := { g with life := .ghost, sibs := [], slot := none, path := none, handler := .none,
                           sp := { g.sp with lanes := 0, part := none, status := .waiting, clause := {}, wait := none,
                                             watch := none } } }

/-- At a diagnostic group's retirement the self-test of its tile stores appends its entries and its core's repair table is
loaded; a core that stays faulty is reported failed, by the CORESLOT of its partition 0 (08 R140, R142, 26 R381; log 87). -/
def retireDiagnostic (s : State) : State :=
  if !s.g.diag then s
  else
    let c := diagCore s.g
    let s1 := s.setCore c fun x => loadRepair (appendTileRows c x)
    if coreFailed (s1.core c) then
      let h := coreHome c
      let w := s1.pageN (homePkg h) (0x18 + 8 * (h % 16)) 8
      postEvent h 0x06 0 0 (4 * c % 4096) 0 (s1.setPageN (homePkg h) (0x18 + 8 * (h % 16)) 8 (w ||| 2 ^ (c % 64)))
    else s1

/-- Steps 2 to 4 of retirement, of the focused group (09 R159). -/
def retireGroup (s : State) : State :=
  let s1 := leaveTeam s
  let s2 := retireDiagnostic s1
  let s3 := releaseGroup s2
  cardRetire s.g.card s.g.gid s3

/-- Every member of the team at a record sees the bit of its TEAMSTAT (22 Table 22.8). -/
def markMembers (r bit : Nat) (s : State) : State :=
  s.mapGroups fun g => if g.team == some r then { g with teamstat := g.teamstat ||| BitVec.ofNat 32 (2 ^ bit) } else g

/-- The copy commands of the focused group that a fault holds are discarded: their operations are finished, and nothing waits for
them any more (22 R341 step 1). -/
def discardHeld (s : State) : State :=
  (s.g.copies.filter fun c => c.fault).foldl (fun t c => settle c.id (finishOp s.g.gid c.id t))
    { s with g := { s.g with copies := s.g.copies.filter fun c => !c.fault } }

/-- FAILSIG of a team's record falls by 1, after the work of the killed group `g` (09 R160); one that is misaligned, or that does
not translate in the group's context with W = 1 to tier 0 or 1, is left alone (log 86). -/
def postFailure (g : Group) (home fail : Nat) (s : State) : State :=
  if fail = 0 ∨ 2 ^ 56 ≤ fail ∨ fail % 8 ≠ 0 then s
  else match resolve s home g.ctx true false .write fail with
    | .ok (pa, pte) => if paTier pa < 2 then postDecrement home pa pte 1 (groupPending s g.gid) s else s
    | .error _ => s

/-- The focused group is killed: TSTAT[0], the leave, FAILSIG, the card's STATUS[8]; it retires without draining, and a
copy command held by a fault is discarded (09 R160). -/
def killGroup (s : State) : State :=
  let s0 := discardHeld { s with g := { s.g with killed := true } }
  let g := s0.g
  let s1 := match g.team with
    | none => s0
    | some r => markMembers r 0 (setTeamStatus g.teamPte r 0 s0)
  let s2 := leaveTeam s1
  let s3 := match g.team with
    | none => s2
    | some r => postFailure g (homeOfPa r) (recFailSig s r) s2
  let s4 := match s3.cards.find? fun c => c.id == g.card with
    | none => s3
    | some c => setCardStatus c 8 s3
  retireGroup s4

end Sys2Proof.Machine
end

