-- ==== Sys2Proof/Machine/Ops.lean ====
section
/-! DEFINITION. The operations that the meanings share: the group and split whose turn it is, the end of an instruction,
outstanding counters, jackets and trap frames, taking a trap and returning from it (spec/01 R13, R14, spec/10 R166,
spec/13 R222, spec/21 R312 to R319). -/

namespace Sys2Proof.Machine

/-- The outcome of a meaning. -/
abbrev Result := Host.Outcome State Fault Refusal

/-! ### Focus -/

/-- Takes the first element that satisfies a test out of a list. -/
def takeFirst {α : Type} (p : α → Bool) : List α → Option (α × List α)
  | [] => none
  | x :: xs => if p x then some (x, xs) else (takeFirst p xs).map fun r => (r.1, x :: r.2)

/-- The group with an identity takes the focus; a vacant record is dropped. -/
def focusGroup (gid : Word) (s : State) : Option State :=
  if s.g.life != .vacant && s.g.gid == gid then some s
  else (takeFirst (fun g => g.life != .vacant && g.gid == gid) s.others).map fun r =>
    { s with g := r.1, others := if s.g.life == .vacant then r.2 else s.g :: r.2 }

/-- The split with a number takes its group's focus. -/
def focusSplit (idx : Nat) (g : Group) : Option Group :=
  if g.sp.idx == idx then some g
  else (takeFirst (fun sp => sp.idx == idx) g.sibs).map fun r => { g with sp := r.1, sibs := g.sp :: r.2 }

/-- A split of a group takes the focus. -/
def focus (gid : Word) (idx : Nat) (s : State) : Option State :=
  (focusGroup gid s).bind fun s1 => (focusSplit idx s1.g).map fun g => { s1 with g := g }

/-- Changes the focused split. -/
def State.setSp (s : State) (f : Split → Split) : State := { s with g := { s.g with sp := f s.g.sp } }

/-- Every split of the focused group. -/
def Group.splits (g : Group) : List Split := g.sp :: g.sibs

/-- The live lanes of a group (10 R163). -/
def Group.lanes (g : Group) : LaneSet := g.splits.foldl (fun m sp => m ||| sp.lanes) 0

/-- Active(): the lanes of the split that are in EM (R8). -/
def State.active (s : State) : LaneSet := s.g.sp.lanes &&& s.g.em

/-- The split is the whole group (10 R167). -/
def converged (s : State) : Bool := s.g.sp.lanes == s.g.lanes

/-! ### Instruction addresses and the end of an instruction (01 R13) -/

/-- Address of the word of the instruction in execution. -/
def instrPc (s : State) : DWord := s.g.sp.pc + BitVec.ofNat 64 (4 + 4 * s.g.sp.clause.pos)

/-- The header after the clause in execution (R13 step 4). -/
def nextHeader (sp : Split) : DWord := sp.pc + BitVec.ofNat 64 (4 * (sp.clause.hdr.n + 1))

/-- The split moves past the instruction in execution: to the next one of its clause, or to the next header. -/
def Split.advance (sp : Split) : Split :=
  let c := sp.clause
  if c.pos + c.len < c.hdr.n then
    { sp with clause := { c with pos := c.pos + c.len, k := c.k + 1, len := 1 }, tail := none, defer := sp.defer - 1 }
  else { sp with pc := nextHeader sp, clause := {}, tail := none, yielded := false, defer := sp.defer - 1 }

/-- The end of an instruction that is no safe point: one more committed instruction (21 R323). -/
def complete (s : State) : State := s.setSp fun sp => { sp.advance with safe := sp.safe + 1 }

/-- A pre-emption request stops the splits of the group at their next safe point, outside a handler that has not halted (21 R324,
23 R350). -/
def wantsStop (g : Group) : Bool := g.preempt && (g.handler == .none || g.halted)

/-- The end of a safe point, which sets the count to 0 and at which a request stops the split (21 R323, R324). -/
def completeSafe (s : State) : State :=
  s.setSp fun sp => { sp.advance with safe := 0, stopped := sp.stopped || wantsStop s.g }

/-- The split stands again as `u`, before an instruction that turned out to have no effect (22 R339, 25 R373). -/
def Split.undo (u sp : Split) : Split :=
  { sp with
    pc := u.pc, clause := u.clause, tail := u.tail, keep := u.keep, live := u.live, ls := u.ls, safe := u.safe, region := u.region, defer := u.defer,
    yielded := u.yielded, spin := u.spin, trace := u.trace, prev := u.prev, past := u.past, dirty := u.dirty, stopped := u.stopped, lastLoad := u.lastLoad }

/-- The split is to execute the instruction at its place again: its words are fetched again (25 R373). -/
def Split.again (sp : Split) : Split := { sp with clause := { sp.clause with stage := .idle, inside := true } }

/-- A taken branch: the target is the next header (R13 step 4). -/
def branchTo (target : DWord) (s : State) : State :=
  s.setSp fun sp => { sp with pc := target, clause := {}, tail := none, yielded := false, defer := 0, safe := sp.safe + 1 }

/-! ### The history of the spin detector (10 R180)

A split's `trace` holds the writes of the iteration in progress, `past` the iterations that have ended and are still to be compared, each
with whether it did something that is no spin, `prev` the last one compared, and `spin` the length of the run that it ends. A load's
entry, of kind 9, stands for the values that it is still to write; an iteration is compared once it holds none. -/

/-- Iterations that make the spin detector fire: 32 that repeat the one before. -/
def spinLimit : Nat := 33

/-- A load of an iteration is still to write its values. -/
def unresolved (t : List (Nat × Nat × Nat)) : Bool := t.any fun e => e.1 == 9

/-- An iteration is compared with the one before: it continues the run, or starts a new one. -/
def compareIteration (d : Bool) (t : List (Nat × Nat × Nat)) (sp : Split) : Split :=
  { sp with spin := if sp.spin != 0 && !d && t == sp.prev then sp.spin + 1 else 1, prev := if sp.spin = 0 then [(10, 0, 0)] else t }

/-- The iterations that have ended are compared in turn, up to one whose values are still to come. -/
def settlePast : List (Bool × List (Nat × Nat × Nat)) → Split → Split
  | [], sp => { sp with past := [] }
  | x :: rest, sp => if unresolved x.2 then { sp with past := x :: rest } else settlePast rest (compareIteration x.1 x.2 sp)

/-- A back-edge ends an iteration. -/
def endIteration (sp : Split) : Split := settlePast (sp.past ++ [(sp.dirty, sp.trace)]) { sp with trace := [], dirty := false }

/-- The values that a load wrote take the place of its entry. -/
def fillTrace (id : Nat) (vals t : List (Nat × Nat × Nat)) : List (Nat × Nat × Nat) :=
  t.flatMap fun e => if e.1 == 9 && e.2.1 == id then vals else [e]
def Split.fillTraces (id : Nat) (vals : List (Nat × Nat × Nat)) (sp : Split) : Split :=
  settlePast (sp.past.map fun x => (x.1, fillTrace id vals x.2)) { sp with trace := fillTrace id vals sp.trace }

/-- The run that a back-edge may end, if every iteration still to be compared repeats the one before. -/
def spinReach (sp : Split) : Nat := (sp.past ++ [(sp.dirty, sp.trace)]).foldl (fun n x => if x.1 then 1 else n + 1) sp.spin

/-- A back-edge at which the detector may fire waits for the values that it compares (log 41). -/
def spinAwaits (sp : Split) : Bool := spinLimit ≤ spinReach sp && (unresolved sp.trace || sp.past.any fun x => unresolved x.2)

/-! ### Outstanding counters (01 R14, 10 R166, 18 R285) -/

/-- The value of a counter, of 6 bits (R285). It stands at 63 while a rejoined split is charged more operations than that (DESIGN CHOICE,
log 109). -/
def counter (c : Ctr) (sp : Split) : Nat := min 63 (sp.ops.filter fun o => o.cls == c).length

/-- The counter has room for one more operation (R14). -/
def hasRoom (c : Ctr) (s : State) : Bool := counter c s.g.sp < 63

/-- Charges a new operation to the focused split. -/
def charge (c : Ctr) (id : Nat) (s : State) : State := s.setSp fun sp => { sp with ops := sp.ops ++ [{ id := id, cls := c }] }

/-- All four counters of a split are 0 (13 R224). -/
def countersZero (sp : Split) : Bool := sp.ops.isEmpty

/-- A counter meets its threshold; 15 imposes no condition (R13). -/
def belowThreshold (t : Nat) (c : Ctr) (sp : Split) : Bool := t == 15 || counter c sp ≤ t

/-- The wait thresholds of a clause hold (R13 step 2). -/
def clauseReady (sp : Split) : Bool :=
  let h := sp.clause.hdr
  belowThreshold h.wcopy .copy sp && belowThreshold h.wmtx .matrix sp && belowThreshold h.wpost .post sp
    && belowThreshold h.wsync .sync sp

/-! ### Jackets and frames (13 R222, R223, 21 R315) -/

/-- The group is anchored (13 R216). -/
def anchored (s : State) (g : Group) : Bool := (leaseOf s g).isSome || g.tileRows != 0

/-- The instruction in execution acts as one of an anchored group: as the group stood when its clause issued (13 R216). -/
def anchoredHere (s : State) : Bool := s.g.sp.clause.anch

/-- The split stays on its core whatever it waits for: in an anchored group, and in a diagnostic one (13 R217, 08 R135). -/
def staysPut (s : State) : Bool := anchoredHere s || s.g.diag

def flag (b : Bool) (k : Nat) : Nat := if b then 2 ^ k else 0

/-- The current priority level of a split's group (12 R203). -/
def levelOf (g : Group) (sp : Split) : Nat := if sp.demoted then g.floorPrio else g.prio

/-- The fields of the 64-byte jacket header (13 Table 13.6); `ls` is the live-set index that the jacket carries. -/
def jacketHeader (s : State) (g : Group) (sp : Split) (pc : DWord) (sup : Bool) (ls : Nat) : List Byte :=
  leBytes 8 pc.toNat ++ leBytes 4 g.em.toNat ++ leBytes 4 sp.fpstat.toNat ++ leBytes 4 g.gid.toNat
    ++ leBytes 4 g.teamId.toNat ++ leBytes 4 sp.resgen.toNat
    ++ leBytes 1 (flag sp.demoted 7 + flag (anchored s g) 6 + flag sup 5 + sp.idx)
    ++ leBytes 1 g.baseHome ++ leBytes 1 (g.w / 8 - 1) ++ leBytes 1 (flag sp.wonly 7 + ls)
    ++ leBytes 4 (levelOf g sp * 2 ^ 24 + counter .copy sp * 2 ^ 18 + counter .matrix sp * 2 ^ 12 + counter .post sp * 2 ^ 6
                    + counter .sync sp)
    ++ leBytes 4 sp.lanes.toNat
    ++ leBytes 8 (match sp.region with | none => 0 | some r => 2 ^ 63 + r.ls * 2 ^ 56 + r.pc.toNat)
    ++ (List.range 8).flatMap fun k => leBytes 2 (Cells.get 0 g.fs k).toNat

/-- The body of a jacket that carries some vector registers, scalars and predicates, and BCUR (R223). -/
def jacketBody (vs ss ps : List Nat) (b : Bool) (g : Group) (sp : Split) : List Byte :=
  (vs.flatMap fun r => (List.range 32).flatMap fun l => leBytes 4 (Cells.get 0 g.v (r * 32 + l)).toNat)
    ++ (ss.flatMap fun k => leBytes 8 (Cells.get 0 sp.s k).toNat)
    ++ (ps.flatMap fun k => leBytes 4 (Cells.get 0 g.p k).toNat)
    ++ if b then (List.range 32).map fun l => Cells.get 0 g.bcur l else []

/-- The body of a whole-state jacket (R223). -/
def wholeBody (g : Group) (sp : Split) : List Byte :=
  jacketBody (List.range g.w) ((List.range 63).map (· + 1)) ((List.range 7).map (· + 1)) true g sp

/-- Size of a whole-state jacket (R223). -/
def jacketSize (g : Group) : Nat := 64 + 128 * g.w + 504 + 28 + 32

/-- TRAPCAUSE (21 Table 21.2). -/
def causeWord (t : TrapRec) (sup : Bool) : Word :=
  BitVec.ofNat 32 (t.acc * 2 ^ 16 + flag t.eng 15 + flag t.defer 14 + flag sup 13 + t.lane * 2 ^ 8 + t.code)

/-- The 24-byte trap record (R315). -/
def trapRecord (t : TrapRec) : List Byte :=
  leBytes 4 (causeWord t false).toNat ++ leBytes 4 t.mask.toNat ++ leBytes 8 t.addr.toNat ++ leBytes 8 t.hdr.toNat

/-- The trap frame of the focused split (R315). -/
def frameBytes (s : State) (t : TrapRec) : List Byte :=
  jacketHeader s s.g s.g.sp t.pc false 0 ++ wholeBody s.g s.g.sp
    ++ ((List.range 128).flatMap fun k => leBytes 8 (Cells.get 0 s.g.sp.clause.latch k).toNat) ++ trapRecord t

/-- Bits [55:0] of an address. -/
def low56 (x : DWord) : DWord := x &&& 0x00FFFFFFFFFFFFFF

/-! ### Taking a trap (21 R314 to R316, R319) -/

/-- A trap of a diagnostic group retires it, and boot firmware learns the cause (08 R141). -/
def diagnosticTrap (t : TrapRec) (s : State) : State :=
  retireGroup (s.setCore (diagCore s.g) fun c => { c with cause := causeWord t false })

/-- A double trap terminates the group, and the driver is told its cause, with SUPV set (R319, log 88); a diagnostic group's trap
retires it (08 R141). -/
def doubleTrap (t : TrapRec) (s : State) : State :=
  if s.g.diag then diagnosticTrap t s
  else killGroup (postEvent s.g.baseHome 0x01 (t.code + flag true 13) s.g.gid t.addr.toNat 0 s)

/-- The highest valid entry of the split table. -/
def topEntry (g : Group) : Nat := (g.splits.filter fun sp => sp.joins.isNone).foldl (fun n sp => max n sp.idx) 0

/-- The trap registers take the values of a trap or restart (R312, R313, R315). -/
def setTrapRegs (t : TrapRec) (g : Group) : Group :=
  { g with trapcause := causeWord t false, trappc := t.pc, trapaddr := t.addr, trapmask := t.mask, traphdr := t.hdr }

/-- Offsets within the frame of the words of poisoned registers (R315, 22 R338). -/
def poisonedWords (g : Group) : List Nat :=
  (g.poisonV.filter (·.2)).map (fun e => 64 + 4 * e.1)
    ++ (g.sp.poisonS.filter (·.2)).map (fun e => 64 + 128 * g.w + 8 * (e.1 - 1))
    ++ (g.sp.poisonP.filter (·.2)).map (fun e => 64 + 128 * g.w + 504 + 4 * (e.1 - 1))

/-- The line that holds a virtual address of a group's frame is poisoned (22 R338). -/
def poisonVa (s : State) (va : Nat) : State :=
  match translate s s.g.baseHome s.g.ctx va with
  | .ok pa pte _ => poisonBoth (some s.g.gid) pa pte s
  | _ => s

/-- Registers of the focused split that an issued load or TLDV is still to write (06 R100). -/
def registersPending (g : Group) : Bool :=
  g.accs.any (fun a => a.owners.contains g.sp.idx)
    || g.mtx.any fun o => o.op == 4 && g.sp.ops.any fun x => x.id == o.id

/-- The reuse latches that hold a group's registers are emptied (18 R283, 21 R325). -/
def dropLatches (gid : Word) (s : State) : State :=
  if s.parts.any fun e => (e.2.reuse.map (·.gid)) == some gid then
    { s with parts := s.parts.filterMap fun e =>
        let p : Part := if (e.2.reuse.map (·.gid)) == some gid then { e.2 with reuse := none } else e.2
        if p = {} then none else some (e.1, p) }
  else s

/-- A write of some of a group's vector registers empties the reuse latches that hold any of them (18 R283). -/
def dropTagged (gid : Word) (regs : List Nat) (s : State) : State :=
  let hit (l : Latch) : Bool := l.gid == gid && regs.any fun k => l.base ≤ k && k < l.base + l.count
  if s.parts.any fun e => e.2.reuse.any hit then
    { s with parts := s.parts.filterMap fun e =>
        let p : Part := if e.2.reuse.any hit then { e.2 with reuse := none } else e.2
        if p = {} then none else some (e.1, p) }
  else s

/-- The handler of the focused split starts: its frame is written, supervisor state set, and the PC is TRAPVEC (R315,
R316). A frame that cannot be written is a double trap. The frame carries the poison of its registers (22 R338), and the group's
reuse latch is emptied (18 R283). -/
def startHandler (t : TrapRec) (s : State) : State :=
  if s.g.trapvec = 0 ∨ ctxPrivLog s s.g.ctx = 0 then doubleTrap t s
  else match deviceWrite 3 s s.g.baseHome s.g.ctx s.g.ctxbase.toNat (frameBytes s t) with
    | none => doubleTrap t s
    | some s0 =>
      let s1 := dropLatches s.g.gid ((poisonedWords s.g).foldl (fun s o => poisonVa s (s.g.ctxbase.toNat + o)) s0)
      let g := setTrapRegs t s1.g
      { s1 with g := { g with
          svV := g.poisonV, svS := g.sp.poisonS, svP := g.sp.poisonP,
          sup := true, handler := .running g.sp.idx, floor := topEntry g + 1, seamSv := g.seams, seams := [],
          em := g.em ||| g.sp.lanes,
          sp := { g.sp with pc := g.trapvec, clause := {}, status := .runnable, safe := 0, region := none, trap := none,
                            tail := none, defer := 0, wait := none } } }

/-- A split that stands between clauses (R314): outside an instruction that it has begun, not inside a clause that a return entered
(R318), and not about to leave its home. -/
def atBoundary (sp : Split) : Bool := sp.clause.pos == 0 && sp.crc == 0 && sp.inval.isNone && sp.move.isNone

/-- A split that waits in WAITC for its counter (19 R308). -/
def waitsInWaitc (sp : Split) : Bool :=
  match decode sp.clause.hdr.cls (sp.clause.words.drop sp.clause.pos) with
  | .ok (.waitc c n) => sp.clause.stage == .issued && n.toNat < counter c sp
  | _ => false

/-- A split that runs: one that a pre-emption request has stopped does not, nor one that waits in WAITC, and both stay as they stand
(R314, 19 R308, R324, R328). -/
def runs (sp : Split) : Bool := sp.status == .runnable && !sp.stopped && !waitsInWaitc sp

/-- The other running splits of a group that stand at a clause boundary stop (R314). -/
def suspendOthers (g : Group) : Group :=
  { g with sibs := g.sibs.map fun sp =>
      if runs sp && atBoundary sp then { sp with status := .suspended, clause := {} } else sp }

/-- Some other split still runs. -/
def othersRunning (g : Group) : Bool := g.sibs.any runs

/-- The focused split takes a trap (R314): in supervisor state it is a double trap; behind another split's handler it is
held; otherwise the other splits stop and the handler starts, at once when all of them have stopped and the registers that
the frame holds are written. -/
def takeTrap (t : TrapRec) (s : State) : State :=
  if s.g.diag then diagnosticTrap t s
  else if s.g.sup then doubleTrap t s
  else match s.g.handler with
    | .running _ | .pending _ => s.setSp fun sp => { sp with trap := some t, status := .suspended }
    | .none =>
      let g := suspendOthers s.g
      if othersRunning g || registersPending g then
        { s with g := { g with handler := .pending g.sp.idx, sp := { g.sp with trap := some t, status := .suspended } } }
      else startHandler t { s with g := g }

/-- A trap of the focused split's instruction, precise at it: code, access, failing lane and address (R312, R313). -/
def instrTrap (code acc lane : Nat) (addr : DWord) (s : State) : TrapRec :=
  { code := code, acc := acc, defer := s.g.sp.defer != 0, lane := lane, addr := addr, pc := instrPc s, hdr := s.g.sp.pc,
    mask := s.active }

/-- The instruction traps and has no effect (01 R15). -/
def trapAt (code acc lane : Nat) (addr : DWord) (s : State) : Result := .next (takeTrap (instrTrap code acc lane addr s) s)

/-- Illegal-instruction and illegal-operand traps (02 R43, R44). -/
def illegalInstruction (s : State) : Result := trapAt 0x02 3 0 0 s
def illegalOperand (s : State) : Result := trapAt 0x03 3 0 0 s

/-- A trap precise at the header at the split's PC (02 R23, R26). -/
def headerTrap (code acc : Nat) (addr : DWord) (s : State) : State :=
  takeTrap { code := code, acc := acc, defer := s.g.sp.defer != 0, addr := addr, pc := s.g.sp.pc, hdr := s.g.sp.pc,
             mask := s.active } s

/-! ### The end of a handler (21 R317, R318) -/

/-- Suspended splits resume, one that has no place once it is admitted; a split with a held trap stays until the trap is taken
(R317). -/
def resumeSuspended (g : Group) : Group :=
  g.mapSplits fun sp =>
    if sp.status == .suspended && sp.trap.isNone then { sp with status := if sp.part.isSome then .runnable else .transit } else sp

/-- The handler is over: supervisor state is cleared and the seam records come back (R317, R318 step 3). -/
def endHandler (g : Group) : Group :=
  resumeSuspended { g with sup := false, handler := .none, seams := g.seamSv, seamSv := [], floor := 0 }

/-! ### Small shared pieces -/

/-- A fresh number for an operation, access or packet. -/
def State.nextId (s : State) : State := { s with fresh := s.fresh + 1 }

/-- The free choices of this instruction are spent (log 5). -/
def State.spend (s : State) : State := { s with free := s.free + 1 }

end Sys2Proof.Machine
end

