-- ==== Sys2Proof/Machine/Operands.lean ====
section
/-! DEFINITION. Registers and operand forms (spec/01 R7, R8, spec/02 R30, R32 to R38): scalars, predicates, lanes of
vector registers, the source operands fitted to the width of an instruction, results and latches. -/

namespace Sys2Proof.Machine

/-! ### Scalars and predicates (R7) -/

/-- A scalar register; s0 reads zero. -/
def readS (s : State) (n : SReg) : DWord := if n = 0 then 0 else Cells.get 0 s.g.sp.s n.toNat

/-- A write to a scalar register; one to s0 is discarded. It clears the register's poison (22 R338). -/
def writeS (n : SReg) (x : DWord) (s : State) : State :=
  if n = 0 then s
  else s.setSp fun sp =>
    { sp with s := Cells.set 0 sp.s n.toNat x, poisonS := Cells.set false sp.poisonS n.toNat false }

/-- A predicate; p0 reads all ones. -/
def readP (s : State) (n : PReg) : LaneSet := if n = 0 then 0xFFFFFFFF else Cells.get 0 s.g.p n.toNat

/-- The bits of some lanes of a predicate are written; one to p0 is discarded. Only a write of every lane clears the register's
poison (22 R338). -/
def writeP (n : PReg) (lanes x : LaneSet) (s : State) : State :=
  if n = 0 then s
  else
    { s with g := { s.g with
        p := Cells.set 0 s.g.p n.toNat ((Cells.get 0 s.g.p n.toNat &&& ~~~lanes) ||| (x &&& lanes)),
        sp := { s.g.sp with poisonP := if lanes = 0xFFFFFFFF then Cells.set false s.g.sp.poisonP n.toNat false
                                       else s.g.sp.poisonP } } }

/-- The bits of some lanes of EM are written (10 R165). -/
def writeEM (lanes x : LaneSet) (s : State) : State := { s with g := { s.g with em := (s.g.em &&& ~~~lanes) ||| (x &&& lanes) } }

/-! ### Vector registers -/

/-- Key of a lane of a vector register. -/
def vkey (reg lane : Nat) : Nat := reg * 32 + lane

/-- One lane of a vector register. -/
def Group.lane (g : Group) (reg lane : Nat) : Word := Cells.get 0 g.v (vkey reg lane)

/-- One lane of an even-odd pair, low word in the even register (R7). -/
def Group.lane64 (g : Group) (reg lane : Nat) : DWord :=
  BitVec.ofNat 64 ((g.lane reg lane).toNat + (g.lane (reg + 1) lane).toNat * 2 ^ 32)

/-- A register name is legal: below W; a 64-bit one is even with its pair below W (R7). -/
def regOk (s : State) (wide : Bool) (n : VReg) : Bool :=
  if wide then n.toNat % 2 == 0 && n.toNat + 1 < s.g.w else n.toNat < s.g.w

/-- Writes some lanes of a register. -/
def setLanes (reg : Nat) (lanes : List Nat) (r : Nat → Word) (v : Cells Word) : Cells Word :=
  lanes.foldl (fun v l => Cells.set 0 v (vkey reg l) (r l)) v

/-- Lanes of a register lose their poison (22 R338). -/
def cleanLanes (reg : Nat) (lanes : List Nat) (p : Cells Bool) : Cells Bool :=
  lanes.foldl (fun p l => Cells.set false p (vkey reg l) false) p

/-- The lanes of a set receive 32-bit values in a register. -/
def writeV (reg : Nat) (m : LaneSet) (r : Nat → Word) (s : State) : State :=
  { s with g := { s.g with v := setLanes reg (lanesOf m) r s.g.v, poisonV := cleanLanes reg (lanesOf m) s.g.poisonV } }

/-- The lanes of a set receive 64-bit values in a register pair. -/
def writeV64 (reg : Nat) (m : LaneSet) (r : Nat → DWord) (s : State) : State :=
  writeV (reg + 1) m (fun l => BitVec.ofNat 32 ((r l).toNat / 2 ^ 32)) (writeV reg m (fun l => BitVec.ofNat 32 (r l).toNat) s)

/-! ### Source operands (R32 to R35) -/

/-- The pattern of an inline constant (02 Table 2.6). -/
def constPattern (n : BitVec 4) : Word :=
  match n.toNat with
  | 0 => 0 | 1 => 1 | 2 => 2 | 3 => 3 | 4 => 4 | 5 => 8 | 6 => 16 | 7 => 0xFFFFFFFF
  | 8 => 0x00000000 | 9 => 0x3F000000 | 10 => 0x3F800000 | 11 => 0x40000000
  | 12 => 0x40800000 | 13 => 0xBF000000 | 14 => 0xBF800000 | _ => 0xC0000000

/-- The source names a legal operand: not a code of 02 Table 2.5 that is illegal, and a register within the window (R32). -/
def srcOk (s : State) (wide : Bool) : Src → Bool
  | .v n => regOk s wide n
  | .illegal _ => false
  | _ => true

/-- A bypass latch in one lane; zero when nothing was captured (R38). -/
def latch (s : State) (n : BitVec 2) (lane : Nat) : DWord := Cells.get 0 s.g.sp.clause.latch (n.toNat * 32 + lane)

/-- A 32-bit source (R33, R34). -/
def src32 (s : State) (x : Src) (l : Nat) : Word :=
  match x with
  | .v n => s.g.lane n.toNat l
  | .s n => (readS s n).setWidth 32
  | .latch n => (latch s n l).setWidth 32
  | .const n => constPattern n
  | .laneid => BitVec.ofNat 32 l
  | .lit w => w
  | .illegal _ => 0

/-- A 64-bit integer source: literals and constants are sign-extended, LANEID is zero-extended (R34). -/
def src64 (s : State) (x : Src) (l : Nat) : DWord :=
  match x with
  | .v n => s.g.lane64 n.toNat l
  | .s n => readS s n
  | .latch n => latch s n l
  | .const n => (constPattern n).signExtend 64
  | .laneid => BitVec.ofNat 64 l
  | .lit w => w.signExtend 64
  | .illegal _ => 0

/-- An FP64 source: floating-point constants and a literal are FP32 values widened, integer constants sign-extended
(R34). -/
def srcF64 (s : State) (x : Src) (l : Nat) : DWord :=
  match x with
  | .const n => if n.toNat < 8 then (constPattern n).signExtend 64 else BitVec.ofNat 64 (widenF32 (constPattern n).toNat)
  | .lit w => BitVec.ofNat 64 (widenF32 w.toNat)
  | x => src64 s x l

/-- A packed 16-bit source: a floating-point constant stands in both halves, converted to the format (R34). -/
def src16 (s : State) (f : FFmt) (x : Src) (l : Nat) : Word :=
  match x with
  | .const n =>
    if n.toNat < 8 then constPattern n
    else
      let h := (convFloat fp32 f .rne false (constPattern n).toNat).pat
      BitVec.ofNat 32 (h + h * 2 ^ 16)
  | x => src32 s x l

/-! ### Results (R36, R37) -/

/-- Captures a result into latch k mod 4: the new value in active lanes, the register's old one elsewhere (R37). -/
def capture (m : LaneSet) (new old : Nat → DWord) (c : Clause) : Clause :=
  { c with latch := allLanes.foldl (fun t l => Cells.set 0 t (c.k % 4 * 32 + l) (if m.getLsbD l then new l else old l)) c.latch }

/-- A 32-bit vector result: the register unless NWB is set, and the latch (R36, R37, R98). -/
def result32 (nwb : Bool) (d : VReg) (r : Nat → Word) (s : State) : State :=
  let m := s.active
  let s1 := s.setSp fun sp =>
    { sp with clause := capture m (fun l => (r l).setWidth 64) (fun l => (s.g.lane d.toNat l).setWidth 64) sp.clause }
  if nwb then s1 else writeV d.toNat m r s1

/-- A 64-bit vector result (R36, R37, R98). -/
def result64 (nwb : Bool) (d : VReg) (r : Nat → DWord) (s : State) : State :=
  let m := s.active
  let s1 := s.setSp fun sp => { sp with clause := capture m r (fun l => s.g.lane64 d.toNat l) sp.clause }
  if nwb then s1 else writeV64 d.toNat m r s1

end Sys2Proof.Machine
end

