-- ==== Sys2Proof/Machine/Flags.lean ====
section
/-! DEFINITION. FPSTAT, the sticky floating-point status of a split (spec/01 R10, Table 1.2). -/

namespace Sys2Proof.Machine

/-- The bits of FPSTAT that exist (01 Table 1.2). -/
def fpstatMask : Word := 0x7F

/-- The flags that the lanes of a set raise, ORed together (R10). -/
def flagsOf (m : LaneSet) (f : Nat → Word) : Word := (lanesOf m).foldl (fun x l => x ||| f l) 0

/-- Flags are set; none is cleared (R10). -/
def raiseFlags (x : Word) (s : State) : State := s.setSp fun sp => { sp with fpstat := sp.fpstat ||| x }

/-- FPSTAT is replaced; bits [31:7] are discarded (05 R97). -/
def writeFpstat (x : Word) (s : State) : State := s.setSp fun sp => { sp with fpstat := x &&& fpstatMask }

end Sys2Proof.Machine
end

