-- ==== Sys2Proof/Machine/LiveSet.lean ====
section
/-! DEFINITION. Code regions and live sets: the lookup, its checks, and what a move keeps (spec/03 R53, spec/13 R215,
R221). -/

namespace Sys2Proof.Machine

/-- Why a live set cannot be used. -/
inductive LsFault where
  /-- Illegal-operand trap (R53, R215). -/
  | operand
  /-- Instruction-fetch fault with the address that TRAPADDR holds (R215). -/
  | fetch (addr : Nat)
  deriving DecidableEq, Repr

/-- The 8-byte word at a virtual address, read as a table entry: the value now or one that a cache holds (R215, log 5). An address of 2^56
or more does not translate, and faults like one that is not mapped (DESIGN CHOICE, log 108). -/
def tableWord (s : State) (va : Nat) : Except LsFault Nat :=
  match translate s s.g.sp.home s.g.ctx va with
  | .ok pa _ _ => .ok (staleRead s pa pa).toNat
  | _ => .error (.fetch va)

/-- The four 8-byte words of a 32-byte table entry. -/
def tableEntry (s : State) (va : Nat) : Except LsFault (Nat × Nat × Nat × Nat) := do
  let a ← tableWord s va
  let b ← tableWord s (va + 8)
  let c ← tableWord s (va + 16)
  let d ← tableWord s (va + 24)
  return (a, b, c, d)

/-- A code-region entry that R215 calls malformed. -/
def regionBad (e : Nat × Nat × Nat × Nat) : Bool :=
  let lscnt := e.2.2.2 % 2 ^ 16
  e.2.2.2 / 2 ^ 16 != 0 || lscnt == 0 || 64 < lscnt || e.1 % 4 != 0 || e.2.2.1 % 32 != 0 || 2 ^ 56 < e.1 + e.2.1

/-- The first entry that contains an address, from entry `i` on: its LSTAB and LSCNT (R215). -/
def findRegion (s : State) (pc : Nat) : Nat → Nat → Except LsFault (Nat × Nat)
  | 0, _ => .error .operand
  | n + 1, i => do
    let va := ctxCrt s s.g.ctx + 32 * i
    let e ← tableEntry s va
    if regionBad e then .error (.fetch va)
    else if e.1 ≤ pc ∧ pc < e.1 + e.2.1 then .ok (e.2.2.1, e.2.2.2 % 2 ^ 16)
    else findRegion s pc n (i + 1)

/-- The live set of an entry's words, or the illegal-operand trap (R53). -/
def liveSetOf (w : Nat) (e : Nat × Nat × Nat × Nat) : Except LsFault LiveSet :=
  let v := e.1 + e.2.1 * 2 ^ 64
  let x := e.2.2.2
  if x / 2 ^ 9 ≠ 0 ∨ e.2.2.1 % 2 = 1 ∨ x % 2 = 1 ∨ 2 ^ w ≤ v then .error .operand
  else .ok { v := v, s := e.2.2.1, p := x % 2 ^ 8, b := x / 2 ^ 8 % 2 == 1 }

/-- The live set with index `n` of the region that contains an address (R215, R53). -/
def liveSetAt (s : State) (pc n : Nat) : Except LsFault LiveSet := do
  let r ← findRegion s pc (ctxCrCount s s.g.ctx) 0
  if r.2 ≤ n then .error .operand
  else
    let e ← tableEntry s (r.1 + 32 * n)
    liveSetOf s.g.w e

/-- The trap of a live set that cannot be used. -/
def liveSetTrap (f : LsFault) (s : State) : Result :=
  match f with
  | .operand => illegalOperand s
  | .fetch a => trapAt 0x04 0 0 (BitVec.ofNat 64 a) s

/-- Bit `k` of a mask. -/
def inMask (m k : Nat) : Bool := m / 2 ^ k % 2 == 1

/-- A live set with the destination registers of the instruction that names it (R221). -/
def LiveSet.withRegs (ls : LiveSet) (dst : List Nat) : LiveSet := { ls with v := dst.foldl (fun m d => m ||| 2 ^ d) ls.v }

/-- Size of the jacket of a live set (R53). -/
def LiveSet.size (ls : LiveSet) : Nat :=
  64 + 128 * popNat 128 ls.v + 8 * popNat 64 ls.s + 4 * popNat 8 ls.p + if ls.b then 32 else 0

/-- The numbers below `n` whose bits a mask holds, rising. -/
def maskBits (n m : Nat) : List Nat := (List.range n).filter (inMask m)

/-- The PC of a jacket (13 Table 13.6): the word of an instruction that is to execute again or has only its wait left, else a header. -/
def jacketPc (sp : Split) : DWord :=
  if sp.clause.stage == .issued || sp.clause.inside then sp.pc + BitVec.ofNat 64 (4 + 4 * sp.clause.pos) else sp.pc

/-- The jacket that a split is packed into: its header, and the live set that its body carries, `ls` its index (13 R222, R223). Its size
is that of the live set's entry (03 R53): neither the destination registers nor the operand tail are counted (15 R247). -/
def jacketOf (s : State) (g : Group) (live : LiveSet) (ls : Nat) (sp : Split) : Jacket :=
  { header := jacketHeader s g sp (jacketPc sp) g.sup ls, live := live }

/-- The body of a jacket with a live set (13 R223). -/
def Jacket.body (j : Jacket) (g : Group) (sp : Split) : List Byte :=
  jacketBody (maskBits 128 j.live.v) (maskBits 64 j.live.s) (maskBits 8 j.live.p) j.live.b g sp

/-- The split is packed into a jacket. -/
def packed (s : State) (g : Group) (live : LiveSet) (ls : Nat) (sp : Split) : Split := { sp with jacket := some (jacketOf s g live ls sp) }

/-- The live set of a group's whole-state jacket (13 R223). -/
def wholeOf (g : Group) : LiveSet := { v := 2 ^ g.w - 1, s := 2 ^ 64 - 2, p := 254, b := true }

/-- The live set of a whole-state jacket (13 R223). -/
def wholeSet : LiveSet := { v := 2 ^ 128 - 1, s := 2 ^ 64 - 2, p := 254, b := true }

/-- The lanes of a set lose every register outside a live set: what R221 leaves after a move. -/
def forgetLanes (ls : LiveSet) (lanes : LaneSet) (g : Group) : Group :=
  let gone (k : Nat) := lanes.getLsbD (k % 32) && !inMask ls.v (k / 32)
  { g with
    v := Cells.drop g.v gone
    poisonV := Cells.drop g.poisonV gone
    p := (List.range 8).foldl (fun p k =>
      if inMask ls.p k then p else Cells.set 0 p k (Cells.get 0 p k &&& ~~~lanes)) g.p
    bcur := if ls.b then g.bcur else Cells.drop g.bcur fun l => lanes.getLsbD l }

/-- A split keeps the scalars of a live set (R221). -/
def forgetScalars (ls : LiveSet) (sp : Split) : Split :=
  { sp with s := Cells.drop sp.s fun k => !inMask ls.s k, poisonS := Cells.drop sp.poisonS fun k => !inMask ls.s k,
            poisonP := Cells.drop sp.poisonP fun k => !inMask ls.p k }

end Sys2Proof.Machine
end

