-- ==== Sys2Proof/Machine/Split.lean ====
section
/-! DEFINITION. Divisions, seams, rejoin and the end of a split (spec/10 R163 to R173, spec/21 R317). -/

namespace Sys2Proof.Machine

/-! ### The split table -/

/-- The lowest-numbered free entry at or above the trap floor (10 R164, 21 R317). -/
def freeEntry (g : Group) : Option Nat :=
  firstFrom (fun i => !g.splits.any fun sp => sp.idx == i && sp.joins.isNone) (32 - g.floor) g.floor

/-- An access of one split belongs to another split too (10 R166). -/
def shareAccess (old new : Nat) (a : Access) : Access :=
  if a.owners.contains old then { a with owners := a.owners ++ [new] } else a

/-- A free entry takes some lanes, with copies of the focused split's state; `f` sets what differs (10 R164, R165, R166).
The spin detector's history of the new split starts afresh. -/
def addSplit (lanes : LaneSet) (f : Split → Split) (g : Group) : Option Group :=
  (freeEntry g).map fun i =>
    { g with
      sibs := g.sibs ++ [f { g.sp with idx := i, lanes := lanes, spin := 0, trace := [], prev := [], past := [], dirty := false,
                                       yielded := false }]
      accs := g.accs.map (shareAccess g.sp.idx i) }

/-- The work of a split that is still to be performed: its in-place accesses, and the packets and mirror copies of operations
charged to it, a commit record that it waits for among them (14 R232, 22 R345). -/
def chargedTo (g : Group) (sp : Split) (p : Packet) : Bool :=
  p.gid == some g.gid && (sp.crc == p.id + 2 || sp.ops.any fun o => o.id == p.id)
def pendingWork (s : State) (sp : Split) : List Nat :=
  ((s.g.accs.filter fun a => a.owners.contains sp.idx).map (·.id)
    ++ ((s.packets ++ s.mirrors.map (·.2)).filter (chargedTo s.g sp)).map (·.id))

/-- Every access of a split comes after some work (14 Table 14.2, the rows of divisions and rejoins). -/
def Split.follow (ids : List Nat) (sp : Split) : Split :=
  { sp with acquire := ids.foldl (fun l i => if l.contains (none, i) then l else l ++ [(none, i)]) sp.acquire }

/-- Before a division, what the focused split has done comes before every access of each resulting split (14 Table 14.2). -/
def orderDivision (s : State) : State := s.setSp (Split.follow (pendingWork s s.g.sp))

/-- The group takes a double trap because a handler's division finds no free entry (21 R317); the cause that the driver
is told has no statement in the spec (log 16). -/
def noEntryTrap (s : State) : State :=
  doubleTrap { code := Config.noEntryCause, pc := instrPc s, hdr := s.g.sp.pc, mask := s.active } s

/-! ### Seams (10 R169 to R172) -/

def Group.seam (g : Group) (k : Nat) : Seam := Cells.get {} g.seams k
def Group.setSeam (k : Nat) (x : Seam) (g : Group) : Group := { g with seams := Cells.set {} g.seams k x }

/-- The lowest lane of a set; 32 for none. -/
def lowestLane (m : LaneSet) : Nat := (firstFrom (fun l => m.getLsbD l) 32 0).getD 32

/-- A split of the running handler: the one that trapped, and those created in supervisor state (21 R317). The jacket of an absorbed
split is no split (10 R171). -/
def handlerSplit (g : Group) (sp : Split) : Bool :=
  match g.handler with
  | .running f => sp.joins.isNone && (sp.idx == f || g.floor ≤ sp.idx)
  | _ => false

/-- The state of a split that waited in place: it runs again, unless a handler of another split has the group (21 R314, R316). -/
def Split.resumed (g : Group) (sp : Split) : SplitStatus :=
  match g.handler with
  | .none => .runnable
  | _ => if handlerSplit g sp then .runnable else .suspended

/-- A split that waits at seam k and may join: in supervisor state only a split of the handler (21 R317). -/
def joinsAt (k : Nat) (g : Group) (sp : Split) : Bool :=
  sp.status == .atSeam && sp.seam == k && (!g.sup || handlerSplit g sp)

/-- Operations charged to any of the splits, once each, in issue order (10 R171). -/
def mergeOps (ops : List OutOp) (o : OutOp) : List OutOp :=
  match ops with
  | [] => [o]
  | x :: xs => if o.id = x.id then x :: xs else if o.id < x.id then o :: x :: xs else x :: mergeOps xs o

/-- The split of the lowest lane among some splits. -/
def lowestOf (m : Split) (js : List Split) : Split :=
  js.foldl (fun m x => if lowestLane x.lanes < lowestLane m.lanes then x else m) m

/-- RESGEN of a rejoined split (10 R171): with a jacket moved, 1 + the largest after the increments of the moves. -/
def joinedResgen (m : Split) (js : List Split) : Word :=
  if js.any fun x => x.home != m.home then
    js.foldl (fun (r : Word) x =>
      let y := if x.home != m.home then x.resgen + 1 else x.resgen
      if r < y then y else r) m.resgen + 1
  else m.resgen

/-- The open region of a rejoined split: kept when every split holds the same (22 R333). -/
def joinedRegion (m : Split) (js : List Split) : Option Region :=
  if js.all fun x => x.region == m.region then m.region else none

/-- One split formed from m and the splits it joins with; scalars, place and PC are those of m (10 R171). -/
def combine (m : Split) (idx : Nat) (js : List Split) : Split :=
  { m with
    idx := idx
    lanes := js.foldl (fun l x => l ||| x.lanes) m.lanes
    fpstat := js.foldl (fun f x => f ||| x.fpstat) m.fpstat
    resgen := joinedResgen m js
    ops := js.foldl (fun o x => x.ops.foldl mergeOps o) m.ops
    acquire := js.foldl (fun a x => a ++ x.acquire.filter fun y => !a.contains y) m.acquire
    fence := js.foldl (fun a x => a ++ x.fence.filter fun y => !a.contains y) m.fence
    strands := js.foldl (fun a x => a ++ x.strands.filter fun y => !a.contains y) m.strands
    safe := js.foldl (fun n x => max n x.safe) m.safe
    region := joinedRegion m js
    poisonP := js.foldl (fun p x => x.poisonP.foldl (fun p e => Cells.set false p e.1 e.2) p) m.poisonP
    stopped := m.stopped || js.any fun x => x.stopped
    err := js.foldl (fun e x => e.orElse fun _ => x.err) m.err
    seam := 0
    jacket := none
    status := .runnable }

/-- The jacket of an absorbed split at another home, on its way to the split of entry `idx` at home `home` (10 R171); it leaves
behind a pre-emption request too. One that a resumed group has still at its base home leaves from there (21 R326). -/
def jacketPiece (idx home : Nat) (x : Split) : Split :=
  let y := match x.sent with
    | some (src, _) => { x with home := home, sent := some (src, 0), cross := none }
    | none => x
  { y with idx := x.idx + 32, joins := some idx, status := .transit, move := some home, part := none, stopped := false }

/-- Accesses of absorbed splits belong to the rejoined split, and to a jacket that is still to leave. -/
def rejoinAccess (idx : Nat) (here away : List Nat) (a : Access) : Access :=
  if a.owners.any fun o => here.contains o || away.contains o then
    { a with owners := (a.owners.filter fun o => !here.contains o && !away.contains o && o != idx) ++ [idx]
                         ++ (a.owners.filter fun o => away.contains o).map (· + 32) }
  else a

/-- An item enters the admission queue of a home (12 R201). -/
def enqueue (home level : Nat) (i : Item) (s : State) : State := s.setHome home fun h => { h with adm := h.adm ++ [(level, i)] }

/-- A split without a place asks for admission at its home; until then it counts as in transit, and its jacket lies there (13 R227). One
that a pre-emption request has stopped asks for none (21 R324); one whose jacket a resumed group is still to bring there asks when it has
come (21 R326). -/
def requestAdmission (s : State) : State :=
  let t := s.setSp fun sp =>
    { sp with status := if sp.status == .suspended then .suspended else .transit
              jacket := sp.jacket.orElse fun _ => some (jacketOf s s.g sp.live sp.ls sp) }
  if s.g.sp.part.isSome || s.g.sp.stopped then s
  else if s.g.sp.sent.isSome then t.setSp fun sp => { sp with move := some sp.home }
  else enqueue s.g.sp.home (levelOf s.g s.g.sp) (.split s.g.gid s.g.sp.idx) t

/-- Splits `js` form one split with `m`, in entry `idx`, which takes the focus (10 R171); its accesses come after theirs (14 Table
14.2). -/
def joinSplits (m : Split) (idx : Nat) (js : List Split) (s : State) : State :=
  let out (x : Split) := x.idx == m.idx || js.any fun y => y.idx == x.idx
  let away := (js.filter fun x => x.home != m.home).map (·.idx)
  let here := m.idx :: (js.filter fun x => x.home == m.home).map (·.idx)
  let pieces := (js.filter fun x => x.home != m.home).map (jacketPiece idx m.home)
  let work := if js.isEmpty then [] else (m :: js).flatMap (pendingWork s)
  requestAdmission { s with g := { s.g with
    sp := (combine m idx js).follow work
    sibs := (s.g.splits.filter fun x => !out x) ++ pieces
    accs := s.g.accs.map (rejoinAccess idx here away) } }

/-- Rejoin(k): the splits waiting at k form one split; the record becomes zero (10 R171). -/
def rejoin (k : Nat) (s : State) : State :=
  match s.g.splits.filter (joinsAt k s.g) with
  | [] => { s with g := s.g.setSeam k {} }
  | x :: xs =>
    let m := lowestOf x xs
    let js := (x :: xs).filter fun y => y.idx != m.idx
    let idx := (x :: xs).foldl (fun n y => min n y.idx) m.idx
    joinSplits m idx js { s with g := s.g.setSeam k {} }

/-- A seam is complete: every lane of its cohort has arrived (10 R172). -/
def seamComplete (g : Group) (k : Nat) : Bool := (g.seam k).arrived == (g.seam k).cohort && (g.seam k).cohort != 0

/-- Every seam that is complete rejoins (10 R172). -/
def completeSeams (s : State) : State :=
  (List.range 16).foldl (fun s k => if seamComplete s.g k then rejoin k s else s) s

/-- Lanes that ended leave every seam record; a record without a cohort is zero (10 R172). -/
def dropSeamLanes (lanes : LaneSet) (r : Cells Seam) : Cells Seam :=
  (List.range 16).foldl (fun r k =>
    let x : Seam := Cells.get {} r k
    let c := x.cohort &&& ~~~lanes
    Cells.set {} r k { cohort := c, arrived := if c = 0 then 0 else x.arrived &&& ~~~lanes }) r

/-! ### The end of a split (05 R92, 10 R172, 21 R317) -/

/-- Some split of the handler is left. -/
def handlerLives (g : Group) : Bool := g.splits.any fun sp => handlerSplit g sp

/-- What the end of a split brings about for the others: the end of a handler whose last split ended, and the seams that
wait for it no longer. -/
def afterEnd (s : State) : State :=
  match s.g.handler with
  | .running _ => if handlerLives s.g then completeSeams s else completeSeams { s with g := endHandler s.g }
  | _ => completeSeams s

/-- The focused split ends with all its lanes; the group's last split leaves a group that waits to retire (05 R92). -/
def endSplit (s : State) : State :=
  let g := s.g
  let accs := g.accs.map fun a => { a with owners := a.owners.filter fun o => o != g.sp.idx }
  match g.sibs with
  | [] =>
    { s with g := { g with
        life := .ending, sup := false, handler := .none, seams := [], seamSv := [], accs := accs, path := none,
        sp := { g.sp with lanes := 0, status := .waiting, clause := {}, region := none } } }
  | x :: rest =>
    afterEnd { s with g := { g with
      sp := x, sibs := rest, accs := accs,
      seams := dropSeamLanes g.sp.lanes g.seams, seamSv := dropSeamLanes g.sp.lanes g.seamSv } }

end Sys2Proof.Machine
end

