-- ==== Sys2Proof/Machine/Scalar.lean ====
section
/-! DEFINITION. Class 0, scalar arithmetic, uniform branches, predicates and EM, special registers (spec/05 R82 to R97,
spec/11 R184). -/

namespace Sys2Proof.Machine

/-! ### Scalar arithmetic and logic (R83 to R86) -/

/-- A scalar result, and the end of the instruction (R82). -/
def scalarResult (d : SReg) (x : DWord) (s : State) : Result := .next (complete (writeS d x s))

/-- imm14 sign-extended (R83). -/
def imm64 (i : Imm14) : DWord := i.signExtend 64

/-- Bits [127:64] of the product (R83). -/
def mulHigh (sgn : Bool) (a b : DWord) : DWord :=
  if sgn then BitVec.ofInt 64 (a.toInt * b.toInt / 2 ^ 64) else BitVec.ofNat 64 (a.toNat * b.toNat / 2 ^ 64)

/-- a is below b, signed or unsigned (R83). -/
def below (sgn : Bool) {w : Nat} (a b : BitVec w) : Bool := if sgn then a.slt b else a.ult b

/-- The SCMP conditions (05 Table 5.3). -/
def scmpHolds (c : SCond) (a b : DWord) : Bool :=
  match c with
  | .eq => a == b
  | .ne => a != b
  | .lt => a.slt b
  | .le => a.sle b
  | .gt => b.slt a
  | .ge => b.sle a
  | .ltu => a.ult b
  | .leu => a.ule b
  | .gtu => b.ult a
  | .geu => b.ule a

/-- Shifts by a full 64-bit amount (R84). -/
def shl64 (a : DWord) (n : Nat) : DWord := if 64 ≤ n then 0 else a <<< n
def shr64 (a : DWord) (n : Nat) : DWord := if 64 ≤ n then 0 else a >>> n
def sra64 (a : DWord) (n : Nat) : DWord := a.sshiftRight (min n 63)

def execSnop (s : State) : Result := .next (complete s)
def execSmov (d a : SReg) (s : State) : Result := scalarResult d (readS s a) s
def execSmovi (d : SReg) (i : Imm14) (s : State) : Result := scalarResult d (imm64 i) s
def execSlit (d : SReg) (l : Word) (s : State) : Result := scalarResult d (l.signExtend 64) s
def execSlith (d a : SReg) (l : Word) (s : State) : Result :=
  scalarResult d (l.setWidth 64 <<< 32 ||| (readS s a &&& 0xFFFFFFFF)) s
def execSadd (d a b : SReg) (s : State) : Result := scalarResult d (readS s a + readS s b) s
def execSaddi (d a : SReg) (i : Imm14) (s : State) : Result := scalarResult d (readS s a + imm64 i) s
def execSsub (d a b : SReg) (s : State) : Result := scalarResult d (readS s a - readS s b) s
def execSmul (d a b : SReg) (s : State) : Result := scalarResult d (readS s a * readS s b) s
def execSmulh (sgn : Bool) (d a b : SReg) (s : State) : Result := scalarResult d (mulHigh sgn (readS s a) (readS s b)) s
def execSand (d a b : SReg) (s : State) : Result := scalarResult d (readS s a &&& readS s b) s
def execSandi (d a : SReg) (i : Imm14) (s : State) : Result := scalarResult d (readS s a &&& imm64 i) s
def execSor (d a b : SReg) (s : State) : Result := scalarResult d (readS s a ||| readS s b) s
def execSori (d a : SReg) (i : Imm14) (s : State) : Result := scalarResult d (readS s a ||| imm64 i) s
def execSxor (d a b : SReg) (s : State) : Result := scalarResult d (readS s a ^^^ readS s b) s
def execSxori (d a : SReg) (i : Imm14) (s : State) : Result := scalarResult d (readS s a ^^^ imm64 i) s
def execSshl (d a b : SReg) (s : State) : Result := scalarResult d (shl64 (readS s a) (readS s b).toNat) s
def execSshli (d a : SReg) (n : BitVec 6) (s : State) : Result := scalarResult d (shl64 (readS s a) n.toNat) s
def execSshr (d a b : SReg) (s : State) : Result := scalarResult d (shr64 (readS s a) (readS s b).toNat) s
def execSshri (d a : SReg) (n : BitVec 6) (s : State) : Result := scalarResult d (shr64 (readS s a) n.toNat) s
def execSsra (d a b : SReg) (s : State) : Result := scalarResult d (sra64 (readS s a) (readS s b).toNat) s
def execSsrai (d a : SReg) (n : BitVec 6) (s : State) : Result := scalarResult d (sra64 (readS s a) n.toNat) s
def execSmin (sgn : Bool) (d a b : SReg) (s : State) : Result :=
  scalarResult d (if below sgn (readS s b) (readS s a) then readS s b else readS s a) s
def execSmax (sgn : Bool) (d a b : SReg) (s : State) : Result :=
  scalarResult d (if below sgn (readS s a) (readS s b) then readS s b else readS s a) s
def execScmp (c : SCond) (d a b : SReg) (s : State) : Result :=
  scalarResult d (if scmpHolds c (readS s a) (readS s b) then 1 else 0) s
def execSpopc (d a : SReg) (s : State) : Result := scalarResult d (BitVec.ofNat 64 (popNat 64 (readS s a).toNat)) s
def execSclz (d a : SReg) (s : State) : Result := scalarResult d (BitVec.ofNat 64 (clzNat 64 (readS s a).toNat)) s
def execScmov (z : Bool) (d a b : SReg) (s : State) : Result :=
  if (readS s b == 0) = z then scalarResult d (readS s a) s else .next (complete s)

/-! ### Uniform branches (R31, R87 to R91) -/

/-- The target of a BR or BS branch (R31). -/
def branchTarget (off : Off) (s : State) : DWord := instrPc s + (off.signExtend 64 <<< 2)

/-- Bits [63:56] of an address are not all zero. -/
def high8 (a : DWord) : Bool := a &&& 0xFF00000000000000 != 0

/-- A branch that is taken, unless its target is out of range: the address fault, with the target in TRAPADDR (R31). -/
def takeBranch (target : DWord) (s : State) : Result :=
  if high8 target then trapAt 0x05 3 0 target s else .next (branchTo target s)

/-- A branch on a condition (R87, R88). -/
def branchIf (taken : Bool) (off : Off) (s : State) : Result :=
  if taken then takeBranch (branchTarget off s) s else .next (complete s)

/-- pn[l] XOR NEG in the lanes of a set (R87, R164). -/
def takenLanes (p : PReg) (neg : Bool) (m : LaneSet) (s : State) : LaneSet :=
  (if neg then ~~~readP s p else readP s p) &&& m

def execBra (p : PReg) (neg : Bool) (off : Off) (s : State) : Result :=
  branchIf ((p == 0 && !neg) || takenLanes p neg s.g.sp.lanes s != 0) off s
def execBrz (n : SReg) (off : Off) (s : State) : Result := branchIf (readS s n == 0) off s
def execBrnz (n : SReg) (off : Off) (s : State) : Result := branchIf (readS s n != 0) off s
def execCall (n : SReg) (off : Off) (s : State) : Result :=
  takeBranch (branchTarget off s) (if high8 (branchTarget off s) then s else writeS n (nextHeader s.g.sp) s)
def execJmpr (d a : SReg) (s : State) : Result :=
  if high8 (readS s a) then trapAt 0x05 3 0 (readS s a) s
  else .next (branchTo (readS s a) (writeS d (nextHeader s.g.sp) s))
def execLoop (n : SReg) (off : Off) (s : State) : Result :=
  if n = 0 then illegalInstruction s
  else
    let x := readS s n - 1
    if x = 0 then .next (complete (writeS n x s))
    else if high8 (branchTarget off s) then trapAt 0x05 3 0 (branchTarget off s) s
    else .next (branchTo (branchTarget off s) (writeS n x s))

/-! ### Ending and yielding (R92, R93) -/

/-- EXIT closes an open region, and then waits for MATRIX (22 R334, R335). -/
def execExit (s : State) : Result :=
  if s.g.sp.region.isSome && counter .matrix s.g.sp != 0 then .next s else .next (endSplit s)

/-- The next clause of the split stands back once for another group of the partition (R93, 12 R203). -/
def execYield (s : State) : Result := .next ((complete s).setSp fun sp => { sp with yielded := true })

/-! ### Predicates and EM (11 R184) -/

/-- Bit 2 x + y of a PLOG table. -/
def plogBits (tt : BitVec 4) (x y : LaneSet) : LaneSet :=
  (if tt.getLsbD 0 then ~~~x &&& ~~~y else 0) ||| (if tt.getLsbD 1 then ~~~x &&& y else 0)
    ||| (if tt.getLsbD 2 then x &&& ~~~y else 0) ||| (if tt.getLsbD 3 then x &&& y else 0)

def execPlog (d a b : PReg) (tt : BitVec 4) (s : State) : Result :=
  .next (complete (writeP d s.g.sp.lanes (plogBits tt (readP s a) (readP s b)) s))
def execPmovToPredicate (d : PReg) (a : SReg) (s : State) : Result :=
  .next (complete (writeP d s.g.sp.lanes ((readS s a).setWidth 32) s))
def execPmovToScalar (d : SReg) (a : PReg) (s : State) : Result :=
  scalarResult d ((readP s a &&& s.g.sp.lanes).setWidth 64) s
def execEmrd (d : SReg) (lanes : Bool) (s : State) : Result :=
  scalarResult d ((if lanes then s.g.sp.lanes else s.active).setWidth 64) s

/-- A write of EM in the split's lanes closes an open region (22 R334). -/
def emResult (x : LaneSet) (s : State) : Result := .next (complete (writeEM s.g.sp.lanes x s))
def execEmwr (a : SReg) (s : State) : Result := emResult ((readS s a).setWidth 32) s
def execEmwrPredicate (f : EmOp) (a : PReg) (s : State) : Result :=
  emResult (match f with
    | .set => readP s a
    | .and => s.g.em &&& readP s a
    | .andn => s.g.em &&& ~~~readP s a) s
def execPcnt (d : SReg) (a : PReg) (lanes : Bool) (s : State) : Result :=
  scalarResult d (BitVec.ofNat 64 (popNat 32 (readP s a &&& (if lanes then s.g.sp.lanes else s.active)).toNat)) s

/-- The highest lane of a set; 32 for none. -/
def highestLane (m : LaneSet) : Nat := ((lanesOf m).getLast?).getD 32

def execPfirst (d : SReg) (a : PReg) (last : Bool) (s : State) : Result :=
  let m := readP s a &&& s.active
  scalarResult d (BitVec.ofNat 64 (if last then highestLane m else lowestLane m)) s

/-! ### Special registers (R94 to R97) -/

/-- The counter of the die on which a partition sits (01 R12). -/
def clockOf (s : State) (part : Nat) : DWord :=
  let h := partHome part
  ((Cells.get {} (s.pkg (homePkg h)).dies (homeDie h) : Die)).clock

/-- The value that SREAD returns (05 Table 5.4). -/
def specialValue (s : State) : SpecialReg → DWord
  | .laneid => BitVec.ofNat 64 (lowestLane s.active)
  | .grpid => s.g.gid.setWidth 64
  | .teamid => s.g.teamId.setWidth 64
  | .splitid => BitVec.ofNat 64 s.g.sp.idx
  | .homeid => BitVec.ofNat 64 s.g.sp.home
  | .basehome => BitVec.ofNat 64 s.g.baseHome
  | .coreslot => BitVec.ofNat 64 (s.g.sp.part.getD 0 % 4096)
  | .resgen => s.g.sp.resgen.setWidth 64
  | .clock => clockOf s (s.g.sp.part.getD 0)
  | .fpstat => s.g.sp.fpstat.setWidth 64
  | .recidx => s.g.recIdx.setWidth 64
  | .grpinrec => s.g.grpInRec.setWidth 64

def execSread (d : SReg) (n : SpecialReg) (s : State) : Result := scalarResult d (specialValue s n) s

/-- FPSTAT is the only register of Table 5.4 that may be written (R94, R97). -/
def execSwrite (n : SpecialReg) (a : SReg) (s : State) : Result :=
  match n with
  | .fpstat => .next (complete (writeFpstat ((readS s a).setWidth 32) s))
  | _ => illegalInstruction s

end Sys2Proof.Machine
end

