-- ==== Sys2Proof/Machine/Vector.lean ====
section
/-! DEFINITION. Class 1, vector arithmetic: integers, floating point, packed and dot products, compares, selection,
conversions (spec/06 R98 to R118). -/

namespace Sys2Proof.Machine

/-! ### Forms (R98, R99) -/

/-- A result and the flags that it sets, of a 32-bit lane. -/
abbrev Lane32 := Word × Word
/-- A result and the flags that it sets, of a 64-bit lane. -/
abbrev Lane64 := DWord × Word

/-- A 32-bit instruction ends: register, latch, flags of the active lanes (R98). -/
def finish32 (nwb : Bool) (d : VReg) (r : Nat → Lane32) (s : State) : Result :=
  .next (complete (raiseFlags (flagsOf s.active fun l => (r l).2) (result32 nwb d (fun l => (r l).1) s)))

/-- A 64-bit instruction ends (R98). -/
def finish64 (nwb : Bool) (d : VReg) (r : Nat → Lane64) (s : State) : Result :=
  .next (complete (raiseFlags (flagsOf s.active fun l => (r l).2) (result64 nwb d (fun l => (r l).1) s)))

/-- A VR instruction of three 32-bit operands a, b and the old d. -/
def vr32 (f : VR) (op : Word → Word → Word → Lane32) (s : State) : Result :=
  if srcOk s false f.a && srcOk s false f.b && regOk s false f.d then
    finish32 f.nwb f.d (fun l => op (src32 s f.a l) (src32 s f.b l) (s.g.lane f.d.toNat l)) s
  else illegalOperand s

/-- A VR instruction of one 32-bit operand. -/
def vr1 (f : VR1) (op : Word → Lane32) (s : State) : Result :=
  if srcOk s false f.a && regOk s false f.d then finish32 f.nwb f.d (fun l => op (src32 s f.a l)) s
  else illegalOperand s

/-- A packed 16-bit instruction of a format (R34, R109). -/
def vr16 (fmt : FFmt) (f : VR) (op : Word → Word → Word → Lane32) (s : State) : Result :=
  if srcOk s false f.a && srcOk s false f.b && regOk s false f.d then
    finish32 f.nwb f.d (fun l => op (src16 s fmt f.a l) (src16 s fmt f.b l) (s.g.lane f.d.toNat l)) s
  else illegalOperand s

/-- A VR instruction of 64-bit operands; `rd` reads a source of the instruction's type (R34, R99). -/
def vr64 (rd : State → Src → Nat → DWord) (f : VR) (op : DWord → DWord → DWord → Lane64) (s : State) : Result :=
  if srcOk s true f.a && srcOk s true f.b && regOk s true f.d then
    finish64 f.nwb f.d (fun l => op (rd s f.a l) (rd s f.b l) (s.g.lane64 f.d.toNat l)) s
  else illegalOperand s

/-- A result without flags. -/
def plain {α : Type} (x : α) : α × Word := (x, 0)

/-! ### Integer operations (R102 to R106) -/

/-- Bits [63:32] of the product (R102). -/
def mulHigh32 (sgn : Bool) (a b : Word) : Word :=
  if sgn then BitVec.ofInt 32 (a.toInt * b.toInt / 2 ^ 32) else BitVec.ofNat 32 (a.toNat * b.toNat / 2 ^ 32)

/-- Shifts by a full 32-bit amount (R103). -/
def shl32 (a b : Word) : Word := if 32 ≤ b.toNat then 0 else a <<< b.toNat
def shr32 (a b : Word) : Word := if 32 ≤ b.toNat then 0 else a >>> b.toNat
def sra32 (a b : Word) : Word := a.sshiftRight (min b.toNat 31)

/-- An exact integer clamped to 32 bits; SAT when it was clamped (R104). -/
def clamp32 (sgn : Bool) (x : Int) : Lane32 :=
  let lo : Int := if sgn then -2147483648 else 0
  let hi : Int := if sgn then 2147483647 else 4294967295
  if x < lo then (BitVec.ofInt 32 lo, flagSAT) else if hi < x then (BitVec.ofInt 32 hi, flagSAT) else (BitVec.ofInt 32 x, 0)

/-- The exact integer that a lane holds. -/
def intOf (sgn : Bool) (a : Word) : Int := if sgn then a.toInt else a.toNat

/-- |a| (R104). -/
def abs32 (sat : Bool) (a : Word) : Lane32 :=
  if a = 0x80000000 then (if sat then (0x7FFFFFFF, flagSAT) else (0x80000000, 0))
  else (if a.toInt < 0 then -a else a, 0)

def execVmov (f : VR1) (s : State) : Result := vr1 f plain s
def execVadd (f : VR) (s : State) : Result := vr32 f (fun a b _ => plain (a + b)) s
def execVsub (f : VR) (s : State) : Result := vr32 f (fun a b _ => plain (a - b)) s
def execVmul (f : VR) (s : State) : Result := vr32 f (fun a b _ => plain (a * b)) s
def execVmulh (sgn : Bool) (f : VR) (s : State) : Result := vr32 f (fun a b _ => plain (mulHigh32 sgn a b)) s
def execVmad (f : VR) (s : State) : Result := vr32 f (fun a b d => plain (a * b + d)) s
def execVand (f : VR) (s : State) : Result := vr32 f (fun a b _ => plain (a &&& b)) s
def execVor (f : VR) (s : State) : Result := vr32 f (fun a b _ => plain (a ||| b)) s
def execVxor (f : VR) (s : State) : Result := vr32 f (fun a b _ => plain (a ^^^ b)) s
def execVandn (f : VR) (s : State) : Result := vr32 f (fun a b _ => plain (a &&& ~~~b)) s
def execVshl (f : VR) (s : State) : Result := vr32 f (fun a b _ => plain (shl32 a b)) s
def execVshr (f : VR) (s : State) : Result := vr32 f (fun a b _ => plain (shr32 a b)) s
def execVsra (f : VR) (s : State) : Result := vr32 f (fun a b _ => plain (sra32 a b)) s
def execVmin (sgn : Bool) (f : VR) (s : State) : Result := vr32 f (fun a b _ => plain (if below sgn b a then b else a)) s
def execVmax (sgn : Bool) (f : VR) (s : State) : Result := vr32 f (fun a b _ => plain (if below sgn a b then b else a)) s
def execVabs (sat : Bool) (f : VR1) (s : State) : Result := vr1 f (abs32 sat) s
def execVadds (sgn : Bool) (f : VR) (s : State) : Result := vr32 f (fun a b _ => clamp32 sgn (intOf sgn a + intOf sgn b)) s
def execVsubs (sgn : Bool) (f : VR) (s : State) : Result := vr32 f (fun a b _ => clamp32 sgn (intOf sgn a - intOf sgn b)) s
def execVadd64 (f : VR) (s : State) : Result := vr64 src64 f (fun a b _ => plain (a + b)) s
def execVsub64 (f : VR) (s : State) : Result := vr64 src64 f (fun a b _ => plain (a - b)) s

/-- VMULW: 32-bit sources, a 64-bit destination (R99, R105). -/
def execVmulw (sgn : Bool) (f : VR) (s : State) : Result :=
  if srcOk s false f.a && srcOk s false f.b && regOk s true f.d then
    finish64 f.nwb f.d
      (fun l => plain (BitVec.ofInt 64 (intOf sgn (src32 s f.a l) * intOf sgn (src32 s f.b l)))) s
  else illegalOperand s

/-- VSEL by p4 to p7 (R106). -/
def execVsel (m : BitVec 2) (f : VR) (s : State) : Result :=
  if srcOk s false f.a && srcOk s false f.b && regOk s false f.d then
    let p := readP s (m.setWidth 3 + 4)
    finish32 f.nwb f.d (fun l => plain (if p.getLsbD l then src32 s f.a l else src32 s f.b l)) s
  else illegalOperand s

/-! ### Floating point (R107, R108) -/

/-- A numbered pattern as a 32-bit or a 64-bit result. -/
def lane32 (r : Nat × Word) : Lane32 := (BitVec.ofNat 32 r.1, r.2)
def lane64 (r : Nat × Word) : Lane64 := (BitVec.ofNat 64 r.1, r.2)

def execFadd (rm : RM) (f : VR) (s : State) : Result := vr32 f (fun a b _ => lane32 (fp32.add rm a.toNat b.toNat)) s
def execFsub (rm : RM) (f : VR) (s : State) : Result := vr32 f (fun a b _ => lane32 (fp32.sub rm a.toNat b.toNat)) s
def execFmul (rm : RM) (f : VR) (s : State) : Result := vr32 f (fun a b _ => lane32 (fp32.mul rm a.toNat b.toNat)) s
def execFfma (rm : RM) (f : VR) (s : State) : Result :=
  vr32 f (fun a b d => lane32 (fp32.fma rm false a.toNat b.toNat d.toNat)) s
def execFfms (rm : RM) (f : VR) (s : State) : Result :=
  vr32 f (fun a b d => lane32 (fp32.fma rm true a.toNat b.toNat d.toNat)) s
def execFmin (f : VR) (s : State) : Result := vr32 f (fun a b _ => lane32 (fp32.minmax false a.toNat b.toNat)) s
def execFmax (f : VR) (s : State) : Result := vr32 f (fun a b _ => lane32 (fp32.minmax true a.toNat b.toNat)) s
def execDadd (rm : RM) (f : VR) (s : State) : Result := vr64 srcF64 f (fun a b _ => lane64 (fp64.add rm a.toNat b.toNat)) s
def execDsub (rm : RM) (f : VR) (s : State) : Result := vr64 srcF64 f (fun a b _ => lane64 (fp64.sub rm a.toNat b.toNat)) s
def execDmul (rm : RM) (f : VR) (s : State) : Result := vr64 srcF64 f (fun a b _ => lane64 (fp64.mul rm a.toNat b.toNat)) s
def execDfma (rm : RM) (f : VR) (s : State) : Result :=
  vr64 srcF64 f (fun a b d => lane64 (fp64.fma rm false a.toNat b.toNat d.toNat)) s
def execDmin (f : VR) (s : State) : Result := vr64 srcF64 f (fun a b _ => lane64 (fp64.minmax false a.toNat b.toNat)) s
def execDmax (f : VR) (s : State) : Result := vr64 srcF64 f (fun a b _ => lane64 (fp64.minmax true a.toNat b.toNat)) s

/-! ### Packed 16-bit and dot products (R109 to R111) -/

/-- Element e of a pair. -/
def half (e : Nat) (x : Word) : Nat := x.toNat / 2 ^ (16 * e) % 2 ^ 16

/-- Both elements of a pair, with the flags of both (R109). -/
def pair16 (op : Nat → Nat × Word) : Lane32 :=
  let x := op 0
  let y := op 1
  (BitVec.ofNat 32 (x.1 + y.1 * 2 ^ 16), x.2 ||| y.2)

def execHadd2 (rm : RM) (f : VR) (s : State) : Result :=
  vr16 fp16 f (fun a b _ => pair16 fun e => fp16.add rm (half e a) (half e b)) s
def execHmul2 (rm : RM) (f : VR) (s : State) : Result :=
  vr16 fp16 f (fun a b _ => pair16 fun e => fp16.mul rm (half e a) (half e b)) s
def execHfma2 (rm : RM) (f : VR) (s : State) : Result :=
  vr16 fp16 f (fun a b d => pair16 fun e => fp16.fma rm false (half e a) (half e b) (half e d)) s
def execBfma2 (rm : RM) (f : VR) (s : State) : Result :=
  vr16 bf16 f (fun a b d => pair16 fun e => bf16.fma rm false (half e a) (half e b) (half e d)) s

/-- Byte k as an integer (R110). -/
def byteInt (sgn : Bool) (k : Nat) (x : Word) : Int :=
  if sgn then signedOf 8 (x.toNat / 2 ^ (8 * k)) else (x.toNat / 2 ^ (8 * k) % 256 : Nat)

/-- The sum of four byte products and d (R110). -/
def dot4 (sgn : Bool) (a b d : Word) : Word :=
  BitVec.ofInt 32 (d.toInt + byteInt sgn 0 a * byteInt sgn 0 b + byteInt sgn 1 a * byteInt sgn 1 b
    + byteInt sgn 2 a * byteInt sgn 2 b + byteInt sgn 3 a * byteInt sgn 3 b)

def execDot4 (sgn : Bool) (f : VR) (s : State) : Result := vr32 f (fun a b d => plain (dot4 sgn a b d)) s
def execDot2h (rm : RM) (f : VR) (s : State) : Result :=
  vr16 fp16 f (fun a b d => lane32 (dot2h rm a.toNat b.toNat d.toNat)) s

/-! ### Compares (R112, R113) -/

/-- A compare ends: the predicate bits of the active lanes, and the flags (R112). -/
def finishCmp (p : PReg) (r : Nat → Bool × Word) (s : State) : Result :=
  .next (complete (raiseFlags (flagsOf s.active fun l => (r l).2) (writeP p s.active (laneSetWhere fun l => (r l).1) s)))

/-- An integer condition; .ord and .uno have none (06 Table 6.6). -/
def cmpInt (sgn : Bool) (c : Cond) (a b : Word) : Option Bool :=
  match c with
  | .eq => some (a == b)
  | .ne => some (a != b)
  | .lt => some (below sgn a b)
  | .le => some (!below sgn b a)
  | .gt => some (below sgn b a)
  | .ge => some (!below sgn a b)
  | .ord | .uno => none

/-- VCMP and VCMPU (R112). -/
def compareInt (sgn : Bool) (c : Cond) (f : VC) (s : State) : Result :=
  if (cmpInt sgn c 0 0).isNone then illegalInstruction s
  else if srcOk s false f.a && srcOk s false f.b then
    finishCmp f.p (fun l => ((cmpInt sgn c (src32 s f.a l) (src32 s f.b l)).getD false, 0)) s
  else illegalOperand s

def execVcmp (c : Cond) (f : VC) (s : State) : Result := compareInt true c f s
def execVcmpu (c : Cond) (f : VC) (s : State) : Result := compareInt false c f s
def execFcmp (c : Cond) (f : VC) (s : State) : Result :=
  if srcOk s false f.a && srcOk s false f.b then
    finishCmp f.p (fun l => fp32.cmp c (src32 s f.a l).toNat (src32 s f.b l).toNat) s
  else illegalOperand s
def execDcmp (c : Cond) (f : VC) (s : State) : Result :=
  if srcOk s true f.a && srcOk s true f.b then
    finishCmp f.p (fun l => fp64.cmp c (srcF64 s f.a l).toNat (srcF64 s f.b l).toNat) s
  else illegalOperand s

/-! ### Conversions (R114 to R118) -/

/-- The pattern of a conversion source: a pair for the 64-bit types, FP64 widening for FP64 (R34, R99, R114). -/
def cvtSource (s : State) (t : CvtType) (a : Src) (l : Nat) : Nat :=
  match t with
  | .fp64 => (srcF64 s a l).toNat
  | .int64 | .uint64 => (src64 s a l).toNat
  | _ => (src32 s a l).toNat

/-- A conversion of every active lane (06 Table 6.8). -/
def convertLanes (rm : RM) (sat : Bool) (f : VR1) (dst src : CvtType) (s : State) : Result :=
  if srcOk s (cvtIs64 src) f.a && regOk s (cvtIs64 dst) f.d then
    let r (l : Nat) := convert src dst rm sat (cvtSource s src f.a l)
    if cvtIs64 dst then finish64 f.nwb f.d (fun l => lane64 (r l)) s else finish32 f.nwb f.d (fun l => lane32 (r l)) s
  else illegalOperand s

/-- Two types that no conversion joins (R115, R116). -/
def noConversion (dst src : CvtType) : Bool := dst == src || (dst.isInt && src.isInt)

def execCvt (rm : RM) (f : VR1) (dst src : CvtType) (s : State) : Result :=
  if noConversion dst src then illegalInstruction s else convertLanes rm false f dst src s

/-- The format slot that an instruction names (04 R71). -/
def slotAt (s : State) (k : BitVec 3) : Slot := slotOf (Cells.get 0 s.g.fs k.toNat)

/-- CVTF: conversion between a partner type and a slot's format (R116). -/
def execCvtf (rm : RM) (f : VR1) (partner : CvtType) (fromSlot : Bool) (fs : BitVec 3) (s : State) : Result :=
  let x := slotAt s fs
  match cvtOfEfmt x.efmt with
  | none => illegalInstruction s
  | some t =>
    let dst := if fromSlot then partner else t
    let src := if fromSlot then t else partner
    if !x.generalOk || noConversion dst src then illegalInstruction s else convertLanes rm x.csat f dst src s

/-- PACK: two BF16 elements (R117). -/
def execPack (rm : RM) (f : VR) (s : State) : Result :=
  vr32 f (fun a b _ => pair16 fun e => packElement rm (if e = 0 then a.toNat else b.toNat)) s

/-- UNPK: one BF16 element, widened (R118). -/
def execUnpk (f : VR) (s : State) : Result :=
  vr32 f (fun a b _ => plain (if b.getLsbD 0 then a &&& 0xFFFF0000 else a <<< 16)) s

end Sys2Proof.Machine
end

