-- ==== Sys2Proof/Machine/Bits.lean ====
section
/-! DEFINITION. Bit-field instructions and the bit-stream reader (spec/07 R124 to R130). -/

namespace Sys2Proof.Machine

/-! ### Bit fields (R124 to R126) -/

/-- Bit i of the result is bit 31 - i. -/
def reverse32 (a : Word) : Word := laneSetWhere fun i => a.getLsbD (31 - i)

/-- Width of a field descriptor: 0 for an empty field (R125). -/
def fieldWidth (b : Word) : Nat :=
  let o := b.toNat % 256
  let w := b.toNat / 256 % 256
  if 32 ≤ o ∨ w = 0 then 0 else min w (32 - o)

/-- The field of a, extended (R125). -/
def bfe (sgn : Bool) (a b : Word) : Word :=
  let n := fieldWidth b
  let f := a.toNat / 2 ^ (b.toNat % 256 % 32) % 2 ^ n
  if sgn ∧ 0 < n then BitVec.ofInt 32 (signedOf n f) else BitVec.ofNat 32 f

/-- d with the field of a inserted (R125). -/
def bfi (a b d : Word) : Word :=
  let o := b.toNat % 256 % 32
  let m := BitVec.ofNat 32 ((2 ^ fieldWidth b - 1) * 2 ^ o)
  (d &&& ~~~m) ||| (a <<< o &&& m)

/-- Bits [n+31:n] of a above d (R126). -/
def funnel (a b d : Word) : Word := BitVec.ofNat 32 ((a.toNat * 2 ^ 32 + d.toNat) / 2 ^ (b.toNat % 32))

def execPopc (f : VR1) (s : State) : Result := vr1 f (fun a => plain (BitVec.ofNat 32 (popNat 32 a.toNat))) s
def execClz (f : VR1) (s : State) : Result := vr1 f (fun a => plain (BitVec.ofNat 32 (clzNat 32 a.toNat))) s
def execBrev (f : VR1) (s : State) : Result := vr1 f (fun a => plain (reverse32 a)) s
def execBfe (sgn : Bool) (f : VR) (s : State) : Result := vr32 f (fun a b _ => plain (bfe sgn a b)) s
def execBfi (f : VR) (s : State) : Result := vr32 f (fun a b d => plain (bfi a b d)) s
def execFunsh (f : VR) (s : State) : Result := vr32 f (fun a b d => plain (funnel a b d)) s

/-! ### The bit-stream reader (R127 to R130) -/

/-- BCUR of a lane, its CUR and its OVR (07 Table 7.4). -/
def bcurOf (s : State) (l : Nat) : Byte := Cells.get 0 s.g.bcur l
def curOf (s : State) (l : Nat) : Nat := (bcurOf s l).toNat % 128
def ovrOf (s : State) (l : Nat) : Bool := 128 ≤ (bcurOf s l).toNat

/-- A BCUR byte from its fields. -/
def bcurByte (ovr : Bool) (cur : Nat) : Byte := BitVec.ofNat 8 ((if ovr then 128 else 0) + cur)

/-- The active lanes receive BCUR values; the others keep theirs (R119). -/
def writeBcur (r : Nat → Byte) (s : State) : State :=
  { s with g := { s.g with bcur := (lanesOf s.active).foldl (fun t l => Cells.set 0 t l (r l)) s.g.bcur } }

/-- The window register of BSRD, BSPEEK and BSFILL: the even register of a pair (R128). -/
def windowOk (s : State) : Src → Bool
  | .v n => regOk s true n
  | _ => false

/-- Width of a read: min(b[5:0], 32) (R128). -/
def readWidth (s : State) (b : Src) (l : Nat) : Nat := min ((src32 s b l).toNat % 64) 32

/-- Bits [c+n-1:c] of the window (R129). -/
def windowBits (s : State) (f : VR) (l : Nat) : Word :=
  BitVec.ofNat 32 ((src64 s f.a l).toNat / 2 ^ curOf s l % 2 ^ readWidth s f.b l)

/-- BSINIT's BCUR (R128). -/
def initBcur (a : Word) : Byte :=
  let c := a.toNat % 128
  if 64 < c then bcurByte true 64 else bcurByte (a.getLsbD 7) c

/-- BSRD's BCUR after the read (R129). -/
def advanceBcur (s : State) (f : VR) (l : Nat) : Byte :=
  let e := curOf s l + readWidth s f.b l
  if 64 < e then bcurByte true 64 else bcurByte (ovrOf s l) e

def execBsinit (a : Src) (s : State) : Result :=
  if srcOk s false a then .next (complete (writeBcur (fun l => initBcur (src32 s a l)) s)) else illegalOperand s

def execBsrd (f : VR) (s : State) : Result :=
  if windowOk s f.a && srcOk s false f.b && regOk s false f.d then
    .next (complete (writeBcur (advanceBcur s f) (result32 f.nwb f.d (windowBits s f) s)))
  else illegalOperand s

def execBspeek (f : VR) (s : State) : Result :=
  if windowOk s f.a && srcOk s false f.b && regOk s false f.d then
    finish32 f.nwb f.d
      (fun l => plain (if readWidth s f.b l = 0 then (bcurOf s l).setWidth 32 else windowBits s f l)) s
  else illegalOperand s

def execBsfill (f : VR) (s : State) : Result :=
  if windowOk s f.a && srcOk s false f.b && regOk s true f.d then
    let fill (l : Nat) : DWord :=
      if 32 ≤ curOf s l then src64 s f.a l >>> 32 ||| (src32 s f.b l).setWidth 64 <<< 32 else src64 s f.a l
    let next (l : Nat) : Byte := if 32 ≤ curOf s l then bcurByte (ovrOf s l) (curOf s l - 32) else bcurOf s l
    .next (complete (writeBcur next (result64 f.nwb f.d fill s)))
  else illegalOperand s

end Sys2Proof.Machine
end

