-- ==== Sys2Proof/Machine/Device.lean ====
section
/-! DEFINITION. The device registers of tier 3 (spec/25 R367, R387, spec/26 R379, R384), and reads and writes of any
physical address by a home engine. -/

namespace Sys2Proof.Machine

/-- Steps that a step sets off come next (log 1). -/
def State.push (ts : List Turn) (s : State) : State := { s with agenda := ts ++ s.agenda }

/-! ### Reading (R367, R379, R384, R387) -/

/-- The word at 0x1_1018: STATE and STATUS; GO reads 0 (25 Table 25.1). -/
def moveWord (h : Home) : Nat := h.mvState % 4 * 2 ^ 8 + h.mvStatus % 16

/-- The power and temperature word (R384). -/
def powerWord (h : Home) : Nat := flag h.hot 31 + h.droops.toNat * 2 ^ 16 + h.stemp.toNat

/-- A diagnostic group still runs on a core: no other agent reads its repair state until it retires (08 R138). -/
def underTest (s : State) (c : Nat) : Bool :=
  s.groups.any fun g => g.diag && (g.life == .live || g.life == .ending) && diagCore g == c

/-- The port word of 0xC_1604, STATUS and SYND of a core, and 4 zero bytes (R387). -/
def coreWords (c : Core) : Nat := (portWord c 0xC1604).toNat + c.status.toNat * 2 ^ 32 + c.synd.toNat * 2 ^ 64

/-- The 8-byte register at an aligned tier-3 offset of a home (R367, R379, R384, R387); 0 where no register lies, and for the repair state
of a core under test (08 R138; DESIGN CHOICE, log 110). -/
def deviceWord (s : State) (home o : Nat) : Nat :=
  if o < 0x10000 then (if home % 16 = 0 then (s.pkg (homePkg home)).page.readN o 8 else 0)
  else if o = 0x11000 then partnerOf s home % 256
  else if o = 0x11008 then (s.home home).mvPte.toNat
  else if o = 0x11010 then (s.home home).mvDest.toNat
  else if o = 0x11018 then moveWord (s.home home)
  else if o = 0x12000 then powerWord (s.home home)
  else if 0x20000 ≤ o ∧ o < 0x20000 + 0x200 * Config.coresPerHome then
    if underTest s (home * 64 + (o - 0x20000) / 0x200) then 0 else (Cells.get 0 (s.core (home * 64 + (o - 0x20000) / 0x200)).repair ((o - 0x20000) % 0x200 / 8)).toNat
  else if 0x25000 ≤ o ∧ o < 0x25000 + 16 * Config.coresPerHome then
    if underTest s (home * 64 + (o - 0x25000) / 16) then 0 else coreWords (s.core (home * 64 + (o - 0x25000) / 16)) / 2 ^ (64 * ((o - 0x25000) % 16 / 8)) % 2 ^ 64
  else 0

/-- A byte of a tier-3 address. -/
def deviceByte (s : State) (pa : Nat) : Byte :=
  BitVec.ofNat 8 (deviceWord s (homeOfPa pa) (paOffset pa / 8 * 8) / 2 ^ (8 * (paOffset pa % 8)))

/-- The n bytes at a physical address, as a number: device registers in tier 3, memory elsewhere (13 R207). -/
def readPa (s : State) (pa n : Nat) : Nat :=
  if paTier pa = 3 then leNat ((List.range n).map fun i => deviceByte s (pa + i)) else s.readN pa n

/-! ### Writing -/

/-- The aligned 8-byte offsets that some bytes touch. -/
def wordsTouched (bs : List (Nat × Byte)) : List Nat :=
  bs.foldl (fun l b => if l.contains (b.1 / 8 * 8) then l else l ++ [b.1 / 8 * 8]) []

/-- A register's value with some of its bytes replaced. -/
def mergeWord (old pa : Nat) (bs : List (Nat × Byte)) : DWord :=
  BitVec.ofNat 64 (bs.foldl (fun (m : Bytes) b =>
    if b.1 / 8 * 8 = pa then Bytes.writeN m (b.1 % 8) 1 b.2.toNat else m) (Bytes.writeN [] 0 8 old) |>.readN 0 8)

/-! ### The pages that are mapped -/

/-- The leaves of the tables below a table, over the index shifts that are left, each with its page size (13 R209, R210). -/
def leavesFrom (s : State) : List Nat → Nat → List (Nat × Nat)
  | [], _ => []
  | sh :: rest, t =>
    if !memAddressOk s t then []
    else (List.range 1024).flatMap fun i =>
      let e := s.mem.readN (t + 8 * i) 8
      if !pteV e then []
      else if pteLeaf e then (if (sh == 26 || sh == 16) && leafFieldsOk e sh then [(e, 2 ^ sh)] else [])
      else if tableFieldsOk e then leavesFrom s rest (bits e 55 13 * 2 ^ 13) else []

/-- The contexts in use: of registered queues, bound queue pairs, cards and groups. -/
def contexts (s : State) : List Nat :=
  (s.homes.flatMap (fun h => h.2.queues.map (·.ctx)) ++ s.cards.map (·.ctx) ++ s.groups.map (·.ctx)
    ++ s.pkgs.flatMap (fun p => p.2.qps.filterMap (·.ctx))).foldl (fun l c => if c = 0 || l.contains c then l else l ++ [c]) []

/-- The leaves of every context in use. -/
def mappedLeaves (s : State) : List (Nat × Nat) :=
  (contexts s).flatMap fun c =>
    if ctxRoot s c % 2 ^ 13 = 0 ∧ ctxRoot s c < 2 ^ 56 then leavesFrom s [46, 36, 26, 16] (ctxRoot s c) else []

/-- The page that a leaf names. -/
def leafPage (e : Nat) : Nat := bits e 55 16 * 2 ^ 16

/-- Some MIRROR page is homed at a home. -/
def mirrorHomedAt (s : State) (home : Nat) : Bool :=
  (mappedLeaves s).any fun l => pteMirror l.1 && homeOfPa (leafPage l.1) == home

/-- A value that PARTNER of a home takes (25 Table 25.1). -/
def partnerOk (s : State) (home : Nat) (value : DWord) : Bool :=
  let p := value.toNat % 256
  p % 16 < Config.homesPerPackage && !(p / 16 == homePkg home && homeDie p == homeDie home) && !mirrorHomedAt s home

/-- A value written to PARTNER becomes the mirror home, or is discarded (R367). -/
def setPartner (home : Nat) (value : DWord) (s : State) : State :=
  if partnerOk s home value then s.setHome home fun h => { h with partner := some (value.setWidth 8) } else s

/-- A value written to the 8-byte register at an aligned tier-3 offset of a home: PARTNER, MVPTE and MVDEST take it, GO is noted and its step
comes next (R371, log 1), and every other offset discards it (00 R4, R367, R387, log 22). -/
def writeRegister (home o : Nat) (x : DWord) (s : State) : State :=
  if o = 0x11000 then setPartner home x s
  else if o = 0x11008 then s.setHome home fun h => { h with mvPte := x }
  else if o = 0x11010 then s.setHome home fun h => { h with mvDest := x }
  else if o = 0x11018 then
    (if x.getLsbD 31 then (s.setHome home fun h => { h with mvGo := true }).push [.pageMoveStart home] else s)
  else s

/-- PARTNER_WRITE (R367): the value becomes the mirror home, or is discarded. -/
def execPartnerWrite (home : Nat) (value : DWord) (s : State) : Result := .next (setPartner home value s)

/-- REGISTER_WRITE: a register with no behaviour of its own takes the value; every other offset discards it (00 R4, R367,
R387, log 22). -/
def execRegisterWrite (home : Nat) (offset : Nat) (value : DWord) (s : State) : Result :=
  if offset = 0x11008 then .next (s.setHome home fun h => { h with mvPte := value })
  else if offset = 0x11010 then .next (s.setHome home fun h => { h with mvDest := value })
  else .next s

/-! ### Writes by a home engine -/

/-- Bytes written at physical addresses of one line by a home engine: memory, or device registers, each with the bytes that it keeps. -/
def writePa (s : State) (bs : List (Nat × Byte)) : State :=
  match bs with
  | [] => s
  | b :: _ =>
    if paTier b.1 = 3 then
      (wordsTouched bs).foldl (fun t pa =>
        writeRegister (homeOfPa pa) (paOffset pa) (mergeWord (deviceWord t (homeOfPa pa) (paOffset pa)) pa bs) t) s
    else storeBytes s bs

/-- The low n bytes of a number written at a physical address. -/
def writePaN (s : State) (pa n x : Nat) : State := writePa s (bytesAt pa (leBytes n x))

end Sys2Proof.Machine
end

