-- ==== Sys2Proof/Machine/Contain.lean ====
section
/-! DEFINITION. Errors: restart of a region, containment, rollback of a team (spec/22 R336, R337, R340, R341). -/

namespace Sys2Proof.Machine

/-- The groups of a group's team; a group in no team is a team of one (R340). -/
def teamMate (g x : Group) : Bool :=
  x.life != .vacant && x.life != .ghost && (x.gid == g.gid || (g.team.isSome && x.team == g.team))

/-- A member stops for the rollback of its team; a copy command held by a fault, and a fault not yet taken, are discarded
(R341 step 1). -/
def markRollback (g : Group) : Group :=
  { g with rollback := true, copies := g.copies.filter fun c => !c.fault, copyFault := none }

/-- The operations of discarded copy commands are finished, and nothing waits for them any more (R341 step 1). -/
def finishDiscarded (g : Group) (s : State) : State :=
  (g.copies.filter fun c => c.fault).foldl (fun s c => settle c.id (finishOp g.gid c.id s)) s

/-- Rollback of a team begins: one update of its record, and every member stops (R341). -/
def rollbackTeam (s : State) : State :=
  let g := s.g
  let s1 := match g.team with
    | none => s
    | some r => setBarrier g.teamPte r (recGen s r) (recExpected s r) 0 s
  let mates := s1.groups.filter (teamMate g)
  mates.foldl (fun s x => finishDiscarded x s) (s1.mapGroups fun x => if teamMate g x then markRollback x else x)

/-- Containment of the focused group: rollback when every member has a recovery point, else the group is killed and its
cause goes to the driver (R340). -/
def containment (t : TrapRec) (s : State) : State :=
  if (s.groups.filter (teamMate s.g)).all fun x => x.rpseq != 0 then rollbackTeam s
  else killGroup (postEvent s.g.baseHome 0x01 t.code s.g.gid t.addr.toNat 0 s)

/-- A pipeline error, shadow mismatch or consumed poison of the focused split (R319, R340, 08 R141). A restart that is
already waiting takes the error in (R337). -/
def takeError (t : TrapRec) (s : State) : State :=
  if s.g.diag then diagnosticTrap t s
  else if s.g.sup then doubleTrap t s
  else if s.g.sp.restart.isSome then s
  else if s.g.sp.region.isSome ∧ s.g.rcnt < 3 then s.setSp fun sp => { sp with restart := some t }
  else if t.code = 0x20 then takeTrap t s
  else containment t s

/-- Poison consumed by the focused split's instruction, with no effect (R339). -/
def consumePoison (lane : Nat) (addr : DWord) (s : State) : State := takeError (instrTrap 0x22 0 lane addr s) s

/-- The record of a restart (R336): the trap record of R315 without LANES outside EM. -/
def restartRecord (t : TrapRec) (s : State) : List Byte := trapRecord { t with mask := s.active }

/-- TEAMSTAT with RSCNT one higher, saturating (22 Table 22.8). -/
def bumpRscnt (x : Word) : Word := if x.extractLsb' 16 8 = 255 then x else x + 0x10000
/-- TEAMSTAT with RBCNT one higher, saturating (22 Table 22.8). -/
def bumpRbcnt (x : Word) : Word := if x.extractLsb' 8 8 = 255 then x else x + 0x100

/-- The write of the record of a restart (R336). A context without private regions has no place for it (24 R359). -/
def writeRestart (t : TrapRec) (s : State) : Option State :=
  if ctxPrivLog s s.g.ctx = 0 then none
  else deviceWrite 2 s s.g.baseHome s.g.ctx (s.g.ctxbase.toNat + 1652 + 128 * s.g.w) (restartRecord t s)

/-- The restart of the focused split's region (R336); a record that cannot be written contains the error instead. -/
def restartRegion (t : TrapRec) (r : Region) (s : State) : State :=
  match writeRestart t s with
  | none => containment t (s.setSp fun sp => { sp with restart := none })
  | some s1 =>
    let g := s1.g
    { s1 with g := { setTrapRegs { t with mask := s.active } g with
        rcnt := g.rcnt + 1
        teamstat := bumpRscnt g.teamstat
        sp := { g.sp with pc := r.pc, clause := {}, safe := 0, restart := none, err := none, tail := none, defer := 0,
                          yielded := false, crc := 0 } } }

/-- The scalars of a member that starts again: s1 := RPJKT, s2 := RPSEQ, s3 := GRPINREC, and the card's values (R341). -/
def rollbackScalars (g : Group) (c : Card) : Cells DWord :=
  let base : Cells DWord := Cells.setMany 0 [] 1 [g.rpjkt, g.rpseq, g.grpInRec.setWidth 64]
  Cells.setMany 0 base 4 c.sval

/-- A member of a rolled-back team starts again at its recovery point (R341 step 3). An anchored group keeps its place; a
roaming one starts at its base home (log 17). The tile overflow count is discarded with the group's other state (log 89). -/
def rollbackGroup (s : State) : State :=
  let g := s.g
  let c := ((s.cards ++ s.launches).find? fun c => c.id == g.card).getD { id := 0, slot := 0, ctx := 0, home := 0 }
  let resgen := g.splits.foldl (fun (r : Word) x => if r < x.resgen then x.resgen else r) 0 + 1
  let stay := (g.splits.filterMap fun x => if anchored s g || x.home == g.baseHome then x.part else none).head?
  let home := if anchored s g then g.sp.home else g.baseHome
  let saved := g.life == .saved
  let s1 := { s with g := { g with
    life := if saved then .saved else .live
    v := [], p := [], em := 0xFFFFFFFF, bcur := [], poisonV := []
    fs := Cells.setMany 0 [] 0 c.fs
    sup := false, handler := .none, floor := 0, seams := [], seamSv := [], path := none, rollback := false
    trapcause := 0, trappc := 0, trapaddr := 0, trapmask := 0, traphdr := 0, trapvec := c.trapvec
    note := none, ck := none, lost := [], rcnt := 0, diaginj := 0, ovf := 0, ovfLate := [], copyFault := none
    teamstat := bumpRbcnt (g.teamstat &&& ~~~(4 : Word))
    sp := { idx := 0, pc := g.rppc, home := home, part := if saved then none else stay, s := rollbackScalars g c,
            resgen := resgen, lastPart := if saved then none else stay }
    sibs := [] } }
  if saved then s1 else requestAdmission s1

end Sys2Proof.Machine
end

