-- ==== Sys2Proof/Machine/Scratch.lean ====
section
/-! DEFINITION. Scratchpad loads and stores (spec/07 R131 to R134), and the diagnostic lease (spec/08 R137, R138). -/

namespace Sys2Proof.Machine

/-! ### Register groups of an access -/

/-- The registers of an access of n bytes are legal (15 R248, 07 R131). -/
def dataOk (s : State) (bytes : Nat) (n : VReg) : Bool :=
  if bytes ≤ 4 then regOk s false n
  else if bytes = 8 then regOk s true n
  else n.toNat % 4 == 0 && n.toNat + 3 < s.g.w

/-- The value of an access's register group in a lane; a narrow one takes its low bytes. -/
def dataOf (rd : Nat → Nat → Word) (bytes : Nat) (n : Nat) (l : Nat) : Nat :=
  if bytes ≤ 4 then (rd n l).toNat % 2 ^ (8 * bytes)
  else (List.range (bytes / 4)).foldl (fun x i => x + (rd (n + i) l).toNat * 2 ^ (32 * i)) 0

/-- A lane's loaded value enters its register group. -/
def putData (bytes n l x : Nat) (g : Group) : Group :=
  (List.range (max 1 (bytes / 4))).foldl (fun g i =>
    { g with v := Cells.set 0 g.v (vkey (n + i) l) (BitVec.ofNat 32 (x / 2 ^ (32 * i)))
             poisonV := Cells.set false g.poisonV (vkey (n + i) l) false }) g

/-! ### The lease -/

/-- Core, place and length of the bytes that the group's scratch accesses reach (R17, R134, 08 R137). -/
def scratchPlace (s : State) : Option (Nat × Nat × Nat) :=
  if s.g.diag then s.g.sp.part.map fun p => (partCore p, 0, diagLength)
  else (leaseOf s s.g).map fun l => (l.core, l.base, l.len)

/-- A lane's offset: the exact sum (R131). -/
def scratchOffset (s : State) (m : MMX) (l : Nat) : Nat := (readS s m.sb).toNat + (s.g.lane m.va.toNat l).toNat

/-- A write to scratchpad words wakes the splits that watch them (10 R181). -/
def notifyScratch (core : Nat) (addrs : List Nat) (s : State) : State :=
  s.mapSplits fun sp => match sp.watch with
    | some w => if w.scratch == some core && w.words.any (fun x => addrs.any fun a => x.1 / 4 == a / 4) then
                  { sp with woken := true } else sp
    | none => sp

/-- Words of a core's scratchpad that a write covers lose their poison (22 R338). -/
def cleanWords (a n : Nat) (p : Cells Bool) : Cells Bool := Cells.drop p fun w => a ≤ 4 * w && 4 * w + 4 ≤ a + n

/-- Bytes written to a core's scratchpad (R133). -/
def writeScratch (core a n x : Nat) (s : State) : State :=
  notifyScratch core ((List.range ((n + 3) / 4)).map fun i => a + 4 * i)
    (s.setCore core fun c => { c with scratch := c.scratch.writeN a n x, poison := cleanWords a n c.poison })

/-- A lane's store (R133, 08 R138), which wakes what watches its words (10 R181). A diagnostic group's leaves the poison marks alone (log
95). -/
def storeLane (core a n x : Nat) (s : State) : State :=
  if s.g.diag then
    notifyScratch core ((List.range (n / 4)).map fun i => a + 4 * i)
      (s.setCore core fun c => (List.range (n / 4)).foldl (fun c i => setDiagWord c (a + 4 * i) (BitVec.ofNat 32 (x / 2 ^ (32 * i)))) c)
  else writeScratch core a n x s

/-- A lane's load (R133, 08 R138). -/
def loadLane (s : State) (core a n : Nat) : Nat :=
  if s.g.diag then
    (List.range (n / 4)).foldl (fun x i => x + (diagWord (s.core core) (a + 4 * i)).toNat * 2 ^ (32 * i)) 0
  else (s.core core).scratch.readN a n

/-! ### Checks (R132) -/

/-- A trap at the lowest active lane, with bits [63:0] of its offset (R132; an exact sum of 2^64 or more does not fit TRAPADDR,
DESIGN CHOICE, log 94). -/
def scratchTrap (code acc : Nat) (m : MMX) (ls : List Nat) (s : State) : Result :=
  match ls with
  | [] => trapAt code acc 0 0 s
  | l :: _ => trapAt code acc l (BitVec.ofNat 64 (scratchOffset s m l)) s

/-- An access reaches past the lease, or a wide one reaches a port word of the diagnostic lease (R132, 08 R137). -/
def pastLease (s : State) (n len o : Nat) : Bool := decide (len < o + n) || (s.g.diag && decide (8 ≤ n ∧ diagPorts < o + n))

/-- The checks of R132 in their order; `k` goes on with the core and the place of the lease. -/
def withScratch (m : MMX) (n acc : Nat) (s : State) (k : Nat → Nat → Result) : Result :=
  if !(dataOk s n m.vd && regOk s false m.va) then illegalOperand s
  else
    let ls := lanesOf s.active
    match scratchPlace s with
    | none => scratchTrap 0x0B acc m ls s
    | some (core, base, len) =>
      match ls.filter fun l => scratchOffset s m l % n != 0 with
      | l :: _ => scratchTrap 0x06 acc m [l] s
      | [] =>
        match ls.filter fun l => pastLease s n len (scratchOffset s m l) with
        | l :: _ => scratchTrap 0x0B acc m [l] s
        | [] => k core base

/-- The words that a load watches, with the values that it loads (10 R181). -/
def scratchWatch (s : State) (m : MMX) (n core base : Nat) : Watch :=
  { scratch := some core
    words := ((lanesOf s.active).flatMap fun l => (List.range (n / 4)).map fun i =>
      let a := base + scratchOffset s m l + 4 * i
      (a, loadLane s core a 4)).take 128 }

/-- A poisoned word among those that a lane reads (22 Table 22.4). -/
def poisonedWord (s : State) (core a n : Nat) : Bool :=
  (List.range (n / 4)).any fun i => Cells.get false (s.core core).poison (a / 4 + i)

/-- Earlier accesses of the split still come before its scratch accesses: an acquire that is not performed, whose domain holds the
team's lease at every scope, or the work before a division or rejoin; a write also waits behind a release fence (14 R232, R236 to
R238). -/
def scratchWaits (write : Bool) (sp : Split) : Bool := !sp.acquire.isEmpty || (write && !sp.fence.isEmpty)

/-- A scratchpad load (R131): every lane reads before any register is written. A diagnostic group reads the cells as they are
(log 95). -/
def scratchLoad (n : Nat) (m : MMX) (s : State) : Result :=
  withScratch m n 0 s fun core base =>
    let addr (l : Nat) := base + scratchOffset s m l
    if scratchWaits false s.g.sp then .next s
    else match (lanesOf s.active).filter fun l => !s.g.diag && poisonedWord s core (addr l) n with
    | l :: _ => .next (consumePoison l (BitVec.ofNat 64 (scratchOffset s m l)) s)
    | [] =>
      let g := (lanesOf s.active).foldl (fun g l => putData n m.vd.toNat l (loadLane s core (addr l) n) g) s.g
      .next (complete ({ s with g := g }.setSp fun sp =>
        if s.active = 0 then sp else { sp with lastLoad := scratchWatch s m n core base }))

/-- A scratchpad store (R131, R133): a byte that several lanes write takes the highest-numbered lane's value. -/
def scratchStore (n : Nat) (m : MMX) (s : State) : Result :=
  withScratch m n 1 s fun core base =>
    if scratchWaits true s.g.sp then .next s
    else .next (complete ((lanesOf s.active).foldl (fun t l =>
      storeLane core (base + scratchOffset s m l) n (dataOf s.g.lane n m.vd.toNat l) t) s))

def execLdsw (m : MMX) (s : State) : Result := scratchLoad 4 m s
def execLdsd (m : MMX) (s : State) : Result := scratchLoad 8 m s
def execLdsq (m : MMX) (s : State) : Result := scratchLoad 16 m s
def execStsw (m : MMX) (s : State) : Result := scratchStore 4 m s
def execStsd (m : MMX) (s : State) : Result := scratchStore 8 m s
def execStsq (m : MMX) (s : State) : Result := scratchStore 16 m s

end Sys2Proof.Machine
end

