-- ==== Sys2Proof/Machine/Access.lean ====
section
/-! DEFINITION. What the homed and private accesses share: addresses and their checks, ordering within a split, posting,
in-place accesses, divisions and moves by home (spec/13 R217 to R226, spec/14 R232 to R238, spec/15 R245 to R247). -/

namespace Sys2Proof.Machine

/-! ### Sources (15 R245, R247) -/

/-- A lane of a source register: from the operand tail of a moved instruction, else from the window (R247). -/
def srcLane (s : State) (reg l : Nat) : Word :=
  match s.g.sp.tail with
  | some t => Cells.get 0 t.v (vkey reg l)
  | none => s.g.lane reg l

/-- A source scalar. -/
def srcScalar (s : State) (n : SReg) : DWord :=
  match s.g.sp.tail with
  | some t => if n = 0 then 0 else Cells.get 0 t.s n.toNat
  | none => readS s n

/-- The operand tail of an instruction with its source registers (R247). -/
def makeTail (s : State) (vs : List Nat) (ss : List SReg) : Tail :=
  { v := vs.foldl (fun t r => allLanes.foldl (fun t l => Cells.set 0 t (vkey r l) (srcLane s r l)) t) []
    s := ss.foldl (fun t n => if n = 0 then t else Cells.set 0 t n.toNat (srcScalar s n)) [] }

/-- The address registers are legal (02 R30). -/
def addrOk (s : State) (va : VReg) (sb : SReg) : Bool := regOk s (sb == 0) va

/-- Source registers of an address. -/
def addrRegs (va : VReg) (sb : SReg) : List Nat := if sb = 0 then [va.toNat, va.toNat + 1] else [va.toNat]

/-- Registers of an access's data group. -/
def dataRegs (bytes : Nat) (n : VReg) : List Nat := (List.range (max 1 (bytes / 4))).map (n.toNat + ·)

/-- A lane's 64-bit address (R245). -/
def laneAddr (s : State) (va : VReg) (sb : SReg) (l : Nat) : Nat :=
  if sb = 0 then (srcLane s va.toNat l).toNat + (srcLane s (va.toNat + 1) l).toNat * 2 ^ 32
  else ((srcScalar s sb).toNat + (srcLane s va.toNat l).toNat) % 2 ^ 64

/-! ### Private memory (13 R213) -/

/-- The start of a group's private region. -/
def regionBase (s : State) (g : Group) : Nat :=
  ctxPrivBase s g.ctx
    + ((12 * homePkg g.baseHome + g.baseHome % 16) * ctxPrivSlots s g.ctx + g.slot.getD 0) * 2 ^ ctxPrivLog s g.ctx

/-! ### Checks (15 R246) -/

/-- The addresses of an instruction: the lanes that have one (lane 0 for a uniform address), and what is checked. -/
structure AccessForm where
  lanes : List Nat
  addr : Nat → Nat
  priv : Bool := false
  /-- Alignment; 0 for no check. -/
  size : Nat
  need : Need := .read
  /-- Raises the anchor trap (13 Table 13.5). -/
  moves : Bool := false

/-- The virtual address of a lane. -/
def AccessForm.va (f : AccessForm) (s : State) (l : Nat) : Nat := if f.priv then regionBase s s.g + f.addr l else f.addr l

/-- Translation of a lane; a private page must lie in tier 0 or 1 of the base home (13 R213). -/
def AccessForm.walk (f : AccessForm) (s : State) (l : Nat) : Walk :=
  match translate s s.g.sp.home s.g.ctx (f.va s l) with
  | .ok pa pte z => if f.priv && (homeOfPa pa != s.g.baseHome || 2 ≤ paTier pa) then .bad else .ok pa pte z
  | w => w

/-- Check 1: address fault. -/
def AccessForm.badAddress (f : AccessForm) (s : State) (l : Nat) : Option Nat :=
  if f.priv then
    (if ctxPrivLog s s.g.ctx = 0 ∨ 2 ^ ctxPrivLog s s.g.ctx ≤ f.addr l then some 0x05 else none)
  else if 2 ^ 56 ≤ f.addr l then some 0x05 else none

/-- Check 2: misaligned-access trap. -/
def AccessForm.misaligned (f : AccessForm) (l : Nat) : Option Nat :=
  if f.size ≠ 0 ∧ f.addr l % f.size ≠ 0 then some 0x06 else none

/-- Check 3: translation fault or private-growth fault. -/
def AccessForm.untranslated (f : AccessForm) (s : State) (l : Nat) : Option Nat :=
  match f.walk s l with
  | .ok .. => none
  | .bad => some 0x07
  | .grow => some (if f.priv then 0x09 else 0x07)

/-- Check 4: permission fault. -/
def AccessForm.forbidden (f : AccessForm) (s : State) (l : Nat) : Option Nat :=
  match f.walk s l with
  | .ok pa pte _ => if permitted s.g.sup f.need pa pte then none else some 0x08
  | _ => none

/-- Check 5: anchor trap. A diagnostic group raises it whatever the home (08 R135); a private access of a handler never
does (21 R316). -/
def AccessForm.unanchored (f : AccessForm) (s : State) (l : Nat) : Option Nat :=
  if s.g.diag then some 0x0A
  else if !f.moves || !anchoredHere s || (f.priv && s.g.sup) then none
  else match f.walk s l with
    | .ok pa _ _ => if homeOfPa pa != s.g.sp.home then some 0x0A else none
    | _ => none

/-- The first lane that a check fails. -/
def firstFailing (ls : List Nat) (c : Nat → Option Nat) : Option (Nat × Nat) :=
  ls.findSome? fun l => (c l).map fun code => (code, l)

/-- The first check that any lane fails: code and lane (R246). -/
def AccessForm.failure (f : AccessForm) (s : State) : Option (Nat × Nat) :=
  [f.badAddress s, f.misaligned, f.untranslated s, f.forbidden s, f.unanchored s].findSome? (firstFailing f.lanes)

/-- TRAPADDR of a failing lane: its virtual address, or the private offset for an address fault (R246). -/
def AccessForm.trapAddr (f : AccessForm) (s : State) (code l : Nat) : DWord :=
  BitVec.ofNat 64 (if code = 0x05 then f.addr l else f.va s l)

/-- The physical accesses of the lanes. -/
def AccessForm.accesses (f : AccessForm) (s : State) : List LaneAccess :=
  f.lanes.filterMap fun l => match f.walk s l with
    | .ok pa pte _ => some { lane := l, va := f.va s l, pa := pa, pte := pte }
    | _ => none

/-- The checks of R246; `k` goes on with the physical accesses. -/
def withAccess (f : AccessForm) (s : State) (k : List LaneAccess → Result) : Result :=
  match f.failure s with
  | some (code, l) => trapAt code f.need.acc l (f.trapAddr s code l) s
  | none => k (f.accesses s)

/-! ### Order within a split (14 R232, R236, R237) -/

/-- Is a location in D(S), for a split at a home (14 Table 14.4)? `priv` says that it is private memory of the group. -/
def inScope (sc : Scope) (home pa : Nat) (priv : Bool) : Bool :=
  match sc with
  | .grp => priv
  | .home => homeOfPa pa == home
  | .pkg => paPkg pa == homePkg home
  | .fab => paTier pa < 2
  | .sys | .mantle => paTier pa < 3

/-- Bytes of one lane of an in-place access. -/
def AccessKind.size : AccessKind → Nat
  | .load n _ => n
  | .atomic _ w => if w then 8 else 4
  | .dqpush _ | .dqpop _ | .dqsteal _ => 64

/-- An in-place access writes memory: it is no load. -/
def AccessKind.writes : AccessKind → Bool
  | .load _ _ => false
  | _ => true

/-- Address and length of what a packet writes. -/
def Payload.ranges : Payload → List (Nat × Nat)
  | .store bs => bs.map fun b => (b.1, 1)
  | .reduce op ws => ws.map fun w => (w.1, if op = 7 then 8 else 4)
  | .addWords _ ws => ws.map fun w => (w.1, 4)
  | .arrive pa _ => [(pa, 8)]
  | .decrement pa _ => [(pa, 8)]
  | .parent pa _ _ => [(pa, 8)]
  | .poison pa => [(pa / 64 * 64, 64)]
  | .fence => []

def overlaps (x y : Nat × Nat) : Bool := x.1 < y.1 + y.2 && y.1 < x.1 + x.2
def anyOverlap (xs ys : List (Nat × Nat)) : Bool := xs.any fun x => ys.any fun y => overlaps x y

/-- Address and length of what an access touches, the elements of a deque among it. -/
def Access.ranges (a : Access) : List (Nat × Nat) := (a.lanes.map fun l => (l.pa, a.kind.size)) ++ a.elems

/-- A location is private memory of the focused group. -/
def isPrivate (s : State) (va : Nat) : Bool :=
  let b := regionBase s s.g
  ctxPrivLog s s.g.ctx != 0 && b ≤ va && va < b + 2 ^ ctxPrivLog s s.g.ctx

/-- The split's own accesses and posted packets that are not yet performed; its operations are those charged to it, and the
commit record that it waits for (22 R345). -/
def ownAccesses (s : State) : List Access := s.g.accs.filter fun a => a.owners.contains s.g.sp.idx
def ownPacket (s : State) (p : Packet) : Bool := chargedTo s.g s.g.sp p
def ownPackets (s : State) : List Packet := s.packets.filter (ownPacket s) ++ (s.mirrors.map (·.2)).filter (ownPacket s)

def addNew (x : Nat) (l : List Nat) : List Nat := if l.contains x then l else l ++ [x]

/-- Tokens of the split's accesses that touch a common byte (14 Table 14.2). -/
def accessOverlaps (s : State) (rs : List (Nat × Nat)) : List Nat :=
  ((ownAccesses s).filter fun a => anyOverlap a.ranges rs).foldl (fun l a => addNew (2 * a.id) l) []

/-- Tokens of the split's posted packets that touch a common byte. -/
def packetOverlaps (s : State) (rs : List (Nat × Nat)) : List Nat :=
  ((ownPackets s).filter fun p => anyOverlap p.body.ranges rs).foldl (fun l p => addNew (2 * p.id) l) []

/-- Does what an access of the split orders hold a location: its domain, or every location? -/
def ordersHere (d : Option Scope) (home pa : Nat) (priv : Bool) : Bool := match d with
  | some sc => inScope sc home pa priv
  | none => true

/-- Tokens of the acquires whose domain holds a location (R237), and of what comes before every access (R232). -/
def acquireTokens (s : State) (pa : Nat) (priv : Bool) : List Nat :=
  (s.g.sp.acquire.filter fun a => ordersHere a.1 s.g.sp.home pa priv).map fun a => 2 * a.2

/-- Earlier accesses of the split come before a read of these bytes (14 Table 14.2); `priv` says that they are private memory of the
group. -/
def mustPrecede (s : State) (priv : Bool) (rs : List (Nat × Nat)) : Bool :=
  !(accessOverlaps s rs ++ packetOverlaps s rs ++ rs.flatMap fun r => acquireTokens s r.1 priv).isEmpty

/-- Tokens of every earlier access of the split to D(S) that is not yet performed, and of its lost writes to MANTLE pages, which no release
at .mantle scope outlives (R237, R243, R244, 22 R342). -/
def releaseTokens (sc : Scope) (s : State) : List Nat :=
  let ack := sc == .sys || sc == .mantle
  let a := ((ownAccesses s).filter fun a => a.lanes.any fun l => inScope sc s.g.sp.home l.pa (isPrivate s l.va)).map (2 * ·.id)
  let p := ((ownPackets s).filter fun p => p.body.ranges.any fun r => inScope sc s.g.sp.home r.1 p.priv).map
    fun p => if ack then 2 * p.id + 1 else 2 * p.id
  let r := if ack then (s.roce.filter fun r => r.gid == s.g.gid).map (2 * ·.id + 1) else []
  let m := if sc == .mantle then (s.mirrors.filter fun m => pteMantle m.2.pte).map (2 * ·.2.id) ++ s.g.sp.strands.map (2 * ·) else []
  (a ++ p ++ r ++ m).foldl (fun l x => addNew x l) []

/-! ### Posting (13 R225, 14 R235) -/

/-- Packets to one home follow the split's earlier packets to it that are still held (14 Table 14.2). -/
def behindHeld (s : State) (p : Packet) : List Nat :=
  ((s.packets.filter fun q => q.held && ownPacket s q && q.dst == p.dst && q.cls == p.cls).map (2 * ·.id)).foldl
    (fun l x => addNew x l) []

/-- What a packet of the focused split waits for before it enters its egress queue; a release fence comes before every later
posted operation (14 Table 14.6). -/
def packetWaits (rel : Option Scope) (s : State) (p : Packet) : List Nat :=
  let rs := p.body.ranges
  let r := match rel with
    | some sc => releaseTokens sc s
    | none => []
  (accessOverlaps s rs ++ (rs.flatMap fun x => acquireTokens s x.1 p.priv) ++ r ++ behindHeld s p ++ s.g.sp.fence).foldl
    (fun l x => addNew x l) []

/-- A release at .mantle scope that waits for earlier accesses still has to wait for the copies of the writes that they saw (14
R244); `w` is what it waits for. -/
def mantleRelease (rel : Option Scope) (w : List Nat) : Option Bool := if rel = some .mantle then some w.isEmpty else none

/-- A posted operation of the focused split: its packets, the counter that it raises, the scope of its release, and the
scope of its .sc order (13 R225, 15 R250). No packet means no operation. -/
def postOperation (c : Ctr) (rel sc : Option Scope) (ps : List Packet) (s : State) : State :=
  if ps.isEmpty then s
  else
    let id := s.fresh
    let mk (p : Packet) : Packet :=
      let w := packetWaits rel s p
      { p with id := id, gid := some s.g.gid, ctx := s.g.ctx, src := s.g.sp.home, after := w, held := !w.isEmpty,
               mantle := mantleRelease rel w, seq := id }
    let s1 := charge c id { s with packets := s.packets ++ ps.map mk, fresh := s.fresh + 1 }
    match sc with
    | some d => s1.setSp fun sp => { sp with acquire := sp.acquire ++ [(some d, id)] }
    | none => s1

/-- A release fence: later writes wait for it, and it for the earlier accesses to D(S) (14 R238). -/
def postFence (sc : Scope) (s : State) : State :=
  let w := releaseTokens sc s
  if w.isEmpty then s
  else
    let p : Packet := { id := s.fresh, gid := some s.g.gid, ctx := s.g.ctx, src := s.g.sp.home, dst := s.g.sp.home, body := .fence,
                        after := w, held := true, mantle := mantleRelease (some sc) w }
    ({ s with packets := s.packets ++ [p], fresh := s.fresh + 1 }).setSp fun sp => { sp with fence := sp.fence ++ [2 * s.fresh] }

/-- The distinct lines of some accesses, in increasing (home, line) order (R225). -/
def insertLine (x : Nat × Nat) : List (Nat × Nat) → List (Nat × Nat)
  | [] => [x]
  | y :: ys => if x = y then y :: ys
               else if x.1 < y.1 ∨ (x.1 = y.1 ∧ x.2 < y.2) then x :: y :: ys else y :: insertLine x ys
def linesOf (as : List LaneAccess) : List (Nat × Nat) :=
  as.foldl (fun ls a => insertLine (homeOfPa a.pa, a.pa / 64) ls) []

/-- Accesses of one line. -/
def onLine (ln : Nat × Nat) (as : List LaneAccess) : List LaneAccess := as.filter fun a => a.pa / 64 == ln.2

/-- The leaf of a line's accesses. -/
def lineLeaf (as : List LaneAccess) : Nat := match as with
  | a :: _ => a.pte
  | [] => 0

/-- Some of the lanes reach private memory of the group (14 Table 14.4). -/
def anyPrivate (s : State) (as : List LaneAccess) : Bool := as.any fun a => isPrivate s a.va

/-- Packets of a store: one for each home and line; each byte takes the value of the highest-numbered lane (R225). -/
def storePackets (s : State) (n : Nat) (as : List LaneAccess) : List Packet :=
  (linesOf as).map fun ln =>
    let here := onLine ln as
    let bytes := here.foldl (fun (m : Cells Nat) a =>
      Cells.setMany 256 m a.pa ((leBytes n a.x).map (·.toNat))) []
    { id := 0, src := 0, dst := ln.1, pte := lineLeaf here, priv := anyPrivate s here,
      body := .store (bytes.map fun e => (e.1, BitVec.ofNat 8 e.2)) }

/-! ### Divisions and moves (13 R219, R220) -/

/-- Distinct homes in increasing order. -/
def insertNat (x : Nat) : List Nat → List Nat
  | [] => [x]
  | y :: ys => if x = y then y :: ys else if x < y then x :: y :: ys else y :: insertNat x ys
def homesOf (as : List LaneAccess) : List Nat := as.foldl (fun hs a => insertNat (homeOfPa a.pa) hs) []

/-- The lanes of the accesses at a home. -/
def lanesAt (as : List LaneAccess) (h : Nat) : LaneSet :=
  laneSetOf ((as.filter fun a => homeOfPa a.pa == h).map (·.lane))

/-- What a moving instruction carries: its live set, the same with its destinations, its index, and its operand tail. -/
structure Baggage where
  live : LiveSet
  keep : LiveSet := live
  ls : Nat
  tail : Tail
  /-- The lane whose access an injected error is raised at (22 R332). -/
  inject : Option Nat := none

/-- The split holds the lane that an injected error is raised at. -/
def Baggage.injects (b : Baggage) (lanes : LaneSet) : Bool := match b.inject with
  | some l => lanes.getLsbD l
  | none => false

/-- A split is bound for another home; it leaves by JACKET_DEPART (R220). -/
def bindFor (h : Nat) (b : Baggage) (sp : Split) : Split :=
  { sp with move := some h, keep := b.keep, live := b.live, ls := b.ls, tail := some { b.tail with inject := b.injects sp.lanes } }

/-- New splits for the homes other than `keep`, in order (R219): none when a handler finds no free entry. -/
def splitOff (as : List LaneAccess) (b : Baggage) : List Nat → Group → Option Group
  | [], g => some g
  | h :: hs, g =>
    let m := lanesAt as h
    (addSplit m (fun sp => bindFor h b sp) g).bind fun g1 =>
      splitOff as b hs { g1 with sp := { g1.sp with lanes := g1.sp.lanes &&& ~~~m } }

/-- The division of a moving instruction, and its execution in place for the lanes that stay (R219). -/
def divideByHome (as : List LaneAccess) (b : Baggage) (inPlace : List LaneAccess → State → Result) (s : State) : Result :=
  let c := s.g.sp.home
  let dests := homesOf as
  let keep := if dests.contains c then c else (as.head?.map fun a => homeOfPa a.pa).getD c
  let s0 := if (dests.filter fun h => h != keep).isEmpty then s else orderDivision s
  match splitOff as b (dests.filter fun h => h != keep) s0.g with
  | none => .next (noEntryTrap s)
  | some g =>
    let s1 := { s0 with g := g }
    if keep = c then inPlace (as.filter fun a => homeOfPa a.pa == c) s1
    else .next (s1.setSp (bindFor keep b))

/-! ### In-place accesses (14 R231) -/

/-- A new in-place access of the focused split. -/
def addAccess (a : Access) (s : State) : State :=
  { s with g := { s.g with accs := s.g.accs ++ [{ a with id := s.fresh, owners := [s.g.sp.idx] }] }, fresh := s.fresh + 1 }

/-- What an in-place access waits for (14 R232, R237); `rs` is what it touches beside its lanes. -/
def accessWaits (rel : Option Scope) (as : List LaneAccess) (n : Nat) (elems : List (Nat × Nat)) (s : State) : List Nat :=
  let rs := as.map (fun a => (a.pa, n)) ++ elems
  let r := match rel with
    | some sc => releaseTokens sc s
    | none => []
  (accessOverlaps s rs ++ packetOverlaps s rs ++ (as.flatMap fun a => acquireTokens s a.pa (isPrivate s a.va)) ++ r).foldl
    (fun l x => addNew x l) []

end Sys2Proof.Machine
end

