-- ==== Sys2Proof/Machine/Inject.lean ====
section
/-! DEFINITION. DIAGINJ, the injection of one error (spec/22 R332, Table 22.1). -/

namespace Sys2Proof.Machine

/-- The stored value of a write: reserved bits discarded, KIND 4 to 15 stored as 0 (Table 22.1). -/
def diaginjStored (x : Word) : Word :=
  let y := x &&& 0x8000FF0F
  if 3 < (y &&& 0xF).toNat then y &&& 0xFFFFFFF0 else y

/-- The register is armed for events of a kind. -/
def injArmed (k : Nat) (x : Word) : Bool := x.getLsbD 31 && (x &&& 0xF).toNat == k

/-- SKIP. -/
def injSkip (x : Word) : Nat := (x >>> 8 &&& 0xFF).toNat

/-- The next event of a kind raises the error. -/
def injFires (k : Nat) (x : Word) : Bool := injArmed k x && injSkip x == 0

/-- The register after an event of a kind (R332). -/
def injAfter (k : Nat) (x : Word) : Word :=
  if !injArmed k x then x else if injSkip x = 0 then x &&& 0x7FFFFFFF else x - 0x100

/-- An eligible event of a kind is counted for the focused group. -/
def countInjection (k : Nat) (s : State) : State := { s with g := { s.g with diaginj := injAfter k s.g.diaginj } }

end Sys2Proof.Machine
end

