-- ==== Sys2Proof/Machine/MemInstr.lean ====
section
/-! DEFINITION. Class 3: loads, stores, MIGRATE, HOMEOF, FENCE (spec/15 R248 to R253, spec/14 R236 to R238). -/

namespace Sys2Proof.Machine

/-! ### Moving instructions -/

/-- The live set that an instruction names; a moved instruction that runs again has it with it (13 R215, R220). -/
def withLiveSet (n : BitVec 6) (s : State) (k : LiveSet → Result) : Result :=
  if s.g.sp.tail.isSome then k s.g.sp.live
  else match liveSetAt s (instrPc s).toNat n.toNat with
    | .error f => liveSetTrap f s
    | .ok ls => k ls

/-- The homed or private lane addresses of an MM or SA instruction (15 R245). -/
def laneForm (s : State) (va : VReg) (sb : SReg) (priv : Bool) (size : Nat) (need : Need) (moves : Bool) : AccessForm :=
  { lanes := lanesOf s.active, addr := laneAddr s va sb, priv := priv, size := size, need := need, moves := moves }

/-- The private loads of an anchored group's handler are performed at the base home, and the split waits in place (21
R316). -/
def handlerPrivate (s : State) (priv : Bool) : Bool := priv && s.g.sup && anchoredHere s

/-- A line whose mirror may serve it: on a MIRROR page that has both its copies (25 R369, R370). -/
def hasMirror (s : State) (a : LaneAccess) : Bool := pteMirror a.pte && !isDegraded s a.pa a.pte

/-- A copy of the line is on its way to the mirror. -/
def lineInFlight (s : State) (a : LaneAccess) : Bool :=
  s.mirrors.any fun m => anyOverlap m.2.body.ranges [(mirrorOf s a.pa / 64 * 64, 64)]

/-- The mirror of a line can serve it and can be rewritten: a path leads there, and no copy of the line is still to reach it (25 R366,
R369, 26 R386). -/
def mirrorAtHand (s : State) (a : LaneAccess) : Bool :=
  delivers s (homeOfPa a.pa) (homeOfPa (mirrorOf s a.pa)) && !lineInFlight s a

/-- A poisoned line whose mirror is not at hand: its reader waits. -/
def mirrorAwaited (s : State) (a : LaneAccess) : Bool := poisonedLine s (a.pa / 64) && hasMirror s a && !mirrorAtHand s a

/-- A line that a reader finds poisoned: on a mirrored page, only when both copies are (22 R338, 25 R369). -/
def linePoisoned (s : State) (a : LaneAccess) : Bool :=
  poisonedLine s (a.pa / 64) && !(hasMirror s a && !poisonedLine s (mirrorOf s a.pa / 64))

/-! ### Loads (R248, R249) -/

/-- The page of an address is on the move (25 R371). -/
def pageMoving (s : State) (pa : Nat) : Bool := match (s.home (homeOfPa pa)).mv with
  | some m => m.old ≤ pa && pa < m.old + m.size
  | none => false

/-- One in-place access for each line of a load (14 Table 14.1), numbered by the first of them. A load of a page on the move holds its
split's next clause, so that a REDIRECT can make the instruction run again (25 R373, log 32). -/
def issueLines (n : Nat) (sgn : Bool) (m : MML) (acq rel : Option Scope) (stall : Bool) (as : List LaneAccess) (s : State) :
    State :=
  let moving := as.any fun a => pageMoving s a.pa
  (linesOf as).foldl (fun t ln =>
    let here := onLine ln as
    let before := match rel with
      | some sc => releaseTokens sc s
      | none => []
    let t1 := addAccess { id := 0, owners := [], kind := .load n sgn, lanes := here, vd := m.vd.toNat,
                          after := accessWaits rel here n [] s, block := stall || moving, stall := stall,
                          undo := if moving then some s.g.sp else none,
                          held := !before.isEmpty, mantle := mantleRelease rel before, load := s.fresh,
                          pc := instrPc s, hdr := s.g.sp.pc, mask := s.active } t
    match acq with
    | some sc => t1.setSp fun sp => { sp with acquire := sp.acquire ++ [(some sc, t.fresh)] }
    | none => t1) s

/-- The lanes that a load performs at the split's home. -/
def stayingLanes (s : State) (all : Bool) (as : List LaneAccess) : List LaneAccess :=
  if all then as else as.filter fun a => homeOfPa a.pa == s.g.sp.home

/-- The lanes of a load at which poison is consumed: a poisoned line, or the injected error (22 R332, R339). -/
def consuming (s : State) (inject : Option Nat) (as : List LaneAccess) : List LaneAccess :=
  as.filter fun a => inject == some a.lane || linePoisoned s a

/-- A load in place: poison is consumed, or the accesses of its lines are issued and the split goes on (R248). -/
def loadHere (n : Nat) (sgn : Bool) (m : MML) (acq rel : Option Scope) (stall : Bool) (inject : Option Nat)
    (as : List LaneAccess) (s : State) : Result :=
  match consuming s inject as with
  | a :: _ => .next (consumePoison a.lane (BitVec.ofNat 64 a.va) s)
  | [] =>
    let s1 := issueLines n sgn m acq rel stall as s
    let s2 := s1.setSp fun sp => { sp with lastLoad := { load := s.fresh }, status := if stall then .waiting else sp.status }
    .next (completeSafe s2)

/-- A homed or private load of n bytes (R248, R249). A load that would consume poison first waits for the accesses that it
must follow. -/
def memLoad (n : Nat) (sgn priv : Bool) (acq rel : Option Scope) (m : MML) (s : State) : Result :=
  if !(dataOk s n m.vd && addrOk s m.va m.sb) then illegalOperand s
  else withLiveSet m.ls s fun live =>
    if s.active = 0 then .next (completeSafe s)
    else withAccess (laneForm s m.va m.sb priv n .read true) s fun as =>
      let first := s.g.sp.tail.isNone
      let fires := (first && injFires 3 s.g.diaginj) || (match s.g.sp.tail with
        | some t => t.inject
        | none => false)
      let inject := if fires then some (lowestLane s.active) else none
      let here := stayingLanes s (handlerPrivate s priv) as
      let hit := consuming s inject here
      if here.any (mirrorAwaited s) || (!hit.isEmpty && !(accessWaits rel hit n [] s).isEmpty) then .next s
      else
        let s1 := if first then countInjection 3 s else s
        let b : Baggage := { live := live, keep := live.withRegs (dataRegs n m.vd), ls := m.ls.toNat, inject := inject,
                             tail := makeTail s (addrRegs m.va m.sb ++ dataRegs n m.vd) [m.sb] }
        if handlerPrivate s priv then loadHere n sgn m acq rel true inject as s1.spend
        else divideByHome as b (loadHere n sgn m acq rel false inject) s1.spend

def execLdb (m : MML) (s : State) : Result := memLoad 1 false false none none m s
def execLdbs (m : MML) (s : State) : Result := memLoad 1 true false none none m s
def execLdh (m : MML) (s : State) : Result := memLoad 2 false false none none m s
def execLdhs (m : MML) (s : State) : Result := memLoad 2 true false none none m s
def execLdw (m : MML) (s : State) : Result := memLoad 4 false false none none m s
def execLdd (m : MML) (s : State) : Result := memLoad 8 false false none none m s
def execLdq (m : MML) (s : State) : Result := memLoad 16 false false none none m s
def execLdpw (m : MML) (s : State) : Result := memLoad 4 false true none none m s
def execLdpd (m : MML) (s : State) : Result := memLoad 8 false true none none m s

/-- An acquire load (R249). -/
def acquireLoad (n : Nat) (m : MML) (sc : Scope) (o : Order) (s : State) : Result :=
  match o with
  | .acq => memLoad n false false (some sc) none m s
  | .sc => memLoad n false false (some sc) (some sc) m s
  | _ => illegalInstruction s

def execLdaw (m : MML) (sc : Scope) (o : Order) (s : State) : Result := acquireLoad 4 m sc o s
def execLdad (m : MML) (sc : Scope) (o : Order) (s : State) : Result := acquireLoad 8 m sc o s

/-! ### Stores (R250) -/

/-- The bytes of a number in reverse (STRW, STRD). -/
def reverseBytes (n x : Nat) : Nat := leNat (leBytes n x).reverse

/-- The scope of a release, and of the order that a .sc store adds (R250). -/
def relScope (sc : Scope) (o : Order) : Option Scope := match o with
  | .rel | .ar | .sc => some sc
  | _ => none
def scScope (sc : Scope) (o : Order) : Option Scope := match o with
  | .sc => some sc
  | _ => none

/-- A private store of an anchored group's handler is performed at the base home, after the split's earlier packets to it, and the
split waits in place until it is accepted (21 R316); `s0` is the state before its packets were posted. -/
def storeAtBase (s0 : State) (s : State) : State :=
  let first := ((ownPackets s0).filter fun q => q.dst == s.g.baseHome).map (2 * ·.id)
  let place (p : Packet) : Packet :=
    { p with src := s.g.baseHome, after := first.foldl (fun l x => addNew x l) p.after, held := p.held || !first.isEmpty }
  ({ s with packets := s0.packets ++ (s.packets.drop s0.packets.length).map place }).setSp fun sp =>
    { sp with status := .waiting, await := some s0.fresh }

/-- A store of n bytes: checks, and the posting of its packets (R225, R250). -/
def memStore (n : Nat) (rev priv : Bool) (m : MMS) (s : State) : Result :=
  if !storeOrder m.order then illegalInstruction s
  else if !(dataOk s n m.vd && addrOk s m.va m.sb) then illegalOperand s
  else if s.active = 0 then .next (complete s)
  else withAccess (laneForm s m.va m.sb priv n .write false) s fun as =>
    if !hasRoom .post s then .next s
    else
      let v (a : LaneAccess) := dataOf s.g.lane n m.vd.toNat a.lane
      let xs := as.map fun a => { a with x := if rev then reverseBytes n (v a) else v a }
      let t := postOperation .post (relScope m.scope m.order) (scScope m.scope m.order) (storePackets s n xs) s.spend
      .next (complete (if handlerPrivate s priv then storeAtBase s t else t))

def execStb (m : MMS) (s : State) : Result := memStore 1 false false m s
def execSth (m : MMS) (s : State) : Result := memStore 2 false false m s
def execStw (m : MMS) (s : State) : Result := memStore 4 false false m s
def execStd (m : MMS) (s : State) : Result := memStore 8 false false m s
def execStq (m : MMS) (s : State) : Result := memStore 16 false false m s
def execStrw (m : MMS) (s : State) : Result := memStore 4 true false m s
def execStrd (m : MMS) (s : State) : Result := memStore 8 true false m s
def execStpw (m : MMS) (s : State) : Result := memStore 4 false true m s
def execStpd (m : MMS) (s : State) : Result := memStore 8 false true m s

/-! ### MIGRATE, HOMEOF, FENCE (R251 to R253) -/

/-- MIGRATE divides and moves; in place it has no further effect. -/
def execMigrate (ls : BitVec 6) (va : VReg) (sb : SReg) (s : State) : Result :=
  if !addrOk s va sb then illegalOperand s
  else withLiveSet ls s fun live =>
    if s.active = 0 then .next (completeSafe s)
    else withAccess (laneForm s va sb false 0 .read true) s fun as =>
      divideByHome as { live := live, ls := ls.toNat, tail := makeTail s (addrRegs va sb) [sb] }
        (fun _ t => .next (completeSafe t)) s.spend

/-- HomeOf of an address, or all ones (R252). -/
def homeOfAddr (s : State) (a : Nat) : Word :=
  if 2 ^ 56 ≤ a then 0xFFFFFFFF
  else match translate s s.g.sp.home s.g.ctx a with
    | .ok pa pte _ => if pteUser pte || s.g.sup then BitVec.ofNat 32 (homeOfPa pa) else 0xFFFFFFFF
    | _ => 0xFFFFFFFF

def execHomeof (m : MMX) (s : State) : Result :=
  if !(regOk s false m.vd && addrOk s m.va m.sb) then illegalOperand s
  else .next (complete (writeV m.vd.toNat s.active (fun l => homeOfAddr s (laneAddr s m.va m.sb l)) s.spend))

/-- The split's earlier writes to MANTLE pages are durable (15 R253, 14 R244): none is on its way, and none was lost (22 R342). -/
def mantleDurable (s : State) : Bool :=
  s.g.sp.strands.isEmpty && !((ownPackets s).any fun p => pteMantle p.pte)
    && !(ownAccesses s).any fun a => a.kind.writes && a.lanes.any fun l => pteMantle l.pte

/-- A fence may issue: no load, atomic or deque operation that it orders before later accesses is still to be performed, and with
.sc no access at all (14 Table 14.6); at .mantle scope, but for .acq, every earlier write of the split to a MANTLE page is durable (R253). -/
def fenceHolds (sc : Scope) (o : Order) (s : State) : Bool :=
  let durable := sc != .mantle || mantleDurable s
  match o with
  | .acq => (ownAccesses s).isEmpty
  | .ar => (ownAccesses s).isEmpty && durable
  | .rel => durable
  | _ => (releaseTokens sc s).isEmpty && durable

/-- What a fence leaves: with .rel and .ar, later writes wait for the earlier accesses to D(S); later loads do not (R238). -/
def fenceAfter (sc : Scope) (o : Order) (s : State) : State :=
  match o with
  | .rel | .ar => postFence sc s
  | _ => s

def execFence (sc : Scope) (o : Order) (s : State) : Result :=
  if !fenceOrder o then illegalInstruction s
  else if fenceHolds sc o s then .next (complete (fenceAfter sc o s)) else .next s

end Sys2Proof.Machine
end

