-- ==== Sys2Proof/Machine/Place.lean ====
section
/-! DEFINITION. Where a lease lies in a core's scratchpad (spec/07 R134, spec/09 R149, spec/13 R229, spec/15 R269). -/

namespace Sys2Proof.Machine

/-- Two runs of bytes meet. -/
def runsMeet (a m b n : Nat) : Bool := a < b + n && b < a + m

/-- No lease of a core, released ones that copies still address included, meets a run (15 R270). -/
def runFree (s : State) (core base len : Nat) : Bool :=
  base + len ≤ Config.scratchBytes && s.leases.all fun l => l.core != core || l.saved.isSome || !runsMeet base len l.base l.len

/-- A free run of a length, beginning at a multiple of 128 bytes: the one that the core offers when it is free, else the
lowest (log 12). -/
def freeRun (s : State) (core len : Nat) : Option Nat :=
  let b := 128 * Config.leasePlace s.free
  if runFree s core b len then some b
  else (firstFrom (fun i => runFree s core (128 * i) len) (Config.scratchBytes / 128) 0).map (128 * ·)

/-- A new lease of a team; its contents are those that the scratchpad holds (01 R20). -/
def grantLease (team core base len : Nat) (s : State) : State :=
  { s with leases := s.leases ++ [{ id := s.fresh, team := team, core := core, base := base, len := len }], fresh := s.fresh + 1,
           free := s.free + 1 }

end Sys2Proof.Machine
end

