-- ==== Sys2Proof/Machine/Sync.lean ====
section
/-! DEFINITION. Class 6: atomics, reductions, deques, teams, barriers, waits, signals, leases, SEAM, WAITC (spec/15 R254
to R270, spec/10 R170, R171, R173, spec/11 R190, spec/19 R308). -/

namespace Sys2Proof.Machine

/-! ### Returning atomics and deque operations (R254 to R256, R258, R259) -/

/-- An element register: a pair with W = 1 (R254). -/
def elemRegs (w : Bool) (n : VReg) : List Nat := if w then [n.toNat, n.toNat + 1] else [n.toNat]

/-- A lane's element of a source register or pair. -/
def elemOf (s : State) (w : Bool) (n : VReg) (l : Nat) : Nat :=
  (srcLane s n.toNat l).toNat + if w then (srcLane s (n.toNat + 1) l).toNat * 2 ^ 32 else 0

/-! ### Deque descriptors (R258) -/

/-- Fields of a descriptor (15 Table 15.4). -/
def dqTop (s : State) (d : Nat) : Nat := readPa s d 8
def dqBottom (s : State) (d : Nat) : Nat := readPa s (d + 8) 8
def dqBase (s : State) (d : Nat) : Nat := readPa s (d + 16) 8
def dqLog (s : State) (d : Nat) : Nat := readPa s (d + 24) 1
def dqSize (s : State) (d : Nat) : Nat := (dqBottom s d + 2 ^ 64 - dqTop s d) % 2 ^ 64

/-- The pages of a descriptor's element array, each with the bytes of it that belong to the array. -/
def dqPages (base bytes : Nat) : List (Nat × Nat) :=
  (List.range ((base % 2 ^ 16 + bytes + 2 ^ 16 - 1) / 2 ^ 16)).map fun i =>
    let lo := max base (base / 2 ^ 16 * 2 ^ 16 + i * 2 ^ 16)
    (lo, min (base + bytes) (base / 2 ^ 16 * 2 ^ 16 + (i + 1) * 2 ^ 16) - lo)

/-- The bytes of the elements that a descriptor names as it stands: what a deque operation counts as touching, beside the descriptor,
in the orders of 14 Table 14.2 (log 97). -/
def dqArray (s : State) (d : Nat) : List (Nat × Nat) :=
  if 20 < dqLog s d then []
  else (dqPages (dqBase s d) (8 * 2 ^ dqLog s d)).filterMap fun e =>
    match translate s (homeOfPa d) s.g.ctx e.1 with
    | .ok pa _ _ => some (pa, e.2)
    | _ => none

/-- What an access touches beside its lanes: the elements of deques. -/
def elemsOf (k : AccessKind) (as : List LaneAccess) (s : State) : List (Nat × Nat) :=
  match k with
  | .dqpush _ | .dqpop _ | .dqsteal _ => as.flatMap fun a => dqArray s a.pa
  | _ => []

/-! ### The SA format -/

/-- What an access of the SA format does and where its operands stand. -/
structure SaForm where
  kind : AccessKind
  /-- Destination registers. -/
  dst : List Nat
  /-- Source registers beside the address. -/
  src : List Nat
  ok : Bool
  vs : Nat := 0
  x : Nat → Nat := fun _ => 0
  c : Nat → Nat := fun _ => 0

/-- Does an order code hold the access until earlier ones are performed, and later ones until it is (14 Table 14.5)? -/
def acqScope (sc : Scope) (o : Order) : Option Scope := match o with
  | .acq | .ar | .sc => some sc
  | _ => none

/-- What an access of the SA format waits for (14 R232, R237): a release fence comes before every later atomic and deque operation
(14 Table 14.6). -/
def saWaits (f : SaForm) (rel : Option Scope) (as : List LaneAccess) (s : State) : List Nat :=
  s.g.sp.fence.foldl (fun l x => addNew x l) (accessWaits rel as f.kind.size (elemsOf f.kind as s) s)

/-- The access in place, of the lanes whose home is the split's: poison is consumed, or one step for each lane follows in
lane order; the split issues no clause before the last one (R255). -/
def saHere (f : SaForm) (m : SA) (as : List LaneAccess) (s : State) : Result :=
  let rel := relScope m.scope m.order
  match as.filter (linePoisoned s) with
  | a :: _ => .next (consumePoison a.lane (BitVec.ofNat 64 a.va) s)
  | [] =>
    let before := match rel with
      | some sc => releaseTokens sc s
      | none => []
    let t := addAccess { id := 0, owners := [], kind := f.kind, vd := m.vd.toNat, vs := f.vs
                         lanes := as.map fun a => { a with x := f.x a.lane, c := f.c a.lane }
                         after := saWaits f rel as s, held := !before.isEmpty, mantle := mantleRelease rel before
                         elems := elemsOf f.kind as s, undo := some s.g.sp
                         block := true, pc := instrPc s, hdr := s.g.sp.pc, mask := s.active } s
    let t1 := match acqScope m.scope m.order with
      | some sc => t.setSp fun sp => { sp with acquire := sp.acquire ++ [(some sc, s.fresh)] }
      | none => t
    .next (completeSafe t1)

/-- An instruction of the SA format (R254, R255, R259). One that would consume poison first waits for the accesses that it
must follow. -/
def saAccess (f : SaForm) (m : SA) (s : State) : Result :=
  if !(f.ok && addrOk s m.va m.sb) then illegalOperand s
  else withLiveSet m.ls s fun live =>
    if s.active = 0 then .next (completeSafe s)
    else withAccess (laneForm s m.va m.sb false f.kind.size .write true) s fun as =>
      let here := as.filter fun a => homeOfPa a.pa == s.g.sp.home
      let hit := here.filter (linePoisoned s)
      if here.any (mirrorAwaited s) || (!hit.isEmpty && !(saWaits f (relScope m.scope m.order) hit s).isEmpty) then .next s
      else
        divideByHome as { live := live, keep := live.withRegs f.dst, ls := m.ls.toNat,
                          tail := makeTail s (addrRegs m.va m.sb ++ f.src ++ f.dst) [m.sb] } (saHere f m) s.spend

/-- A returning atomic with an operation code of 15 Table 15.3. -/
def atomicAccess (op : Nat) (m : SA) (s : State) : Result :=
  let cas := op == 9
  saAccess { kind := .atomic op m.w64, dst := elemRegs m.w64 m.vd,
             src := elemRegs m.w64 m.vx ++ if cas then elemRegs m.w64 m.vc else [],
             ok := regOk s m.w64 m.vd && regOk s m.w64 m.vx && (!cas || regOk s m.w64 m.vc),
             x := elemOf s m.w64 m.vx, c := if cas then elemOf s m.w64 m.vc else fun _ => 0 } m s

def execAtadd (m : SA) (s : State) : Result := atomicAccess 0 m s
def execAtmin (m : SA) (s : State) : Result := atomicAccess 1 m s
def execAtmax (m : SA) (s : State) : Result := atomicAccess 2 m s
def execAtminu (m : SA) (s : State) : Result := atomicAccess 3 m s
def execAtmaxu (m : SA) (s : State) : Result := atomicAccess 4 m s
def execAtand (m : SA) (s : State) : Result := atomicAccess 5 m s
def execAtor (m : SA) (s : State) : Result := atomicAccess 6 m s
def execAtxor (m : SA) (s : State) : Result := atomicAccess 7 m s
def execAtxch (m : SA) (s : State) : Result := atomicAccess 8 m s
def execAtcas (m : SA) (s : State) : Result := atomicAccess 9 m s
def execAtfadd (m : SA) (s : State) : Result := atomicAccess 10 m s

/-- DQPUSH: status in the destination, the element in v data of the extension (R259). -/
def execDqpush (m : SA) (s : State) : Result :=
  saAccess { kind := .dqpush m.w64, dst := [m.vd.toNat], src := elemRegs m.w64 m.vx,
             ok := regOk s false m.vd && regOk s m.w64 m.vx, x := elemOf s m.w64 m.vx } m s

/-- DQPOP and DQSTEAL: the element in the destination, the status in v compare (R259). -/
def dequeTake (k : AccessKind) (m : SA) (s : State) : Result :=
  saAccess { kind := k, dst := elemRegs m.w64 m.vd ++ [m.vc.toNat], src := [],
             ok := regOk s m.w64 m.vd && regOk s false m.vc, vs := m.vc.toNat } m s

def execDqpop (m : SA) (s : State) : Result := dequeTake (.dqpop m.w64) m s
def execDqsteal (m : SA) (s : State) : Result := dequeTake (.dqsteal m.w64) m s

/-! ### Posted reductions (R257, 04 R80) -/

/-- One combining step of a reduction, by its opcode less 0x10 (R257, R80). -/
def reduceStep (op a b : Nat) : Nat :=
  match op with
  | 0 => (a + b) % 2 ^ 32
  | 1 => if signedOf 32 b < signedOf 32 a then b else a
  | 2 => if signedOf 32 a < signedOf 32 b then b else a
  | 3 => a &&& b
  | 4 => a ||| b
  | 5 => a ^^^ b
  | 6 => (addF32 (BitVec.ofNat 32 a) (BitVec.ofNat 32 b)).1.toNat
  | _ => (addF64 (BitVec.ofNat 64 a) (BitVec.ofNat 64 b)).1.toNat

/-- Bytes of a reduction's word. -/
def reduceBytes (op : Nat) : Nat := if op = 7 then 8 else 4

/-- A word joins those of its packet: same-address words combine in order (R80). -/
def combineWord (op : Nat) (ws : List (Nat × Nat)) (w : Nat × Nat) : List (Nat × Nat) :=
  if ws.any fun x => x.1 == w.1 then ws.map fun x => if x.1 = w.1 then (x.1, reduceStep op x.2 w.2) else x else ws ++ [w]

/-- Packets of a reduction: one for each home and line (13 R225). -/
def reducePackets (s : State) (op : Nat) (as : List LaneAccess) : List Packet :=
  (linesOf as).map fun ln =>
    let here := onLine ln as
    { id := 0, src := 0, dst := ln.1, pte := lineLeaf here, priv := anyPrivate s here,
      body := .reduce op (here.foldl (fun ws a => combineWord op ws (a.pa, a.x)) []) }

/-- A posted reduction (R257): the order is .rlx or .rel. -/
def memReduce (op : Nat) (m : MMS) (s : State) : Result :=
  let n := reduceBytes op
  if m.order != .rlx && m.order != .rel then illegalInstruction s
  else if !(dataOk s n m.vd && addrOk s m.va m.sb) then illegalOperand s
  else if s.active = 0 then .next (complete s)
  else withAccess (laneForm s m.va m.sb false n .write false) s fun as =>
    if !hasRoom .post s then .next s
    else
      let xs := as.map fun a => { a with x := dataOf s.g.lane n m.vd.toNat a.lane }
      .next (complete (postOperation .post (relScope m.scope m.order) none (reducePackets s op xs) s.spend))

def execRdadd (m : MMS) (s : State) : Result := memReduce 0 m s
def execRdmin (m : MMS) (s : State) : Result := memReduce 1 m s
def execRdmax (m : MMS) (s : State) : Result := memReduce 2 m s
def execRdand (m : MMS) (s : State) : Result := memReduce 3 m s
def execRdor (m : MMS) (s : State) : Result := memReduce 4 m s
def execRdxor (m : MMS) (s : State) : Result := memReduce 5 m s
def execRdfadd (m : MMS) (s : State) : Result := memReduce 6 m s
def execRddadd (m : MMS) (s : State) : Result := memReduce 7 m s

/-! ### Teams (R260 to R263) -/

/-- A whole-group instruction (10 R167): the divergent-synchronisation trap comes before every check of R246. -/
def wholeGroup (s : State) (k : Result) : Result := if converged s then k else trapAt 0x0D 3 0 0 s

/-- TRAPADDR of a team fault (R260): the record's virtual address, a launch record's physical one, 0 for no team. -/
def teamAddress (s : State) : DWord :=
  match s.g.team with
  | none => 0
  | some r => if paTier r = 0 ∧ paOffset r < Config.parkingBytes then BitVec.ofNat 64 r else s.g.teamVa

/-- The team fault (R260). -/
def teamFault (addr : DWord) (s : State) : Result := trapAt 0x0E 3 0 addr s

/-- The uniform address of an SS instruction, with its checks (R246). -/
def uniform (s : State) (a : DWord) (size : Nat) (need : Need) (k : LaneAccess → Result) : Result :=
  withAccess { lanes := [0], addr := fun _ => a.toNat, size := size, need := need } s fun as =>
    match as with
    | x :: _ => k x
    | [] => .next s

/-- A record that TJOIN refuses (R261). -/
def joinRefused (s : State) (r : Nat) : Bool :=
  !recReservedOk s r || recExpected s r == 0xFFFF || recMembers s r == 0xFFFFFFFF

/-- The records of launch teams in use (09 R152, R155). -/
def teamRecords (s : State) : List Nat := s.homes.flatMap fun h => h.2.records

/-- A group has its record, or a split, on a package. -/
def Group.liesOn (pkg : Nat) (g : Group) : Bool := homePkg g.baseHome == pkg || g.splits.any fun sp => homePkg sp.home == pkg

/-- The identities of the teams that have their records, or members, on a package, and of its launch teams. -/
def teamIds (s : State) (pkg : Nat) : List Word :=
  (s.groups.filter fun g => match g.team with
    | some r => paPkg r == pkg || g.liesOn pkg
    | none => false).map (·.teamId)
    ++ ((teamRecords s).filter fun r => paPkg r == pkg).map fun r => BitVec.ofNat 32 (recTeamId s r)

/-- The first of the offered identities, and then of all, that a test allows. -/
def freshWord (s : State) (ok : Word → Bool) : Word :=
  let c := Config.freshIdentity s.fresh
  if ok c then c
  else BitVec.ofNat 32 ((firstFrom (fun i => ok (BitVec.ofNat 32 i)) 65536 0).getD 65536)

/-- A fresh team identity (R261, log 9). -/
def freshTeamId (s : State) (pkg : Nat) : Word := freshWord s fun w => w != 0xFFFFFFFF && !(teamIds s pkg).contains w

/-- The update of a join, and the joiner's registers (R261); the record's leaf is `pte`. -/
def joinTeam (pte r : Nat) (va : DWord) (s : State) : State :=
  let first := recMembers s r == 0
  let id : Word := if first then freshTeamId s (paPkg r) else BitVec.ofNat 32 (recTeamId s r)
  let s1 := if first then deviceStore pte (r + 20) 4 id.toNat s else s
  let s2 := deviceStore pte (r + 16) 4 (recMembers s r + 1) s1
  let s3 := setBarrier pte r (recGen s r) (recExpected s r + 1) (recArrived s r) s2
  { s3 with g := { s3.g with team := some r, teamVa := va, teamPte := pte, teamId := id, note := none }, fresh := s3.fresh + 1 }

/-- The group is on the anchor core of a team's lease, or the team holds none (R261). -/
def onAnchorCore (r : Nat) (s : State) : Bool :=
  match s.leases.find? fun l => l.team == r && !l.dead with
  | none => true
  | some l => s.g.sp.part.map partCore == some l.core

/-- TJOIN and TLEAVE stall: they are .ar atomics at .fab on the 64 bytes of a record (14 Table 14.7). -/
def recordWaits (priv : Bool) (r : Nat) (s : State) : Bool :=
  !((releaseTokens .fab s).isEmpty && s.g.sp.fence.isEmpty) || mustPrecede s priv [(r, 64)]

/-- After an update of a record on a MIRROR page, later accesses wait until its copies are accepted: only then is the update
performed (25 R368, 14 R237). -/
def acquireRecord (r : Nat) (s : State) : State :=
  let copies := (s.mirrors.filter fun m => anyOverlap m.2.body.ranges [(mirrorOf s r, 64)]).map fun m => (some Scope.fab, m.2.id)
  s.setSp fun sp => { sp with acquire := sp.acquire ++ copies.filter fun a => !sp.acquire.contains a }

/-- An instruction that reaches the record of its group's team; in a diagnostic group, whose team's record is homed memory too, it raises the
anchor trap (R260, 08 R135). -/
def withRecord (acc : Nat) (s : State) (k : Nat → Result) : Result :=
  match s.g.team with
  | none => teamFault 0 s
  | some r => if s.g.diag then trapAt 0x0A acc 0 (teamAddress s) s else k r

/-- TJOIN (R261). What it reads of a record closes the open runs there (14 R241, 18 R292). -/
def execTjoin (a : SReg) (s : State) : Result :=
  wholeGroup s (uniform s (readS s a) 64 .write fun x =>
    if s.g.team = some x.pa then .next (complete s)
    else if recordWaits (isPrivate s x.va) x.pa s then .next s
    else
      let s1 := closeLine x.pa (match s.g.team with
        | some r => acquireRecord r (leaveTeam s)
        | none => s)
      if joinRefused s1 x.pa then teamFault (readS s a) s1
      else if !onAnchorCore x.pa s1 then trapAt 0x0A 1 0 (readS s a) s1
      else .next (complete (acquireRecord x.pa (joinTeam x.pte x.pa (readS s a) s1))))

def execTleave (s : State) : Result :=
  wholeGroup s (match s.g.team with
    | none => .next (complete s)
    | some r =>
      if s.g.diag then trapAt 0x0A 1 0 (teamAddress s) s
      else if recordWaits (isPrivate s s.g.teamVa.toNat) r s then .next s
      else .next (complete (acquireRecord r (leaveTeam s))))

/-! ### Barriers (R264, R265) -/

/-- The arrival of a group at its team's barrier: a release at .fab (14 Table 14.7). -/
def postArrival (r : Nat) (s : State) : State :=
  postOperation .sync (some .fab) none [{ id := 0, src := 0, dst := homeOfPa r, pte := s.g.teamPte, priv := isPrivate s s.g.teamVa.toNat, body := .arrive r true }] s

def execBarrive (s : State) : Result :=
  wholeGroup s (withRecord 1 s fun r => if !hasRoom .sync s then .next s else .next (complete (postArrival r s)))

/-! ### Waiting (R266) -/

/-- The wait that is left of a BARWAIT, BARSYNC, GENWAIT or SIGWAIT (R266). An anchored split registers it in place. A
roaming one moves to the home of the word first, and parks there when its own work is done (log 21). Its evaluation is an access to
the word, which ends the runs of its line (18 R292). Behind a pre-emption request the split stops in the wait (21 R324). `priv` says
that the word is private memory of the group. A split that parks at the home where it runs has no home to wait at, and parks whether or not
the area has room (13 R228; DESIGN CHOICE, log 111). -/
def waitFor (w : Wait) (priv : Bool) (b : Baggage) (s : State) : Result :=
  let reg (parks : Bool) : State :=
    let t := closeLine w.pa s
    t.setSp fun sp =>
    let stops := wantsStop t.g && !waitHolds t w
    let x : Split := { sp with status := .waiting, wait := some w, woken := waitHolds t w, keep := b.keep, live := b.live, ls := b.ls,
                               stopped := sp.stopped || stops, wonly := sp.wonly || stops }
    if parks then packed t t.g b.live b.ls { x with part := none } else x
  if mustPrecede s priv [(w.pa, w.size)] then .next s
  else if staysPut s then .next (reg false)
  else if homeOfPa w.pa ≠ s.g.sp.home then .next (s.setSp (bindFor (homeOfPa w.pa) b))
  else if !(countersZero s.g.sp && (ownAccesses s).isEmpty) then .next s
  else .next (reg true)

/-- The wait of a barrier: for the generation after the note (R265). -/
def barrierWait (ls : BitVec 6) (live : LiveSet) (s : State) : Result :=
  withRecord 0 s fun r =>
    if counter .sync s.g.sp ≠ 0 then .next s
    else match s.g.note with
      | none => teamFault (teamAddress s) s
      | some n => waitFor { pa := r + 4, cond := .gen (n + 1) } (isPrivate s s.g.teamVa.toNat) { live := live, ls := ls.toNat, tail := {} } s

def execBarwait (ls : BitVec 6) (s : State) : Result :=
  withLiveSet ls s fun live => wholeGroup s (barrierWait ls live s)

/-- BARSYNC arrives once and then waits; WONLY marks that the arrival has been made (R265, 21 R324). -/
def execBarsync (ls : BitVec 6) (s : State) : Result :=
  withLiveSet ls s fun live => wholeGroup s (
    if s.g.sp.wonly then barrierWait ls live s
    else withRecord 1 s fun r =>
      if !hasRoom .sync s then .next s
      else .next ((postArrival r s).setSp fun sp => { sp with wonly := true }))

/-- A wait on a word that the split names (R267, R268). -/
def wordWait (ls : BitVec 6) (a b : SReg) (size : Nat) (cond : DWord → WaitCond) (s : State) : Result :=
  withLiveSet ls s fun live =>
    uniform s (srcScalar s a) size .read fun x =>
      waitFor { pa := x.pa, cond := cond (srcScalar s b) } (isPrivate s x.va)
        { live := live, ls := ls.toNat, tail := makeTail s [] [a, b] } s.spend

def execGenwait (ls : BitVec 6) (a b : SReg) (s : State) : Result := wordWait ls a b 4 (fun x => .gen (x.setWidth 32)) s
def execSigwait (ls : BitVec 6) (a b : SReg) (s : State) : Result := wordWait ls a b 8 .sig s

/-- SIGDEC posts a decrement, a release at .sys (R268). -/
def execSigdec (a b : SReg) (s : State) : Result :=
  uniform s (readS s a) 8 .write fun x =>
    if !hasRoom .sync s then .next s
    else .next (complete (postOperation .sync (some .sys) none
      [{ id := 0, src := 0, dst := homeOfPa x.pa, pte := x.pte, priv := isPrivate s x.va, body := .decrement x.pa (readS s b).toNat }] s.spend))

/-! ### Leases (R269, R270) -/

/-- The lease fault (R269): the group of a diagnostic card holds its diagnostic lease in place of another (08 R135). -/
def leaseFault (x : DWord) (s : State) : Result := trapAt 0x0F 3 0 x s

def execLease (a : SReg) (s : State) : Result :=
  wholeGroup s (
    let n := (readS s a).toNat
    match s.g.team, s.g.sp.part with
    | some r, some p =>
      if s.g.diag ∨ 1 < recMembers s r ∨ (leaseOf s s.g).isSome ∨ n % 128 ≠ 0 ∨ n = 0 ∨ Config.scratchBytes < n then
        leaseFault (readS s a) s
      else match freeRun s (partCore p) n with
        | none => leaseFault (readS s a) s
        | some base => .next (complete (grantLease r (partCore p) base n s))
    | _, _ => leaseFault (readS s a) s)

def execUnlease (s : State) : Result :=
  wholeGroup s (match s.g.team with
    | none => .next (complete s)
    | some r =>
      if (leaseOf s s.g).isNone then .next (complete s)
      else if counter .copy s.g.sp ≠ 0 then .next s
      else .next (complete (releaseLease r s)))

/-! ### SEAM (10 R170, R171, R173, 11 R190) -/

/-- Lanes of some splits. -/
def lanesOfSplits (js : List Split) : LaneSet := js.foldl (fun m x => m ||| x.lanes) 0

/-- JOIN: the split arrives, and waits unless the seam is complete; a roaming split that waits is parked (R170, R173). Beside a split
that a pre-emption request has stopped at the seam it waits (21 Table 21.3). -/
def seamJoin (k : Nat) (s : State) : State :=
  let x := s.g.seam k
  let rec' : Seam := { arrived := x.arrived ||| s.g.sp.lanes, cohort := x.cohort ||| s.g.sp.lanes }
  let s1 := (completeSafe s).setSp fun sp => { sp with status := .atSeam, seam := k }
  let s2 := { s1 with g := s1.g.setSeam k rec' }
  if rec'.arrived = rec'.cohort ∧ !s.g.sibs.any (fun y => joinsAt k s.g y && y.stopped) then rejoin k s2
  else if staysPut s then s2
  else s2.setSp fun sp => packed s2 s2.g sp.live sp.ls { sp with part := none }

/-- MERGE: the splits that wait at the seam are absorbed (R170, R171). -/
def seamMerge (k : Nat) (s : State) : State :=
  let js := s.g.sibs.filter (joinsAt k s.g)
  let x := s.g.seam k
  let rec' : Seam := { arrived := x.arrived &&& ~~~lanesOfSplits js, cohort := x.cohort ||| s.g.sp.lanes }
  let s1 := completeSafe s
  joinSplits s1.g.sp s1.g.sp.idx js { s1 with g := s1.g.setSeam k rec' }

def execSeam (ls : BitVec 6) (mode : SeamMode) (k : BitVec 4) (s : State) : Result :=
  withLiveSet ls s fun live =>
    let s1 := s.spend.setSp fun sp => { sp with keep := live, live := live, ls := ls.toNat }
    match mode with
    | .arm =>
      let x := s.g.seam k.toNat
      .next (completeSafe { s1 with g := s1.g.setSeam k.toNat { x with cohort := x.cohort ||| s.g.sp.lanes } })
    | .join => .next (seamJoin k.toNat s1)
    | .merge => .next (seamMerge k.toNat s1)

/-! ### WAITC (19 R308) -/

/-- WAITC waits in place until a counter is at or below n. -/
def execWaitc (c : Ctr) (n : BitVec 6) (s : State) : Result :=
  if counter c s.g.sp ≤ n.toNat then .next (complete s) else .next s

end Sys2Proof.Machine
end

