-- ==== Sys2Proof/Machine/Home.lean ====
section
/-! DEFINITION. Home engines: acceptance of packets, the hot-line combiner, mirrors, acknowledgements, the end of an ordering
hold (spec/13 R224, R225, spec/14 R231, R237, R243, R244, spec/15 R264, spec/18 R291, R292, spec/25 R368 to R370). -/

namespace Sys2Proof.Machine

/-! ### Paths between packages (25 R363, R365, R366) -/

/-- The crossings of items from one package to another (R365): posted and control packets, copies for mirrors, jackets. -/
def crossings (s : State) (p q : Nat) : List (Nat × Crossing) :=
  let packet (x : Packet) : Option (Nat × Crossing) :=
    if homePkg x.src == p && homePkg x.dst == q then x.cross.map fun c => (x.cls, c) else none
  let jacket (x : Split) : Option (Nat × Crossing) := match x.sent, x.cross with
    | some (h, _), some c => if homePkg h == p && homePkg x.home == q then some (1, c) else none
    | _, _ => none
  s.packets.filterMap packet ++ (s.mirrors.map (·.2)).filterMap packet ++ s.groups.flatMap fun g => (g.sp :: g.sibs).filterMap jacket

/-- Items of a class that a package has sent to another, and those of them that the other's window has released (R365). -/
def sentItems (s : State) (p q cls : Nat) : Nat := Cells.get 0 (s.pkg p).sent (4 * q + cls)
def freedItems (s : State) (p q cls : Nat) : Nat := Cells.get 0 (s.pkg q).freed (4 * p + cls)
def unreleased (s : State) (p q cls : Nat) : Nat := sentItems s p q cls - freedItems s p q cls

/-- An item has reached its destination home's package, and the window there has released it (R365). -/
def crossed (s : State) (p q cls : Nat) (x : Option Crossing) : Bool :=
  p == q || match x with
    | some c => c.seq < freedItems s p q cls
    | none => false

/-- Traffic takes the two-hop path while no direct link is up, and on a retrained link until the items on that path have left it
(R365). -/
def takesDetour (s : State) (p q : Nat) : Bool :=
  !directLink s p q || (crossings s p q).any fun c => c.2.detour && freedItems s p q c.1 ≤ c.2.seq

/-- One more item leaves a package for another: its crossing; none while no path leads there or 2048 items are unreleased (R365,
R366). -/
def sendItem (p q cls : Nat) (s : State) : Option (Crossing × State) :=
  if reachable s p q && unreleased s p q cls < 2048 then
    some ({ seq := sentItems s p q cls, detour := takesDetour s p q },
      s.setPkg p fun k => { k with sent := Cells.set 0 k.sent (4 * q + cls) (sentItems s p q cls + 1) })
  else none

/-- The window releases the next item in sequence (R365). -/
def releaseItem (p q cls : Nat) (s : State) : State :=
  if freedItems s p q cls < sentItems s p q cls then
    s.setPkg q fun k => { k with freed := Cells.set 0 k.freed (4 * p + cls) (freedItems s p q cls + 1) }
  else s

/-- An item that crosses and is released in one step: a line of a copy, or a copy of a write that its home takes with it (14 R244). It
can, once every item before it has been released. -/
def passes (s : State) (src dst cls : Nat) : Bool :=
  homePkg src == homePkg dst || (reachable s (homePkg src) (homePkg dst) && unreleased s (homePkg src) (homePkg dst) cls == 0)
def passItem (src dst cls : Nat) (s : State) : State :=
  let p := homePkg src
  let q := homePkg dst
  if p = q then s
  else match sendItem p q cls s with
    | some (_, t) => releaseItem p q cls t
    | none => s

/-! ### Mirrors (25 R368, R370) -/

/-- A write of n bytes by a home engine, with its copy. -/
def homeWrite (id : Nat) (gid : Option Word) (pte pa n x : Nat) (s : State) : State :=
  forward id gid pa n pte (writePaN s pa n x)

/-- A home engine counts an atomic, a reduction or a deque operation from a source home on a page of its movable-page table, named by its
leaf (25 R375). -/
def countUse (home src pte : Nat) (s : State) : State :=
  let listed := (s.home home).movable.filter fun e => s.mem.readN e.1 8 == pte
  if listed.isEmpty then s
  else s.setHome home fun h =>
    { h with counts := listed.foldl (fun cs e =>
        if cs.any fun c => c.1 == e.1 && c.2.1 == src then
          updateWhere (fun c => c.1 == e.1 && c.2.1 == src) (fun c => (c.1, c.2.1, c.2.2 + 1)) cs
        else cs ++ [(e.1, src, 1)]) h.counts }

/-- The copies numbered from `n` on belong to an operation of a group (25 R368). -/
def claimCopies (n : Nat) (p : Packet) (s : State) : State :=
  { s with mirrors := s.mirrors.map fun m => if n ≤ m.2.id && m.2.gid.isNone then (m.1, { m.2 with id := p.id, gid := p.gid }) else m }

/-! ### The hot-line combiner (18 R292, 14 R241) -/

/-- The memory word of a run as it stands once the folded value is added. -/
def putRun (r : Run) (s : State) : State := putMemory (bytesAt r.pa (leBytes r.size (reduceStep r.op r.base r.value))) s

/-- A word of a reduction packet joins its run, opens one in a free slot, or is applied at once (R292). -/
def foldWord (op pa x : Nat) (s : State) : State :=
  let h := homeOfPa pa
  let n := reduceBytes op
  let named (r : Run) : Bool := r.pa == pa && r.op == op
  match (s.home h).runs.find? named with
  | some r =>
    let r' : Run := { r with value := reduceStep op r.value x, count := r.count + 1 }
    closeRuns h (fun r => 16 ≤ r.count) (putRun r' (s.setHome h fun k => { k with runs := updateWhere named (fun _ => r') k.runs }))
  | none =>
    let r : Run := { pa := pa, op := op, size := n, base := s.mem.readN pa n, value := x, count := 1 }
    if (s.home h).runs.length < 32 then putRun r (s.setHome h fun k => { k with runs := k.runs ++ [r] })
    else noteRun (putRun r s) r

/-- A reduction applied at once, on a page whose results go to a mirror, or to a device register. -/
def reduceNow (id : Nat) (gid : Option Word) (pte op pa x : Nat) (s : State) : State :=
  let s1 := closeLine pa s
  homeWrite id gid pte pa (reduceBytes op) (reduceStep op (readPa s1 pa (reduceBytes op)) x) s1

/-- The words of a reduction (R225, R292): one arrival at its line. Open runs of the line that it does not name close first, since it
would stand between their arrivals (14 R241, log 98). -/
def applyReduce (id : Nat) (gid : Option Word) (pte op : Nat) (ws : List (Nat × Nat)) (s : State) : State :=
  match ws with
  | [] => s
  | w :: _ =>
    if pteMirror pte || 2 ≤ paTier w.1 then ws.foldl (fun s w => reduceNow id gid pte op w.1 w.2 s) s
    else ws.foldl (fun s w => foldWord op w.1 w.2 s)
      (closeRuns (homeOfPa w.1) (fun r => r.pa / 64 == w.1 / 64 && !(r.op == op && ws.any fun x => x.1 == r.pa)) s)

/-- HOT_LINE_RUN_CLOSE: the engine closes the runs of an address (R292). -/
def execHotLineRunClose (home : Nat) (pa : Nat) (s : State) : Result := .next (closeRuns home (fun r => r.pa == pa) s)

/-! ### Finished operations -/

/-- Something of an operation is still to be accepted. -/
def packetsLeft (s : State) (id : Nat) : Bool := s.packets.any (fun p => p.id == id) || s.mirrors.any fun m => m.2.id == id

/-- A group that has retired holds no work of an engine any more (09 R159). -/
def dropGhost (g : Group) : Group := if g.life == .ghost && g.copies.isEmpty && g.mtx.isEmpty && g.accs.isEmpty then {} else g

/-- Ghosts whose last work is done vanish. -/
def dropGhosts (s : State) : State :=
  purgeLeases { s with g := dropGhost s.g, others := (s.others.map dropGhost).filter fun g => g.life != .vacant }

/-- The splits of a group that wait in place for an operation go on (21 R316). -/
def endAwait (gid : Word) (id : Nat) (s : State) : State :=
  s.mapGroups fun g =>
    if g.gid == gid then g.mapSplits fun sp => if sp.await == some id then { sp with await := none, status := sp.resumed g } else sp
    else g

/-- The last packet of an operation has been accepted: its counter falls, an engine's operation that waited for it is
over (18 R285), and so is the wait of a handler's private store (21 R316). An arrival that returns a generation waits for its
acknowledgement (15 R264). -/
def operationAccepted (gid : Option Word) (id : Nat) (s : State) : State :=
  if packetsLeft s id then s
  else
    let ended (x : Group) : Group :=
      { x with mtx := x.mtx.filter (fun o => !(o.id == id && o.sent)), copies := x.copies.filter fun c => !(c.id == id && c.wrote) }
    let s1 := match gid with
      | none => s
      | some g =>
        let t := s.mapGroups fun x => if x.gid == g then ended x else x
        let u := endAwait g id t
        if u.groups.any fun x => x.gid == g && x.acks.any fun a => a.1 == id then u else finishOp g id u
    dropGhosts (settle id s1)

/-! ### Acceptance (13 R224, R225) -/

/-- Address and leaf that a packet's acceptance reaches. -/
def Payload.address : Payload → Nat
  | .store bs => (bs.head?.map (·.1)).getD 0
  | .reduce _ ws => (ws.head?.map (·.1)).getD 0
  | .addWords _ ws => (ws.head?.map (·.1)).getD 0
  | .arrive pa _ => pa
  | .decrement pa _ => pa
  | .parent pa _ _ => pa
  | .poison pa => pa
  | .fence => 0

/-- The generation that an arrival is counted to goes back to its group (15 R264). -/
def returnNote (p : Packet) (r : Nat) (gen : Nat) (s : State) : State :=
  s.mapGroups fun g => if some g.gid == p.gid && g.life != .vacant then
    { g with acks := g.acks ++ [(p.id, r, BitVec.ofNat 32 gen)] } else g

/-- The bytes of a store, with their copy. -/
def applyStore (p : Packet) (bs : List (Nat × Byte)) (s : State) : State :=
  let pa := p.body.address
  let s1 := writePa (closeLine pa s) bs
  if !pteMirror p.pte then s1
  else if isDegraded s1 pa p.pte then (match p.gid with
    | some g => noteDegraded g s1
    | none => s1)
  else
    let c : Packet := { p with src := p.dst, dst := homeOfPa (mirrorOf s pa), cross := none, seq := s1.fresh,
                               body := .store (bs.map fun b => (mirrorOf s b.1, b.2)) }
    { s1.nextId with mirrors := s1.mirrors ++ [(c.dst, c)] }

/-- The effect of a packet at its home, one step of the home order (14 R231). -/
def applyPacket (p : Packet) (s : State) : State :=
  match p.body with
  | .store bs => applyStore p bs s
  | .reduce op ws => countUse p.dst p.src p.pte (applyReduce p.id p.gid p.pte op ws s)
  | .addWords int ws => countUse p.dst p.src p.pte (applyReduce p.id p.gid p.pte (if int then 0 else 6) ws s)
  | .arrive pa note =>
    let s1 := closeLine pa s
    let gen := recGen s1 pa
    let s2 := claimCopies s1.fresh p (applyArrival p.ctx p.pte pa s1)
    let s3 := match p.gid with
      | some g => if isDegraded s pa p.pte then noteDegraded g s2 else s2
      | none => s2
    if note then returnNote p pa gen s3 else s3
  | .decrement pa x =>
    let s1 := closeLine pa s
    homeWrite p.id p.gid p.pte pa 8 ((readPa s1 pa 8 + 2 ^ 64 - x % 2 ^ 64) % 2 ^ 64) s1
  | .parent pa child cpte => applyParentArrival p.ctx p.pte pa child cpte (closeLine pa s)
  | .poison pa => setLinePoison true (pa / 64) s
  | .fence => s

/-- A posted write to host memory waits for its acknowledgement at the port (14 R243). -/
def awaitRoce (p : Packet) (s : State) : State :=
  match p.gid with
  | some g => if paTier p.body.address = 2 then { s with roce := s.roce ++ [{ home := p.dst, gid := g, id := p.id }] } else s
  | none => s

/-- The home that holds the other copy of a MANTLE page (25 R368); none for another page, or one with a single copy (R370). -/
def mantleHome (s : State) (pa pte : Nat) : Option Nat :=
  if pteMantle pte && !isDegraded s pa pte then some (homeOfPa (mirrorOf s pa)) else none

/-- A release at .mantle scope whose own write lies on a MANTLE page is performed only together with its copy (14 R244), behind the
copies of earlier writes of the same home: can it be? -/
def mantleReady (s : State) (release : Bool) (pa pte : Nat) : Bool :=
  !release || match mantleHome s pa pte with
    | some h => passes s (homeOfPa pa) h 0 && takesTraffic s h && !s.mirrors.any fun m => m.1 == h && m.2.src == homeOfPa pa
    | none => true

/-- What a copy brings to its mirror home: bytes, or poison (25 R368, 22 R338). -/
def applyCopy (p : Packet) (s : State) : State :=
  match p.body with
  | .store bs => storeBytes s bs
  | .poison pa => setLinePoison true (pa / 64) s
  | _ => s

/-- The copies of an operation are taken by their home in the step of the write itself (14 R244). -/
def takeCopies (id : Nat) (s : State) : State :=
  let own (m : Nat × Packet) : Bool := m.2.id == id
  (s.mirrors.filter own).foldl (fun t m => applyCopy m.2 (passItem m.2.src m.1 0 t)) { s with mirrors := s.mirrors.filter fun m => !own m }

/-- A packet is accepted: applied, and off its queue (R224). -/
def acceptPacket (p : Packet) (rest : List Packet) (s : State) : State :=
  let t := applyPacket p { s with packets := rest }
  operationAccepted p.gid p.id (awaitRoce p (if p.mantle.isSome && pteMantle p.pte then takeCopies p.id t else t))

/-- In-place accesses to a line are pending, deque operations whose elements may lie there among them. -/
def lineAwaited (s : State) (l : Nat) : Bool :=
  s.groups.any fun g => g.accs.any fun a => (a.lanes.any fun x => x.pa / 64 == l) || anyOverlap a.elems [(64 * l, 64)]

/-- A page in CUTOVER at a home: its move (25 R373). -/
def cutoverMove (s : State) (home pa : Nat) : Option PageMove :=
  (s.home home).mv.filter fun m => m.cutover && m.old ≤ pa && pa < m.old + m.size

/-- An address of a moved page at its new frame. -/
def PageMove.shift (m : PageMove) (pa : Nat) : Nat := if m.old ≤ pa ∧ pa < m.old + m.size then m.new + (pa - m.old) else pa

/-- A packet bound for a page of a move is bound for its new home; its place among the others stays (25 R373, R374). -/
def redirectPacket (m : PageMove) (p : Packet) : Packet :=
  let f (x : Nat) : Nat := m.shift x
  if f p.body.address = p.body.address then p
  else
    { p with
      dst := homeOfPa (f p.body.address)
      cross := none
      body := match p.body with
        | .store bs => .store (bs.map fun b => (f b.1, b.2))
        | .reduce op ws => .reduce op (ws.map fun w => (f w.1, w.2))
        | .addWords i ws => .addWords i (ws.map fun w => (f w.1, w.2))
        | .arrive pa n => .arrive (f pa) n
        | .decrement pa x => .decrement (f pa) x
        | .parent pa c k => .parent (f pa) c k
        | .poison pa => .poison (f pa)
        | .fence => .fence }

/-- The packets of a source that wait at a home for a page in CUTOVER are issued again to its new home. -/
def redirectFrom (src : Nat) (m : PageMove) (s : State) : State :=
  { s with packets := s.packets.map fun p => if p.src == src then redirectPacket m p else p }

/-- A packet in its egress queue. -/
def inQueue (src dst : Nat) (p : Packet) : Bool := p.src == src && p.dst == dst && !p.held && p.after.isEmpty

/-- An address of the page of a move, at either frame. -/
def PageMove.names (m : PageMove) (pa : Nat) : Bool := (m.old ≤ pa && pa < m.old + m.size) || (m.new ≤ pa && pa < m.new + m.size)

/-- An earlier packet of the same source for the same page in CUTOVER is still to be accepted or redirected at another home (25 R374). -/
def behindMove (s : State) (p : Packet) : Bool :=
  s.homes.any fun h => match h.2.mv with
    | some m => m.cutover && m.names p.body.address && s.packets.any fun q =>
        q.src == p.src && q.dst != p.dst && q.seq < p.seq && inQueue q.src q.dst q && m.names q.body.address
    | none => false

/-- A posted release whose own copy is taken with it (14 R244). -/
def Packet.withCopy (p : Packet) : Bool := p.mantle.isSome && pteMantle p.pte

/-- In class 0 packets and copies for mirrors go from one home to another in the order in which they entered the queue (14 R235, 25 R368):
an earlier copy comes before a packet, and an earlier packet before a copy, but for a release that waits for copies itself (log 112). -/
def copyBefore (s : State) (p : Packet) : Bool := p.cls == 0 && s.mirrors.any fun m => m.2.src == p.src && m.1 == p.dst && m.2.seq < p.seq
def packetBefore (s : State) (c : Packet) : Bool :=
  s.packets.any fun q => inQueue c.src c.dst q && q.cls == 0 && q.seq < c.seq && !q.withCopy

/-- The first packet of a class in a queue arrives: `k` accepts it, unless its home answers REDIRECT for a page that has moved (25
R373) or, of a release at .mantle scope, its copy cannot be taken yet (14 R244). -/
def arrivePacket (src dst cls : Nat) (k : Packet → List Packet → State → State) (s : State) : State :=
  match takeFirst (fun p => inQueue src dst p && p.cls == cls) s.packets with
  | none => s
  | some (p, rest) =>
    if !(takesTraffic s dst && crossed s (homePkg src) (homePkg dst) cls p.cross) || copyBefore s p || behindMove s p then s
    else match cutoverMove s dst p.body.address with
      | some m => redirectFrom src m s
      | none => if mantleReady s p.mantle.isSome p.body.address p.pte then k p rest s else s

/-- The first packet of a class in a queue that is still to cross leaves its package (25 R365). -/
def crossPacket (src dst cls : Nat) (s : State) : State :=
  let first (p : Packet) : Bool := inQueue src dst p && p.cls == cls && p.cross.isNone
  if homePkg src = homePkg dst || !s.packets.any first then s
  else match sendItem (homePkg src) (homePkg dst) cls s with
    | some (c, t) => { t with packets := updateFirst first (fun p => { p with cross := some c }) t.packets }
    | none => s

/-- The first copy that one home holds for another and that is still to cross leaves its package (25 R365, R368). -/
def crossMirror (src dst : Nat) (s : State) : State :=
  let first (m : Nat × Packet) : Bool := m.1 == dst && m.2.src == src && m.2.cross.isNone
  if homePkg src = homePkg dst || !s.mirrors.any first then s
  else match sendItem (homePkg src) (homePkg dst) 0 s with
    | some (c, t) => { t with mirrors := updateFirst first (fun m => (m.1, { m.2 with cross := some c })) t.mirrors }
    | none => s

/-- PACKET_ACCEPT (R224): the destination accepts the first posted packet of a source. -/
def execPacketAccept (src dst : Nat) (s : State) : Result := .next (arrivePacket src dst 0 acceptPacket s)

/-- The home engine's step for a packet of a class fails, and fails again when it is repeated: the packet counts as accepted, and the line
is poisoned (22 R330). The poison is found once the accesses pending at the line are performed (log 99). -/
def failPacket (src dst cls : Nat) (s : State) : State :=
  arrivePacket src dst cls (fun p rest t =>
    if lineAwaited t (p.body.address / 64) || 2 ≤ paTier p.body.address then t
    else poisonBoth p.gid p.body.address p.pte (acceptPacket p rest t)) s

/-- REDIRECT (25 R373): a source issues its packets for a moved page again. -/
def execRedirect (src dst : Nat) (s : State) : Result :=
  match (s.home dst).mv with
  | some m => .next (if m.cutover then redirectFrom src m s else s)
  | none => .next s

/-- HIERARCHICAL_ARRIVAL (09 R154): the arrival of a completed child record is applied to its parent record. -/
def execHierarchicalArrival (src dst : Nat) (s : State) : Result := .next (arrivePacket src dst 3 acceptPacket s)

/-- ARRIVAL_ACKNOWLEDGE (15 R264): SYNC falls and the arrival note is valid, once the copy of the record's update is accepted too (25
R368). A note of a team that the group has left is not
kept (log 23). -/
def execArrivalAcknowledge (gid : Word) (s : State) : Result :=
  match focusGroup gid s with
  | none => .next s
  | some s1 =>
    match s1.g.acks with
    | [] => .next s1
    | (id, r, gen) :: rest =>
      if packetsLeft s1 id then .next s1
      else
      let note := if s1.g.team = some r then some gen else s1.g.note
      .next (finishOp gid id { s1 with g := { s1.g with acks := rest, note := note } })

/-! ### In-place accesses that wait for their mirror -/

/-- In-place accesses whose lanes are all performed and whose copies are accepted are over (25 R368). -/
def closeAccesses (s : State) : State :=
  let done (a : Access) : Bool := a.lanes.isEmpty && !s.mirrors.any fun m => m.2.id == a.id
  let ids := (s.groups.flatMap (·.accs)).filter done |>.map (·.id)
  ids.foldl (fun s i => settle i s) (s.mapGroups fun g => { g with accs := g.accs.filter fun a => !done a }) |> dropGhosts

/-- MIRROR_COPY_ACCEPT (25 R368, 22 R342): a mirror home takes its next copy; the write is then accepted and durable. -/
def execMirrorCopyAccept (home : Nat) (s : State) : Result :=
  let first (m : Nat × Packet) : Bool := (s.mirrors.find? fun x => x.1 == home && x.2.src == m.2.src) == some m
  let here (m : Nat × Packet) : Bool :=
    m.1 == home && takesTraffic s home && crossed s (homePkg m.2.src) (homePkg home) 0 m.2.cross && first m && !packetBefore s m.2
  match takeFirst here s.mirrors with
  | none => .next s
  | some ((_, p), rest) => .next (closeAccesses (operationAccepted p.gid p.id (applyCopy p { s with mirrors := rest })))

/-- ROCE_ACKNOWLEDGEMENT (14 R243): the oldest acknowledgement that a home's port waits for arrives. -/
def execRoceAcknowledgement (home : Nat) (s : State) : Result :=
  match takeFirst (fun (r : RoceWait) => r.home == home) s.roce with
  | none => .next s
  | some (r, rest) => .next (settle r.id { s with roce := rest })

/-! ### The end of an ordering hold (14 R237, R238) -/

/-- A held packet that the hold end of a split lets go: one charged to it, or, of its group, one charged to no split any more. One that a
division left charged to several splits goes with the hold end of any (10 R166). -/
def heldFor (s : State) (gid : Word) (sp : Nat) (p : Packet) : Bool :=
  p.held && p.gid == some gid && match s.groups.find? fun g => g.life != .vacant && g.gid == gid with
    | none => true
    | some g => (g.splits.any fun x => x.idx == sp && chargedTo g x p) || g.splits.all fun x => !chargedTo g x p

/-- A held access that the hold end of a split lets go. -/
def Access.heldFor (sp : Nat) (a : Access) : Bool := a.held && (a.owners.contains sp || a.owners.isEmpty)

/-- The copies of writes to MANTLE pages that no mirror has taken yet. -/
def mantleCopies (s : State) : List Nat :=
  (s.mirrors.filter fun m => pteMantle m.2.pte).foldl (fun l m => addNew (2 * m.2.id) l) []

/-- Releases at .mantle scope whose earlier accesses are performed wait for the copies of the writes that those accesses may have
seen (14 R244). -/
def awaitMantle (gid : Word) (sp : Nat) (s : State) : State :=
  let w := mantleCopies s
  let access (a : Access) : Access :=
    if a.heldFor sp && a.after.isEmpty && a.mantle == some false then { a with after := w, mantle := some true } else a
  let packet (p : Packet) : Packet :=
    if heldFor s gid sp p && p.after.isEmpty && p.mantle == some false then { p with after := w, mantle := some true } else p
  { s.mapGroups (fun g => if g.gid == gid then { g with accs := g.accs.map access } else g) with packets := s.packets.map packet }

/-- Every ready packet of the split enters its egress queue, in order; what waits for a release fence whose accesses are performed
goes on (R238). -/
def releasePackets (gid : Word) (sp : Nat) : Nat → State → State
  | 0, s => s
  | n + 1, s =>
    match takeFirst (fun p => p.after.isEmpty && heldFor s gid sp p) s.packets with
    | none => s
    | some (p, rest) =>
      releasePackets gid sp n (match p.body with
        | .fence => settle p.id { s with packets := rest }
        | _ => { s.nextId with packets := rest ++ [{ p with held := false, seq := s.fresh }] })

/-- The word at the split's place is that of a FENCE in class 3 (15 R253). -/
def atFence (sp : Split) : Bool :=
  match decode sp.clause.hdr.cls (sp.clause.words.drop sp.clause.pos) with
  | .ok (.fence _ _) => true
  | _ => false

/-- The held packets and accesses of a split, and those of its group that no split holds any more, go on. -/
def endHolds (gid : Word) (sp : Nat) (s : State) : State :=
  let s1 := awaitMantle gid sp s
  (releasePackets gid sp s1.packets.length s1).mapGroups fun g =>
    if g.gid == gid then { g with accs := g.accs.map fun a => if a.heldFor sp && a.after.isEmpty then { a with held := false } else a }
    else g

/-- ORDERING_HOLD_END (R237, R238): held releases and accesses of a split whose earlier accesses are performed go on, and a
FENCE that waits issues. -/
def execOrderingHoldEnd (gid : Word) (sp : Nat) (s : State) : Result :=
  let s1 := endHolds gid sp s
  match focus gid sp s1 with
  | none => .next s1
  | some s2 =>
    .next (if s2.g.sp.clause.stage == .issued && s2.g.sp.status == .runnable && atFence s2.g.sp then s2.push [.run gid sp] else s2)

/-! ### Translation and ECC (13 R212, 22 R338) -/

/-- TRANSLATION_WALK_DONE (13 R212): a home's translation unit holds what the walk found, the absence of a leaf too (21 R322). -/
def execTranslationWalkDone (home : Nat) (ctx : Nat) (va : Nat) (s : State) : Result :=
  let e := leafOf (walk s ctx va)
  let base := va / e.2 * e.2
  .next (s.setHome home fun h =>
    { h with tlb := (h.tlb.filter fun x => !(x.1 == ctx && x.2.1 == base && x.2.2.2 == e.2)) ++ [(ctx, base, BitVec.ofNat 64 e.1, e.2)] })

/-- UNCORRECTABLE_ECC_ERROR (22 R338): a granule of 22 Table 22.4 is poisoned. An error in a line is found once the accesses pending
at the line are performed, so that a load consumes its poison precisely (22 R339, log 99). A poisoned line of a mirror is rewritten from
the primary copy (25 R369). -/
def execUncorrectableEccError (site : EccSite) (s : State) : Result :=
  let inGroup (gid : Word) (f : Group → Group) : State :=
    s.mapGroups fun g => if g.life != .vacant && g.gid == gid then f g else g
  match site with
  | .line pa =>
    if lineAwaited s (pa / 64) then .next { s with agenda := s.agenda ++ [.eccError site] }
    else .next { setLinePoison true (pa / 64) s with agenda := s.agenda ++ [.mirrorRepair (pa / 64 * 64)] }
  | .scratch core o => .next (s.setCore core fun c => { c with poison := Cells.set false c.poison (o / 4) true })
  | .tileRow gid row => .next (inGroup gid fun g => { g with poisonTile := Cells.set false g.poisonTile row true })
  | .vreg gid reg lane => .next (inGroup gid fun g => { g with poisonV := Cells.set false g.poisonV (vkey reg lane) true })
  | .sreg gid split reg => .next (inGroup gid fun g => g.mapSplits fun sp =>
      if sp.idx == split then { sp with poisonS := Cells.set false sp.poisonS reg true } else sp)
  | .preg gid reg => .next (inGroup gid fun g => g.mapSplits fun sp => { sp with poisonP := Cells.set false sp.poisonP reg true })

end Sys2Proof.Machine
end

