-- ==== Sys2Proof/Machine/InPlace.lean ====
section
/-! DEFINITION. In-place accesses as their home performs them: loads line by line, atomics and deque operations lane by lane
(spec/14 R231, spec/15 R248, R255, R258, R259, spec/10 R181, spec/22 R339, spec/25 R368, R369). -/

namespace Sys2Proof.Machine

/-! ### Operations (15 Table 15.3) -/

/-- The new value of a returning atomic (R255). -/
def atomicNew (op : Nat) (w : Bool) (old x c : Nat) : Nat :=
  let n := if w then 64 else 32
  match op with
  | 0 => (old + x) % 2 ^ n
  | 1 => if signedOf n x < signedOf n old then x else old
  | 2 => if signedOf n old < signedOf n x then x else old
  | 3 => min old x
  | 4 => max old x
  | 5 => old &&& x
  | 6 => old ||| x
  | 7 => old ^^^ x
  | 8 => x
  | 9 => if old = c then x else old
  | _ => if w then (addF64 (BitVec.ofNat 64 old) (BitVec.ofNat 64 x)).1.toNat
         else (addF32 (BitVec.ofNat 32 old) (BitVec.ofNat 32 x)).1.toNat

/-! ### The splits of an access -/

/-- A lane that some split of the access still holds. -/
def laneOwned (g : Group) (a : Access) (l : Nat) : Bool :=
  g.splits.any fun sp => a.owners.contains sp.idx && sp.lanes.getLsbD l

/-- Changes the splits to which an access belongs. -/
def mapOwners (a : Access) (f : Split → Split) (g : Group) : Group :=
  g.mapSplits fun sp => if a.owners.contains sp.idx then f sp else sp

/-- The splits to which an instruction may still go back learn the values of a load too (10 R180). -/
def tellUndo (id : Nat) (vals : List (Nat × Nat × Nat)) (g : Group) : Group :=
  { g with accs := g.accs.map fun x => { x with undo := x.undo.map (Split.fillTraces id vals) } }

/-- An access is over: its split issues again, and waits for no value of it. -/
def finishAccess (a : Access) (s : State) : State :=
  let g := tellUndo a.id [] { s.g with accs := s.g.accs.filter fun x => x.id != a.id }
  let wake (sp : Split) : Split := { sp.fillTraces a.id [] with status := if a.stall && sp.status == .waiting then sp.resumed g else sp.status }
  dropGhosts (settle a.id { s with g := mapOwners a wake g })

/-! ### An instruction without effect (22 R339, 25 R373) -/

/-- The accesses of the same instruction: the lines of one load. -/
def Access.withIt (a x : Access) : Bool := x.id == a.id || (a.load != 0 && x.load == a.load)

/-- No lane of an access's instruction has been performed, and its split waits for it: the instruction may still have no effect. -/
def unbegun (g : Group) (a : Access) : Bool :=
  a.undo.isSome && laneSetOf (((g.accs.filter a.withIt).flatMap (·.lanes)).map (·.lane)) == a.mask

/-- The accesses of an instruction that has no effect are gone, and its split stands before it again. -/
def undoAccess (a : Access) (s : State) : State :=
  let back (sp : Split) : Split := match a.undo with
    | some u => { u.undo sp with status := if a.stall && sp.status == .waiting then sp.resumed s.g else sp.status }
    | none => sp
  let gone := (s.g.accs.filter a.withIt).map (·.id)
  gone.foldl (fun t i => settle i t)
    { s with g := mapOwners a back { s.g with accs := s.g.accs.filter fun x => !a.withIt x } }

/-- REDIRECT of an in-place access (25 R373): it takes no effect, and the instruction runs again from translation. -/
def rerunAccess (a : Access) (s : State) : State :=
  let t := undoAccess a s
  { t with g := mapOwners a Split.again t.g }

/-! ### Poison (22 R339) -/

/-- Poison that a step meets once its instruction has begun: the error is reported to the split that holds the lane and taken before its
next clause, since instructions after the access may have taken effect (log 24). -/
def reportPoison (a : Access) (l : LaneAccess) (s : State) : State :=
  let t : TrapRec := { code := 0x22, acc := 0, lane := l.lane, addr := BitVec.ofNat 64 l.va, pc := a.pc, hdr := a.hdr, mask := a.mask }
  let tell (sp : Split) : Split := if sp.lanes.getLsbD l.lane && sp.err.isNone then { sp with err := some t } else sp
  finishAccess a { s with g := mapOwners a tell s.g }

/-- A whole line takes the bytes of another, and loses its poison (22 R338). -/
def rewriteLine (src dst : Nat) (s : State) : State := storeBytes s (bytesAt (dst / 64 * 64) (Cells.getMany 0 s.mem (src / 64 * 64) 64))

/-- A reader meets a line with one poisoned copy: on a mirrored page a sound mirror serves it and the primary line is rewritten, and a
poisoned line of the mirror is rewritten from the primary (25 R369). -/
def repairLine (a : LaneAccess) (s : State) : State :=
  if !hasMirror s a || poisonedLine s (a.pa / 64) == poisonedLine s (mirrorOf s a.pa / 64) || !mirrorAtHand s a then s
  else if poisonedLine s (a.pa / 64) then rewriteLine (mirrorOf s a.pa) a.pa s
  else rewriteLine a.pa (mirrorOf s a.pa) s

/-! ### Loads (R248) -/

/-- A loaded value in its register. -/
def extendLoad (n : Nat) (sgn : Bool) (x : Nat) : Nat := if sgn then (signedOf (8 * n) x % 2 ^ 32).toNat else x

/-- The words that a load watches, with the values it loaded (10 R181). -/
def watchWords (s : State) (n : Nat) (ls : List LaneAccess) : List (Nat × Nat) :=
  ls.flatMap fun l => (List.range ((n + 3) / 4)).map fun i => (l.pa / 4 * 4 + 4 * i, readPa s (l.pa / 4 * 4 + 4 * i) 4)

/-- Poison that is met before the first lane: it is consumed precisely, and the instruction has no effect (R339). -/
def consumeAt (a : Access) (l : LaneAccess) (s : State) : State :=
  let t := undoAccess a s
  match a.owners with
  | [] => t
  | i :: _ => match focusSplit i t.g with
    | none => t
    | some g => consumePoison l.lane (BitVec.ofNat 64 l.va) { t with g := g }

/-- Registers that an access writes. -/
def Access.writtenRegs (a : Access) : List Nat :=
  match a.kind with
  | .load n _ => dataRegs n (BitVec.ofNat 7 a.vd)
  | .atomic _ w => elemRegs w (BitVec.ofNat 7 a.vd)
  | .dqpush _ => [a.vd]
  | .dqpop w | .dqsteal w => a.vs :: elemRegs w (BitVec.ofNat 7 a.vd)

/-- One step of a load: every lane of its line (R231, R248). -/
def performLoad (a : Access) (n : Nat) (sgn : Bool) (s : State) : State :=
  let s1 := match a.lanes with
    | l :: _ => closeLine l.pa (repairLine l s)
    | [] => s
  let live := a.lanes.filter fun l => laneOwned s1.g a l.lane
  let g := live.foldl (fun g l => putData n a.vd l.lane (extendLoad n sgn (readPa s1 l.pa n)) g) s1.g
  let seen := (dataRegs n (BitVec.ofNat 7 a.vd)).flatMap fun r => live.map fun l => (0, vkey r l.lane, (g.lane r l.lane).toNat)
  let note (sp : Split) : Split :=
    { sp.fillTraces a.id seen with
              lastLoad := if sp.lastLoad.load == a.load then { sp.lastLoad with words := sp.lastLoad.words ++ watchWords s1 n a.lanes }
                          else sp.lastLoad }
  dropTagged s.g.gid (if live.isEmpty then [] else a.writtenRegs) (finishAccess a { s1 with g := tellUndo a.id seen (mapOwners a note g) })

/-! ### Deques (R258, R259) -/

/-- The pages of a deque's elements translate with W = 1 to the descriptor's home (R258). -/
def dequePages (s : State) (home base bytes : Nat) : Bool :=
  base + bytes ≤ 2 ^ 56 && (dqPages base bytes).all fun e =>
    match resolve s home s.g.ctx s.g.sup false .write e.1 with
    | .ok (pa, _) => homeOfPa pa == home
    | .error _ => false

/-- A malformed descriptor (R258). -/
def dqMalformed (s : State) (d : Nat) : Bool :=
  readPa s (d + 25) 39 != 0 || 20 < dqLog s d || dqBase s d % 8 != 0 || 2 ^ dqLog s d < dqSize s d
    || !dequePages s (homeOfPa d) (dqBase s d) (8 * 2 ^ dqLog s d)

/-- Physical address and leaf of element k (R258). -/
def dqElem (s : State) (d k : Nat) : Option (Nat × Nat) :=
  match resolve s (homeOfPa d) s.g.ctx s.g.sup false .write (dqBase s d + 8 * (k % 2 ^ dqLog s d)) with
  | .ok x => some x
  | .error _ => none

/-- The element that a lane's operation reaches, with its leaf: none when it reaches none (R259). -/
def dequeElem (k : AccessKind) (l : LaneAccess) (s : State) : Option LaneAccess :=
  let d := l.pa
  let at' (n : Nat) : Option LaneAccess := (dqElem s d n).map fun e => { l with pa := e.1, pte := e.2 }
  if dqMalformed s d then none
  else match k with
    | .dqpush _ => if dqSize s d = 2 ^ dqLog s d then none else at' (dqBottom s d)
    | .dqpop _ => if dqSize s d = 0 then none else at' (dqBottom s d + 2 ^ 64 - 1)
    | .dqsteal _ => if dqSize s d = 0 then none else at' (dqTop s d)
    | _ => none

/-- Status, element and the state after one lane's deque operation (R259). -/
def dequeStep (id : Nat) (k : AccessKind) (l : LaneAccess) (s : State) : Nat × Nat × State :=
  let d := l.pa
  let w (pte pa x : Nat) (t : State) : State := homeWrite id (some s.g.gid) pte pa 8 (x % 2 ^ 64) t
  if dqMalformed s d then (2, 0, s)
  else match dequeElem k l s with
    | none => (0, 0, s)
    | some e =>
      let s1 := closeLine e.pa (repairLine e s)
      match k with
      | .dqpush _ => (1, 0, w l.pte (d + 8) (dqBottom s d + 1) (w e.pte e.pa l.x s1))
      | .dqpop _ => (1, readPa s1 e.pa 8, w l.pte (d + 8) (dqBottom s d + 2 ^ 64 - 1) s1)
      | _ => (1, readPa s1 e.pa 8, w l.pte d (dqTop s d + 1) s1)

/-! ### One lane of an atomic or deque operation -/

/-- A lane's result enters a 32-bit register or a pair. -/
def putElem (w : Bool) (reg l x : Nat) (g : Group) : Group := putData (if w then 8 else 4) reg l x g

/-- One lane's step (R255, R259). -/
def performLane (a : Access) (l : LaneAccess) (s : State) : State :=
  let s1 := countUse (homeOfPa l.pa) s.g.sp.home l.pte (closeLine l.pa (repairLine l s))
  let own := laneOwned s1.g a l.lane
  let put (f : Group → Group) (t : State) : State := if own then dropTagged t.g.gid a.writtenRegs { t with g := f t.g } else t
  match a.kind with
  | .load _ _ => s1
  | .atomic op w =>
    let n := if w then 8 else 4
    let old := readPa s1 l.pa n
    put (putElem w a.vd l.lane old) (homeWrite a.id (some s1.g.gid) l.pte l.pa n (atomicNew op w old l.x l.c) s1)
  | .dqpush _ =>
    let r := dequeStep a.id a.kind l s1
    put (putData 4 a.vd l.lane r.1) r.2.2
  | .dqpop w | .dqsteal w =>
    let r := dequeStep a.id a.kind l s1
    put (fun g => putData 4 a.vs l.lane r.1 (putElem w a.vd l.lane r.2.1 g)) r.2.2

/-- The access after a lane's step: the other lanes follow, or it is over once its copies are accepted. A release at .mantle scope on a
MANTLE page has its copy taken in the same step (14 R244). -/
def afterLane (a : Access) (l : LaneAccess) (rest : List LaneAccess) (s : State) : State :=
  let s := if a.mantle.isSome && pteMantle l.pte then takeCopies a.id s else s
  if rest.isEmpty && !s.mirrors.any (fun m => m.2.id == a.id) then finishAccess a s
  else
    let next (x : Access) : Access := if x.id == a.id then { x with lanes := rest } else x
    { s with g := { s.g with accs := s.g.accs.map next } }

/-- What one lane's step reads: its own bytes, and the element of a deque. -/
def laneReads (k : AccessKind) (l : LaneAccess) (s : State) : List LaneAccess :=
  l :: match k with
    | .dqpush _ => []
    | k => (dequeElem k l s).toList

/-- What the lanes of an access read, in their order, each with what the lanes before it leave: so the elements of a deque operation are
those that its lanes reach one after another. -/
def lanesRead (a : Access) : List LaneAccess → State → List (LaneAccess × LaneAccess)
  | [], _ => []
  | l :: rest, s => (laneReads a.kind l s).map (fun x => (l, x)) ++ lanesRead a rest (performLane a l s)

/-- What the next step of an access is to look at: every lane of a load's line; every lane of another access before its first one, so that
the instruction may still have no effect; after that, the lane in turn (22 R339, log 24). -/
def stepReads (a : Access) (l : LaneAccess) (s : State) : List (LaneAccess × LaneAccess) :=
  match a.kind with
  | .load _ _ => a.lanes.map fun x => (x, x)
  | _ => if unbegun s.g a then lanesRead a a.lanes s else lanesRead a [l] s

/-- Some lane of an access reaches a page in CUTOVER, whose home answers REDIRECT (25 R373). -/
def redirected (a : Access) (s : State) : Bool := a.lanes.any fun x => (cutoverMove s (homeOfPa x.pa) x.pa).isSome

/-- The next step of an access can be performed: nothing redirects it, no line that it reads is poisoned, and of a release at .mantle scope
its copy can be taken with it (14 R244). -/
def stepReady (a : Access) (l : LaneAccess) (s : State) : Bool :=
  !(redirected a s && unbegun s.g a) && !((stepReads a l s).any fun x => mirrorAwaited s x.2 || linePoisoned s x.2)
    && match a.kind with
      | .load _ _ => true
      | _ => mantleReady s a.mantle.isSome l.pa l.pte

/-- The next step of an access whose turn has come: it is performed, or redirected, or it consumes poison, or it waits for the mirror of
a poisoned line. -/
def performAccess (a : Access) (s : State) : State :=
  match a.lanes with
  | [] => s
  | l :: rest =>
    if stepReady a l s then (match a.kind with
      | .load n sgn => performLoad a n sgn s
      | _ => afterLane a l rest (performLane a l s))
    else if redirected a s && unbegun s.g a then rerunAccess a s
    else if (stepReads a l s).any fun x => mirrorAwaited s x.2 then s
    else match (stepReads a l s).find? fun x => linePoisoned s x.2 with
      | some p => if unbegun s.g a then consumeAt a p.1 s else reportPoison a p.1 s
      | none => s

/-- The accesses of a focused group that nothing holds. -/
def readyAccess (id : Nat) (g : Group) : Option Access := (g.accs.find? fun a => a.id == id).filter fun a => !a.held && a.after.isEmpty

/-- IN_PLACE_ACCESS_COMPLETE (R231): a home performs the next step of an access that nothing holds (R232, R237). -/
def execInPlaceAccessComplete (gid : Word) (access : Nat) (s : State) : Result :=
  match focusGroup gid s with
  | none => .next s
  | some s1 =>
    match readyAccess access s1.g with
    | none => .next s1
    | some a => .next (performAccess a s1)

/-- The lines that a lane's step writes: its own, and a pushed element's. -/
def laneWrites (k : AccessKind) (l : LaneAccess) (s : State) : List LaneAccess :=
  l :: match k with
    | .dqpush _ => (dequeElem k l s).toList
    | _ => []

/-- The home engine's step of an atomic or deque operation fails, and fails again when it is repeated: the lane's step counts as
performed, and the lines that it writes are poisoned (22 R330, log 99). A step that is not performed does not fail. -/
def failAccess (gid : Word) (access : Nat) (s : State) : State :=
  match focusGroup gid s with
  | none => s
  | some s1 =>
    match readyAccess access s1.g with
    | none => s1
    | some a =>
      match a.kind, a.lanes with
      | .load _ _, _ | _, [] => s1
      | _, l :: _ =>
        if 2 ≤ paTier l.pa || !stepReady a l s1 then s1
        else (laneWrites a.kind l s1).foldl (fun t x => poisonBoth (some gid) x.pa x.pte t) (performAccess a s1)

end Sys2Proof.Machine
end

