-- ==== Sys2Proof/Machine/Tile.lean ====
section
/-! DEFINITION. The tile store of a group: words, rows, poison, and the tile descriptor (spec/13 R230, spec/18 R281, spec/19
R294). Byte b of row r of a group has key r x 256 + b. -/

namespace Sys2Proof.Machine

/-- The n bytes from a byte of a tile row, as a number. -/
def tileN (t : Bytes) (row b n : Nat) : Nat := t.readN (row * 256 + b) n

/-- A 4-byte word of a tile row. -/
def tileWord (t : Bytes) (row w : Nat) : Nat := tileN t row (4 * w) 4

/-- Bytes written into a tile row; a write of the whole row clears its poison (22 R338). -/
def writeRow (row b : Nat) (bs : List Byte) (g : Group) : Group :=
  { g with
    tile := g.tile.write (row * 256 + b) bs
    poisonTile := if bs.length = 256 then Cells.set false g.poisonTile row false else g.poisonTile }

/-- A word written into a tile row. -/
def writeTileWord (row w x : Nat) (g : Group) : Group := writeRow row (4 * w) (leBytes 4 x) g

/-- A tile row as an engine reads it, in one step (14 R231): the row of `g` enters `t`; bytes of a poisoned row have no value (22
R338, log 25). -/
def takeRow (free : Nat) (g : Group) (row : Nat) (t : Bytes) : Bytes :=
  let rest := (t.filter fun e => e.1 < row * 256, t.filter fun e => row * 256 + 256 ≤ e.1)
  let mine := g.tile.filter fun e => row * 256 ≤ e.1 && e.1 < row * 256 + 256
  if Cells.get false g.poisonTile row then
    Bytes.write (rest.1 ++ rest.2) (row * 256) ((List.range 256).map fun b => Config.poisonByte (free * 2 ^ 16 + row * 256 + b))
  else rest.1 ++ mine ++ rest.2

/-- The tile rows that an instruction may name: none once an MREL has issued (19 R301). -/
def rowsHeld (g : Group) : Nat := if g.mtx.any fun o => o.op == 10 then 0 else g.tileRows

/-- A run of n rows with m bytes of each from byte b. -/
structure Extent where
  row : Nat
  rows : Nat
  byte : Nat
  bytes : Nat
  deriving DecidableEq, Repr

/-- The extent lies in the group's rows and in their bytes (18 R281). -/
def Extent.inside (g : Group) (x : Extent) : Bool := x.row + x.rows ≤ rowsHeld g && x.byte + x.bytes ≤ 256

/-- Rows of an extent. -/
def Extent.list (x : Extent) : List Nat := (List.range x.rows).map (x.row + ·)

/-! ### The tile descriptor (19 Table 19.1) -/

def dB0 (d : DWord) : Nat := bits d.toNat 7 0
def dC0 (d : DWord) : Nat := bits d.toNat 13 8
def dD0 (d : DWord) : Nat := bits d.toNat 23 16
def dE0 (d : DWord) : Nat := bits d.toNat 29 24
def dSR (d : DWord) : Nat := bits d.toNat 39 32
def dSC0 (d : DWord) : Nat := bits d.toNat 45 40

/-- The reserved bits are zero. -/
def descOk (d : DWord) : Bool := d &&& 0xFFFFC000C000C000 == 0

/-- A sum of overflows, saturating (04 R78). -/
def satOverflow (x : Word) (n : Nat) : Word := BitVec.ofNat 32 (min 0xFFFFFFFF (x.toNat + n))

/-- A TEPI that is still to write the overflow count has issued before operation `id` (19 R299): one with an empty mask writes none (19
R293), and one that has written it waits for nothing more. -/
def behindTepi (g : Group) (id : Nat) : Bool :=
  g.mtx.any fun o => o.op == 7 && o.id < id && o.act != 0 && match o.outs with
    | none => true
    | some ws => ws.any fun w => w.count.isSome

/-- Operation `id` counts `n` overflows: they wait behind a TEPI that has issued before it (04 R78, 19 R299). -/
def countOverflow (id n : Nat) (g : Group) : Group :=
  if n = 0 then g
  else if behindTepi g id then { g with ovfLate := g.ovfLate ++ [(id, n)] }
  else { g with ovf := satOverflow g.ovf n }

/-- The overflow count is 0 again; what was counted behind the TEPI that wrote it is counted now (19 R299). -/
def clearOverflow (id : Nat) (g : Group) : Group :=
  let g1 := { g with ovf := 0, ovfLate := [], mtx := g.mtx.filter fun o => o.id != id }
  { g.ovfLate.foldl (fun g e => countOverflow e.1 e.2 g) g1 with mtx := g.mtx }

/-- The reuse latch of a partition is emptied (18 R283). -/
def emptyLatch (part : Option Nat) (s : State) : State :=
  match part with
  | some p => s.setPart p fun k => { k with reuse := none }
  | none => s

end Sys2Proof.Machine
end

