-- ==== Sys2Proof/Machine/Matrix.lean ====
section
/-! DEFINITION. Class 4: the matrix unit (spec/18 R277 to R285, spec/19 R293 to R301, spec/04 R73 to R78, spec/22 R331,
R332, R339). An instruction checks, reads its scalars and registers and issues; OPERANDS_CONSUMED reads its operand rows and
COMPLETE its D rows, and then writes its results, one row in each step (14 R231, R242). -/

namespace Sys2Proof.Machine

/-! ### Shapes (18 Table 18.1, 04 Table 4.6) -/

structure Shape where
  m : Nat
  n : Nat
  k : Nat
  e : Nat
  chunk : Nat
  efmts : List Nat

/-- The shape of MMA and MMAZ; MMNP's 0x18 and MCTR's shapes are described where they are used. -/
def shapeOf (c : BitVec 5) : Option Shape :=
  match c.toNat with
  | 0x00 => some ⟨32, 16, 32, 1, 32, [3, 4]⟩
  | 0x01 => some ⟨32, 32, 32, 1, 32, [3, 4]⟩
  | 0x02 => some ⟨16, 16, 32, 1, 32, [3, 4]⟩
  | 0x03 => some ⟨32, 16, 64, 1, 32, [3, 4]⟩
  | 0x08 => some ⟨32, 16, 16, 2, 16, [1, 2]⟩
  | 0x09 => some ⟨32, 32, 16, 2, 16, [1, 2]⟩
  | 0x0A => some ⟨16, 16, 16, 2, 16, [1, 2]⟩
  | 0x0B => some ⟨32, 16, 32, 2, 16, [1, 2]⟩
  | 0x10 => some ⟨32, 8, 8, 4, 1, [0]⟩
  | 0x11 => some ⟨8, 8, 8, 4, 1, [0]⟩
  | 0x12 => some ⟨32, 16, 8, 4, 1, [0]⟩
  | _ => none

/-- A-operand registers of a shape. -/
def Shape.regs (h : Shape) : Nat := h.k * h.e / 4

/-- Blocks of 32 elements along K (R279). -/
def Shape.blocks (h : Shape) : Nat := max 1 (h.k / 32)

/-- The element format of a slot as a floating-point format. -/
def efmtOf (f : Slot) : FFmt :=
  match f.efmt with
  | 0 => fp32
  | 1 => fp16
  | 2 => bf16
  | 3 => e4m3
  | 4 => e5m2
  | _ => fp64

/-- Bytes of an element format. -/
def efmtBytes (n : Nat) : Nat := match n with
  | 0 => 4
  | 1 | 2 => 2
  | 7 => 8
  | _ => 1

/-- Planes of a nested-plane slot (04 R74). -/
def Slot.planes (f : Slot) : Nat := f.pln + 1

/-! ### Extents (R277 to R281, R296 to R300) -/

/-- B, D and scale rows of MMA and MMAZ. -/
def mulExtents (h : Shape) (f : Slot) (trb : Bool) (d : DWord) : List Extent :=
  let b : Extent := if trb then ⟨dB0 d, h.n, 4 * dC0 d, h.k * h.e⟩ else ⟨dB0 d, h.k, 4 * dC0 d, h.n * h.e⟩
  [b, ⟨dD0 d, h.m, 4 * dE0 d, 4 * h.n⟩]
    ++ if f.scale = 2 then [⟨dSR d, 1, 4 * dSC0 d, h.blocks * (32 + h.n)⟩] else []

def planeExtents (f : Slot) (d : DWord) : List Extent := [⟨dB0 d, f.planes, 4 * dC0 d, 64⟩, ⟨dD0 d, 32, 4 * dE0 d, 64⟩]
def mctrExtents (d : DWord) : List Extent := [⟨dB0 d, 8, 4 * dC0 d, 32⟩, ⟨dD0 d, 64, 4 * dE0 d, 32⟩]

/-- Rows and words of TLDV and TSTV (R298). -/
def moveExtents (n : Nat) (trb : Bool) (d : DWord) : List Extent :=
  if trb then [⟨dD0 d, n, 4 * dE0 d, 128⟩] else [⟨dD0 d, 32, 4 * dE0 d, 4 * n⟩]

def tzeroExtents (n : Nat) (d : DWord) : List Extent := [⟨dD0 d, n, 4 * dE0 d, 256 - 4 * dE0 d⟩]
def tepiExtents (n e : Nat) (d : DWord) : List Extent :=
  [⟨dD0 d, 32, 4 * dE0 d, 4 * n⟩, ⟨dB0 d, 32, 4 * dC0 d, n * e⟩, ⟨dSR d, 1, 4 * dSC0 d, 4⟩]
def storeExtents (n : Nat) (d : DWord) : List Extent := [⟨dD0 d, 32, 4 * dE0 d, 4 * n⟩]

/-- Registers, rows or half the words that SHAPE counts (R295). -/
def shapeCount (m : MX) : Nat := m.shape.toNat + 1

/-! ### Issue (R293) -/

/-- What an instruction of class 4 checks and reads. -/
structure MtxForm where
  op : Nat
  m : MX
  legal : Bool := true
  /-- Vector registers: first and number. -/
  regs : Nat × Nat := (0, 0)
  /-- The lanes of them that take part: those below a bound for matrix A (18 R277), the active ones for the others. -/
  part : LaneSet := 0
  /-- A per-tile scale is read from the scalar after the descriptor (R294). -/
  scaled : Bool := false
  extents : List Extent := []
  /-- The shadow checker checks an element when a lane below this number is active (18 R284). -/
  checkedBelow : Nat := 0

/-- The registers read at issue, lane by lane; a poisoned lane has no value (22 Table 22.4, log 25), unless the reuse latch holds it when the
operation reads A (18 R283). -/
def engineRegs (f : MtxForm) (s : State) : Cells Word :=
  (List.range f.regs.2).foldl (fun t q => allLanes.foldl (fun t l =>
    let k := vkey (f.regs.1 + q) l
    Cells.set 0 t k (
      if Cells.get false s.g.poisonV k then
        BitVec.ofNat 32 (leNat ((List.range 4).map fun b => Config.poisonByte (s.free * 2 ^ 16 + k * 4 + b)))
      else s.g.lane (f.regs.1 + q) l)) t) []

/-- The lanes of the registers read that are poisoned and take part; an operation without an active lane reads none (R293). -/
def spoiltRegs (f : MtxForm) (s : State) : List Nat :=
  if s.active = 0 then []
  else ((List.range f.regs.2).map (f.regs.1 + ·)).flatMap fun r => (allLanes.filter fun l => f.part.getLsbD l && Cells.get false s.g.poisonV (vkey r l)).map (vkey r)

/-- Some lanes of rows from `r`. -/
def laneRows (act : LaneSet) (r n : Nat) : List Nat := ((lanesOf act).filter (· < n)).map (r + ·)

/-- Adds the elements of a list that another does not hold. -/
def addRows (xs ys : List Nat) : List Nat := ys.foldl (fun l x => addNew x l) xs

/-- Tile rows that an operation reads before its operands-consumed event, and D rows that it reads after it (18 R282, 19 R293, 22 Table
22.4). -/
def rowsRead (op : Nat) (m : MX) (slot : BitVec 16) (d : DWord) (act : LaneSet) : List Nat × List Nat :=
  let f := slotOf slot
  if act = 0 then ([], [])
  else match op with
    | 0 | 1 => match shapeOf m.shape with
      | some h =>
        (match mulExtents h f m.trb d with
          | b :: _ :: rest => addRows [] (b.list ++ rest.flatMap Extent.list)
          | _ => [], if op = 0 then laneRows act (dD0 d) h.m else [])
      | none => ([], [])
    | 2 => ((List.range f.planes).map (dB0 d + ·), if m.acc then laneRows act (dD0 d) 32 else [])
    | 3 => (addRows [] ((mctrExtents d).flatMap Extent.list), [])
    | 4 => (if m.trb then (List.range (shapeCount m)).map (dD0 d + ·) else laneRows act (dD0 d) 32, [])
    | 7 | 8 | 9 => (laneRows act (dD0 d) 32, [])
    | _ => ([], [])

/-- The operation issues: MATRIX rises and the instruction ends (R293, R285). -/
def issueMatrix (f : MtxForm) (dests : List LaneAccess) (s : State) : State :=
  let chk := f.checkedBelow != 0 && (lanesOf s.active).any fun l => l < f.checkedBelow
  let reads := f.op != 4
  let slot := Cells.get 0 s.g.fs f.m.fs.toNat
  let rows := rowsRead f.op f.m slot (readS s f.m.desc) s.active
  let o : MtxOp := {
    id := s.fresh, sp := s.g.sp.idx, op := f.op, m := f.m, slot := slot, desc := readS s f.m.desc,
    scale := (readS s (f.m.desc + 1)).setWidth 32, act := s.active,
    a := if reads then engineRegs f s else [], dests := dests,
    after := s.g.accs.map (·.id), rows := rows.1, drows := rows.2, spoilt := if reads then spoiltRegs f s else [], part := s.g.sp.part,
    inject := chk && injFires 2 s.g.diaginj, pc := instrPc s, hdr := s.g.sp.pc }
  let s1 := if chk then countInjection 2 s else s
  complete (charge .matrix o.id ({ s1 with g := { s1.g with mtx := s1.g.mtx ++ [o] }, fresh := s1.fresh + 1 }.spend))

/-- The checks of R293 in their order; `k` goes on when they pass and MATRIX has room. -/
def withMatrix (f : MtxForm) (s : State) (k : Result) : Result :=
  let d := readS s f.m.desc
  if !f.legal then illegalInstruction s
  else if !descOk d || s.g.w < f.regs.1 + f.regs.2 || (f.scaled && f.m.desc == 63) then illegalOperand s
  else if !f.extents.all (·.inside s.g) then trapAt 0x0C 3 0 0 s
  else if !hasRoom .matrix s then .next s
  else k

/-- An instruction of class 4 that posts nothing. -/
def runMatrix (f : MtxForm) (s : State) : Result := withMatrix f s (.next (issueMatrix f [] s))

/-- MMA and MMAZ (R296). -/
def mulForm (op : Nat) (m : MX) (s : State) : MtxForm :=
  let f := slotAt s m.fs
  match shapeOf m.shape with
  | none => { op := op, m := m, legal := false }
  | some h => { op := op, m := m, legal := f.multiplyOk h.efmts, regs := (m.a.toNat, h.regs), part := BitVec.ofNat 32 (2 ^ h.m - 1), scaled := f.scale == 1,
                extents := mulExtents h f m.trb (readS s m.desc), checkedBelow := h.m }

def execMma (m : MX) (s : State) : Result := runMatrix (mulForm 0 m s) s
def execMmaz (m : MX) (s : State) : Result := runMatrix (mulForm 1 m s) s

/-- MMNP (R296, R278). -/
def execMmnp (m : MX) (s : State) : Result :=
  let f := slotAt s m.fs
  runMatrix { op := 2, m := m, legal := m.shape == 0x18 && f.multiplyOk [6], regs := (m.a.toNat, f.planes), part := 0xFFFFFFFF,
              extents := planeExtents f (readS s m.desc), checkedBelow := 32 } s

/-- MCTR (R297). -/
def execMctr (m : MX) (s : State) : Result :=
  let f := slotAt s m.fs
  runMatrix { op := 3, m := m, legal := 0x14 ≤ m.shape && m.shape ≤ 0x16 && f.multiplyOk [0],
              extents := mctrExtents (readS s m.desc), checkedBelow := 32 } s

def execTldv (m : MX) (s : State) : Result :=
  runMatrix { op := 4, m := m, regs := (m.a.toNat, shapeCount m), extents := moveExtents (shapeCount m) m.trb (readS s m.desc) } s
def execTstv (m : MX) (s : State) : Result :=
  runMatrix { op := 5, m := m, regs := (m.a.toNat, shapeCount m), part := s.active, extents := moveExtents (shapeCount m) m.trb (readS s m.desc) } s
def execTzero (m : MX) (s : State) : Result :=
  runMatrix { op := 6, m := m, extents := tzeroExtents (shapeCount m) (readS s m.desc) } s

/-- TEPI (R299): the slot names a target format, not nested planes or FP64, and no block scales (R295). -/
def execTepi (m : MX) (s : State) : Result :=
  let f := slotAt s m.fs
  runMatrix { op := 7, m := m, legal := f.generalOk && f.efmt ≤ 5 && f.scale ≤ 1, scaled := f.scale == 1,
              extents := tepiExtents (2 * shapeCount m) (efmtBytes f.efmt) (readS s m.desc) } s

/-! ### TADDST and TSTORE (R300) -/

/-- A lane's address from its register pair. -/
def pairAddr (s : State) (r l : Nat) : Nat := (s.g.lane64 r l).toNat

/-- Runs of words of a lane's range, cut at page boundaries: address, first word, number of words (R300). -/
def laneRuns (va n : Nat) : List (Nat × Nat × Nat) :=
  let k := (2 ^ 16 - va % 2 ^ 16) / 4
  if n ≤ k then [(va, 0, n)] else [(va, 0, k), (va + 4 * k, k, n - k)]

/-- The ranges of the active lanes as R246 steps 1 to 4 check them, lane by lane: entry 2l is the start of lane l's range, entry 2l + 1
the start of its part on the next page (R300). -/
def rangeForm (m : MX) (s : State) : AccessForm :=
  let va (l : Nat) := pairAddr s m.a.toNat l
  { lanes := (lanesOf s.active).flatMap fun l => if 1 < (laneRuns (va l) (2 * shapeCount m)).length then [2 * l, 2 * l + 1] else [2 * l]
    addr := fun i => if i % 2 = 0 then va (i / 2) else (va (i / 2) / 2 ^ 16 + 1) * 2 ^ 16
    size := 4, need := .write }

/-- The check of each active lane's range, and its runs of words (R300). -/
def withRanges (m : MX) (s : State) (k : List LaneAccess → Result) : Result :=
  let f := rangeForm m s
  match f.failure s with
  | some (code, i) => trapAt code 1 (i / 2) (BitVec.ofNat 64 (f.addr i)) s
  | none => k ((f.accesses s).map fun a =>
      let run := ((laneRuns (pairAddr s m.a.toNat (a.lane / 2)) (2 * shapeCount m))[a.lane % 2]?).getD (0, 0, 0)
      { a with lane := a.lane / 2, x := run.2.1, c := run.2.2 })

/-- Posted words of tile rows (R300). -/
def tilePost (op : Nat) (m : MX) (legal : Bool) (s : State) : Result :=
  let f : MtxForm := { op := op, m := m, legal := legal, regs := (m.a.toNat, 2), part := s.active,
                       extents := storeExtents (2 * shapeCount m) (readS s m.desc) }
  if legal && m.a.toNat % 2 == 1 then illegalOperand s
  else withMatrix f s (withRanges m s fun as => .next (issueMatrix f as s))

def execTaddst (m : MX) (s : State) : Result := tilePost 8 m (slotAt s m.fs).generalOk s
def execTstore (m : MX) (s : State) : Result := tilePost 9 m true s

/-- MREL (R301). -/
def execMrel (s : State) : Result :=
  if !converged s then trapAt 0x0D 3 0 0 s
  else if !hasRoom .matrix s then .next s
  else .next (issueMatrix { op := 10, m := { shape := 0, fs := 0, reuse := false, a := 0, desc := 0, acc := false, neg := false,
                                              trb := false, evt := false } } [] s)

/-! ### Operands (R277 to R280) -/

/-- Element k of row i of A. -/
def aElem (o : MtxOp) (e i k : Nat) : Nat :=
  (Cells.get 0 o.a (vkey (o.m.a.toNat + k * e / 4) i)).toNat / 2 ^ (8 * e * (k % (4 / e))) % 2 ^ (8 * e)

/-- Element (k, j) of B. -/
def bElem (o : MtxOp) (e k j : Nat) : Nat :=
  if o.m.trb then tileN o.tile (dB0 o.desc + j) (4 * dC0 o.desc + k * e) e
  else tileN o.tile (dB0 o.desc + k) (4 * dC0 o.desc + j * e) e

/-- E8M0 value (04 R77). -/
def e8m0Sum (ea eb : Nat) : FVal := if ea = 255 ∨ eb = 255 then .nan false else .fin false 1 ((ea : Int) + eb - 254)

/-- Scale(i, j, c) (04 R77, R279, R294). -/
def scaleAt (o : MtxOp) (h : Shape) (f : Slot) (i j c : Nat) : Option FVal :=
  match f.scale with
  | 0 => none
  | 1 => some (fp32.value o.scale.toNat)
  | _ =>
    let nb := h.blocks
    let beta := c * h.chunk / 32
    let s0 := 4 * dSC0 o.desc
    some (e8m0Sum (tileN o.tile (dSR o.desc) (s0 + nb * i + beta) 1)
      (tileN o.tile (dSR o.desc) (s0 + 32 * nb + nb * j + beta) 1))

/-- An element of A after NEG (R296). -/
def aValue (o : MtxOp) (x : FFmt) (e i k : Nat) : FVal :=
  let v := x.value (aElem o e i k)
  if o.m.neg then v.negate else v

/-- One accumulator element of a floating-point multiply (04 R76). A scale that is not positive and finite enters the product as the number,
infinity or NaN that it is (04 R77; DESIGN CHOICE, log 119). -/
def mulElem (o : MtxOp) (h : Shape) (f : Slot) (d0 i j : Nat) : Nat :=
  let x := efmtOf f
  if h.chunk = 1 then
    (List.range h.k).foldl (fun d k =>
      let a := aElem o 4 i k
      (fp32.fma .rne false (if o.m.neg then a ^^^ 2 ^ 31 else a) (bElem o 4 k j) d).1) d0
  else
    (List.range (h.k / h.chunk)).foldl (fun d c =>
      let t := chunkSum ((List.range h.chunk).map fun q =>
        let k := c * h.chunk + q
        (fvMul (aValue o x h.e i k) (x.value (bElem o h.e k j))).1)
      let t1 := match scaleAt o h f i j c with
        | some v => (fvMul t v).1
        | none => t
      (fp32.arith .rne [] (fvAdd .rne (fp32.value d) t1)).1) d0

/-- A nested-plane element read at p planes (04 R73, R74). -/
def planeValue (f : Slot) (bit : Nat → Nat) : Int :=
  let p := f.planes
  let u := (List.range p).foldl (fun x q => 2 * x + bit q) 0
  signedOf p u * (2 ^ (8 - p) : Nat) + if f.half then (2 ^ (7 - p) : Nat) else 0

/-- One accumulator element of MMNP, before saturation (04 R76, R278). -/
def planeElem (o : MtxOp) (f : Slot) (d0 : Int) (i j : Nat) : Int :=
  (List.range 32).foldl (fun t k =>
    let a := planeValue f fun q => (Cells.get 0 o.a (vkey (o.m.a.toNat + q) i)).toNat / 2 ^ k % 2
    let b := planeValue f fun q => tileWord o.tile (dB0 o.desc + q) (dC0 o.desc + j) / 2 ^ k % 2
    t + (if o.m.neg then -a else a) * b) d0

/-! ### Results -/

/-- The accumulator words of some rows (R296). -/
def accRows (o : MtxOp) (rows : List Nat) (n : Nat) (f : Nat → Nat → Nat → Nat) : List RowWrite :=
  rows.map fun i =>
    let row := dD0 o.desc + i
    { row := row
      runs := [(4 * dE0 o.desc, (List.range n).flatMap fun j => leBytes 4 (f (tileWord o.dtile row (dE0 o.desc + j)) i j))] }

/-- Rows of lanes in Active() below a bound. -/
def opRows (o : MtxOp) (m : Nat) : List Nat := (lanesOf o.act).filter (· < m)

/-- An integer clamped to INT32 (04 R76). -/
def clampInt32 (t : Int) : Int :=
  let lo : Int := -(2 ^ 31 : Nat)
  let hi : Int := (2 ^ 31 : Nat) - 1
  if hi < t then hi else if t < lo then lo else t

/-- MMNP's rows: saturation counts (04 R76, R78). -/
def planeRows (o : MtxOp) (f : Slot) : List RowWrite :=
  (opRows o 32).map fun i =>
    let row := dD0 o.desc + i
    let ts := (List.range 16).map fun j =>
      planeElem o f (if o.m.acc then signedOf 32 (tileWord o.dtile row (dE0 o.desc + j)) else 0) i j
    { row := row
      runs := [(4 * dE0 o.desc, ts.flatMap fun t => leBytes 4 (clampInt32 t % (2 ^ 32 : Nat)).toNat)]
      spill := (ts.filter fun t => clampInt32 t != t).length }

/-- Element (x0, x1, x2) of the block, and element (m, k) of the operator after TRB and NEG (R280, R297). -/
def blockElem (o : MtxOp) (x0 x1 x2 : Nat) : Nat := tileWord o.tile (dD0 o.desc + 8 * x2 + x1) (dE0 o.desc + x0)
def operElem (o : MtxOp) (m k : Nat) : Nat :=
  let w := if o.m.trb then tileWord o.tile (dB0 o.desc + k) (dC0 o.desc + m) else tileWord o.tile (dB0 o.desc + m) (dC0 o.desc + k)
  if o.m.neg then w ^^^ 2 ^ 31 else w

/-- An element of the block after the operator is applied along an axis (R297). -/
def mctrElem (o : MtxOp) (x0 x1 x2 : Nat) : Nat :=
  let axis := o.m.shape.toNat - 0x14
  let at' (k : Nat) : Nat := match axis with
    | 0 => blockElem o k x1 x2
    | 1 => blockElem o x0 k x2
    | _ => blockElem o x0 x1 k
  let m := match axis with
    | 0 => x0
    | 1 => x1
    | _ => x2
  (List.range 8).foldl (fun y k => (fp32.fma .rne false (operElem o m k) (at' k) y).1) 0

def mctrRows (o : MtxOp) : List RowWrite :=
  (List.range 64).map fun r =>
    { row := dD0 o.desc + r, runs := [(4 * dE0 o.desc, (List.range 8).flatMap fun x0 => leBytes 4 (mctrElem o x0 (r % 8) (r / 8)))] }

/-- TLDV (R298): words of the tile rows enter registers. -/
def tldvRegs (o : MtxOp) (g : Group) : Group :=
  (List.range (shapeCount o.m)).foldl (fun g q => (lanesOf o.act).foldl (fun g i =>
    let x := if o.m.trb then tileWord o.tile (dD0 o.desc + q) (dE0 o.desc + i) else tileWord o.tile (dD0 o.desc + i) (dE0 o.desc + q)
    putData 4 (o.m.a.toNat + q) i x g) g) g

/-- TSTV (R298): registers enter words of the tile rows. -/
def tstvRows (o : MtxOp) : List RowWrite :=
  let n := shapeCount o.m
  let x (q i : Nat) : List Byte := leBytes 4 (Cells.get 0 o.a (vkey (o.m.a.toNat + q) i)).toNat
  if o.act = 0 then []
  else if o.m.trb then
    (List.range n).map fun q => { row := dD0 o.desc + q, runs := (lanesOf o.act).map fun i => (4 * (dE0 o.desc + i), x q i) }
  else (lanesOf o.act).map fun i => { row := dD0 o.desc + i, runs := [(4 * dE0 o.desc, (List.range n).flatMap fun q => x q i)] }

/-- TZERO (R298). -/
def tzeroRows (o : MtxOp) : List RowWrite :=
  if o.act = 0 then []
  else (List.range (shapeCount o.m)).map fun r =>
    { row := dD0 o.desc + r, runs := [(4 * dE0 o.desc, List.replicate (256 - 4 * dE0 o.desc) 0)] }

/-- A real converted to a format in one rounding: pattern, and whether a finite value overflowed (R299, 04 R63 to R70). -/
def convertReal (f : Slot) (efmt : Nat) (v : FVal) : Nat × Bool :=
  if efmt = 5 then
    let r := fvToInt f.crnd true 8 v
    ((r.1 % 256).toNat, r.2.2)
  else
    let x := efmtOf { f with efmt := efmt }
    match v with
    | .nan _ => (x.cnan, false)
    | .inf n => (if f.csat then x.maxPat n else x.infPat n, false)
    | .fin n m e => let r := x.round f.crnd f.csat n m e; (r.pat, r.overflowed)

/-- A word of the accumulator as TEPI takes it (R299). -/
def tepiValue (o : MtxOp) (f : Slot) (w : Nat) : FVal :=
  let v := if f.accf = 1 then (let i := signedOf 32 w; FVal.fin (i < 0) i.natAbs 0) else fp32.value w
  let v1 := if o.m.neg then (if f.accf = 1 ∧ v.isZero then v else v.negate) else v
  if f.scale = 1 then (fvMul v1 (fp32.value o.scale.toNat)).1 else v1

/-- TEPI (R299): every source word was read before any destination is written; the count comes last. -/
def tepiRows (o : MtxOp) (f : Slot) : List RowWrite :=
  if o.act = 0 then []
  else
    let n := 2 * shapeCount o.m
    let e := efmtBytes f.efmt
    ((lanesOf o.act).map fun i =>
      let rs := (List.range n).map fun j => convertReal f f.efmt (tepiValue o f (tileWord o.tile (dD0 o.desc + i) (dE0 o.desc + j)))
      { row := dB0 o.desc + i, runs := [(4 * dC0 o.desc, rs.flatMap fun r => leBytes e r.1)], spill := (rs.filter (·.2)).length })
      ++ [{ row := dSR o.desc, count := some (4 * dSC0 o.desc) }]

/-- The row writes of an operation, from what it has read. -/
def matrixRows (o : MtxOp) : List RowWrite :=
  let f := slotOf o.slot
  match o.op with
  | 0 => match shapeOf o.m.shape with
    | some h => accRows o (opRows o h.m) h.n (mulElem o h f)
    | none => []
  | 1 => match shapeOf o.m.shape with
    | some h => accRows o (opRows o h.m) h.n fun _ i j => mulElem o h f 0 i j
    | none => []
  | 2 => planeRows o f
  | 3 => if o.act = 0 then [] else mctrRows o
  | 5 => tstvRows o
  | 6 => tzeroRows o
  | 7 => tepiRows o f
  | _ => []

/-- One row write of an operation (14 R231): its overflows are counted, and the overflow count that it writes starts again at 0. -/
def applyRow (id : Nat) (w : RowWrite) (g : Group) : Group :=
  let g1 := countOverflow id w.spill (w.runs.foldl (fun g r => writeRow w.row r.1 r.2 g) g)
  match w.count with
  | some b => clearOverflow id (writeRow w.row b (leBytes 4 g1.ovf.toNat) g1)
  | none => g1

/-- What an operation leaves in the group when its rows are written: registers of TLDV, no rows after MREL. -/
def matrixResult (o : MtxOp) (g : Group) : Group :=
  match o.op with
  | 4 => tldvRegs o g
  | 10 => { g with tileRows := 0, tile := [], ovf := 0, ovfLate := [], poisonTile := [] }
  | _ => g

/-! ### The steps (18 R282 to R285) -/

/-- The first operation of a group that is not over or only waits for its packets. -/
def headOp (g : Group) : Option MtxOp := g.mtx.find? fun o => !o.sent

/-- Changes an operation. -/
def setOp (id : Nat) (f : MtxOp → MtxOp) (g : Group) : Group :=
  { g with mtx := g.mtx.map fun o => if o.id = id then f o else o }

/-- The number of A registers of an operation that the reuse latch may serve. -/
def latchRegs (o : MtxOp) : Nat :=
  match o.op with
  | 0 | 1 => (match shapeOf o.m.shape with
    | some h => h.regs
    | none => 0)
  | _ => (slotOf o.slot).planes

/-- What the reuse latch of its partition holds for an operation whose A matches the tag (18 R283). -/
def latchFor (o : MtxOp) (s : State) : Option Latch :=
  (o.part.bind fun p => (s.part p).reuse).filter fun x =>
    o.op ≤ 2 && x.gid == s.g.gid && x.base == o.m.a.toNat && x.count == latchRegs o && x.efmt == (slotOf o.slot).efmt

/-- The lower of two lanes. -/
def lowerLane (x : Option Nat) (l : Nat) : Option Nat := some (min (x.getD l) l)

/-- The operation reads A: a lane that was poisoned at issue comes from the latch that holds it, or is poison (18 R283, 22 R339). -/
def readA (s : State) (o : MtxOp) : MtxOp :=
  match latchFor o s with
  | some x => { o with a := o.spoilt.foldl (fun a k => Cells.set 0 a k (Cells.get 0 x.a k)) o.a }
  | none => { o with bad := o.spoilt.foldl (fun b k => lowerLane b (k % 32)) o.bad }

/-- The reuse latch after an operation has read A (18 R283): filled, unless a register has changed since, or emptied; an operation of
another group empties it, and one without an active lane leaves it (R293). -/
def fillLatch (o : MtxOp) (s : State) : State :=
  let n := latchRegs o
  let same := (List.range n).all fun q => allLanes.all fun l =>
    let k := vkey (o.m.a.toNat + q) l
    o.spoilt.contains k || Cells.get 0 o.a k == s.g.lane (o.m.a.toNat + q) l
  match o.part with
  | none => s
  | some p =>
    if o.act = 0 then s
    else if o.op ≤ 2 then
      let held : Latch := { gid := s.g.gid, base := o.m.a.toNat, count := n, efmt := (slotOf o.slot).efmt, a := o.a }
      s.setPart p fun k => { k with reuse := if o.m.reuse && same then some held else none }
    else if ((s.part p).reuse.map (·.gid)) == some s.g.gid then s
    else s.setPart p fun k => { k with reuse := none }

/-- The lane that answers for poison of a tile row: that of a row of lanes, else the lowest lane of Active(). -/
def rowLane (o : MtxOp) (row : Nat) (byLane : Bool) : Nat := if byLane then row - dD0 o.desc else lowestLane o.act

/-- The poison of a tile row that an operation reads (22 R339). -/
def meetRow (s : State) (row : Nat) (byLane : Bool) (o : MtxOp) : MtxOp :=
  if Cells.get false s.g.poisonTile row then { o with bad := lowerLane o.bad (rowLane o row byLane) } else o

/-- An operation reads one operand row, or one D row after its event, which are kept apart: a row may hold both (14 R231, R242). -/
def readRow (s : State) (row : Nat) (byLane : Bool) (o : MtxOp) : MtxOp := meetRow s row byLane { o with tile := takeRow s.free s.g row o.tile }
def readD (s : State) (row : Nat) (o : MtxOp) : MtxOp := meetRow s row true { o with dtile := takeRow s.free s.g row o.dtile }

/-- The operands-consumed event of an operation: A has been read (18 R282, R283). -/
def consume (o : MtxOp) (s : State) : State :=
  let x := { readA s o with rows := [], consumed := true }
  fillLatch x { s with g := setOp o.id (fun _ => x) s.g }

/-- The operand rows of an operation are rows of its lanes: TLDV without TRB, TEPI, TADDST, TSTORE. -/
def readsByLane (o : MtxOp) : Bool := (o.op == 4 && !o.m.trb) || (7 ≤ o.op && o.op ≤ 9)

/-- MATRIX_OPERANDS_CONSUMED (R282, 14 R242): the group's first operation reads its next operand row; the event comes with the last. -/
def execMatrixOperandsConsumed (gid : Word) (s : State) : Result :=
  match focusGroup gid s with
  | none => .next s
  | some s1 =>
    match headOp s1.g with
    | none => .next s1
    | some o =>
      if o.consumed || o.after.any (stillPending s1) then .next s1
      else match o.rows with
        | r :: r' :: rest =>
          .next { s1 with g := setOp o.id (fun x => { readRow s1 r (readsByLane o) x with rows := r' :: rest }) s1.g }.spend
        | [r] => .next (consume (readRow s1 r (readsByLane o) o) s1).spend
        | [] => .next (consume o s1).spend

/-- The words that TADDST and TSTORE post: address and value, in lane order (R300). -/
def postedWords (o : MtxOp) : List LaneAccess :=
  o.dests.flatMap fun a => (List.range a.c).map fun j =>
    { a with va := a.va + 4 * j, pa := a.pa + 4 * j, c := 0, x := tileWord o.tile (dD0 o.desc + a.lane) (dE0 o.desc + a.x + j) }

/-- The packets of an operation. -/
def matrixPackets (s : State) (o : MtxOp) : List Packet :=
  if o.op = 8 then
    (linesOf (postedWords o)).map fun ln =>
      let here := onLine ln (postedWords o)
      let int := (slotOf o.slot).accf == 1
      { id := 0, src := 0, dst := ln.1, pte := lineLeaf here, priv := anyPrivate s here,
        body := .addWords int (here.foldl (fun ws a => combineWord (if int then 0 else 6) ws (a.pa, a.x)) []) }
  else storePackets s 4 (postedWords o)

/-- The split that answers for an engine's operation: the one that issued it, or the one that it joined (22 R331, 10 R171). -/
def answersFor (idx id : Nat) (g : Group) : Nat :=
  let holds (sp : Split) : Bool := sp.ops.any fun o => o.id == id
  if g.splits.any fun sp => sp.idx == idx && holds sp then idx
  else match g.splits.find? holds with
    | some sp => sp.idx
    | none => idx

/-- What an engine's error reports to the split that answers for the work, before its next clause (22 R331, R339). -/
def tellSplit (idx id : Nat) (t : TrapRec) (g : Group) : Group :=
  let k := answersFor idx id g
  g.mapSplits fun sp => if sp.idx == k && sp.err.isNone then { sp with err := some t } else sp

/-- The error of an operation: consumed poison, or a shadow mismatch of an element (22 R331, R339, 18 R284). -/
def matrixError (o : MtxOp) (mismatch : Bool) (s : State) : Option TrapRec :=
  let rows := opRows o (if o.op = 3 then 32 else match shapeOf o.m.shape with
    | some h => h.m
    | none => 32)
  let t (code lane : Nat) : TrapRec := { code := code, acc := if code = 0x22 then 0 else 3, lane := lane, pc := o.pc, hdr := o.hdr, mask := o.act }
  match o.bad with
  | some l => some (t 0x22 l)
  | none =>
    if o.op ≤ 3 ∧ !rows.isEmpty then
    (if o.inject then some (t 0x21 (if o.op = 3 then 0 else rows.headD 0))
     else if mismatch then some (t 0x21 (if o.op = 3 then 0 else (rows[Config.shadowPick s.free % rows.length]?).getD 0))
     else none)
    else none

/-- The last MATRIX operation is over, or its packets are in their queues (R285, R300). -/
def endOp (o : MtxOp) (s : State) : State :=
  let ps := if o.op = 8 ∨ o.op = 9 then matrixPackets s o else []
  if ps.isEmpty then
    dropGhosts (settle o.id (finishOp s.g.gid o.id { s with g := { s.g with mtx := s.g.mtx.filter fun x => x.id != o.id } }))
  else
    let mk (p : Packet) : Packet := { p with id := o.id, gid := some s.g.gid, ctx := s.g.ctx, src := s.g.sp.home, seq := s.fresh }
    { s.nextId with packets := s.packets ++ ps.map mk, g := setOp o.id (fun x => { x with sent := true }) s.g }

/-- The next step of an operation whose event has occurred: it reads a D row, writes a row, or has nothing left to do. -/
def rowStep (o : MtxOp) (s : State) : Option State :=
  match o.drows with
  | r :: rest => some { s with g := setOp o.id (fun x => { readD s r x with drows := rest }) s.g }.spend
  | [] =>
    match o.outs.getD (matrixRows o) with
    | w :: rest => some { s with g := setOp o.id (fun x => { x with outs := some rest }) (applyRow o.id w s.g) }
    | [] => none

/-- MATRIX_COMPLETE (R284, R285, 14 R242): the group's first operation reads its next D row, or writes its next row; after the last it
is over. `mismatch` says that the shadow comparison failed. MREL waits for every earlier operation and for COPY (R301). -/
def execMatrixComplete (gid : Word) (mismatch : Bool) (s : State) : Result :=
  match focusGroup gid s with
  | none => .next s
  | some s1 =>
    match headOp s1.g with
    | none => .next s1
    | some o =>
      if !o.consumed || (o.op == 10 && (!s1.g.copies.isEmpty || s1.g.mtx.any fun x => x.sent)) then .next s1
      else match rowStep o s1 with
        | some s2 => .next s2
        | none =>
          let g1 := matrixResult o s1.g
          let g2 := match matrixError o mismatch s1 with
            | some t => tellSplit o.sp o.id t g1
            | none => g1
          let s2 := { s1 with g := g2 }.spend
          .next (endOp o (if o.op = 4 ∧ o.act ≠ 0 then dropTagged s2.g.gid ((List.range (shapeCount o.m)).map (o.m.a.toNat + ·)) s2
                          else if o.op = 10 then emptyLatch o.part s2 else s2))

end Sys2Proof.Machine
end

