-- ==== Sys2Proof/Machine/Copy.lean ====
section
/-! DEFINITION. Class 5: the copy engines (spec/18 R286 to R290, spec/19 R302 to R307). An instruction checks, reads its
scalars and issues; COPY_START reads the record and checks it; each COPY_FINISH performs one access of the engine: it reads a line,
block or row, or writes one (14 R231, 18 R286). -/

namespace Sys2Proof.Machine

/-! ### Place words (19 Table 19.3) -/

def placeN (p : DWord) : Nat := bits p.toNat 63 32
def placeTile (p : DWord) : Bool := p.getLsbD 31
def placeOff (p : DWord) : Nat := bits p.toNat 17 0
def placeCol (p : DWord) : Nat := bits p.toNat 13 8
def placeRow (p : DWord) : Nat := bits p.toNat 7 0

/-- N is not zero and the reserved bits are (R303). -/
def placeOk (p : DWord) : Bool :=
  placeN p != 0 && bits p.toNat 30 18 == 0 && (!placeTile p || bits p.toNat 17 14 == 0)

/-! ### Issue (R302, R304, R305) -/

/-- What an instruction of class 5 checks and reads. Codes: 0 ITLD, 1 CPIN, 2 CPGA, 3 CPOUT, 4 CPSC, 5 CPSIG, 6 SWEEP,
7 CPFILL. -/
structure CopyForm where
  code : Nat
  evw : Bool
  legal : Bool := true
  operands : Bool := true
  places : List DWord := []
  /-- N counts runs, not bytes or rows (CPGA, CPSC). -/
  runs : Bool := false
  a : DWord := 0
  b : DWord := 0
  c : DWord := 0
  /-- Flags [6:0]: DIR of ITLD in bit 0; SOP and DIR of SWEEP in bits [6:3]. -/
  flags : Nat := 0
  slot : BitVec 16 := 0

/-- The check of a place at issue: code and TRAPADDR of its trap (R305 steps 3 and 4). -/
def placeTrap (s : State) (runs : Bool) (p : DWord) : Option (Nat × Nat) :=
  if placeTile p then (if rowsHeld s.g < placeRow p + placeN p then some (0x0C, 0) else none)
  else match leaseOf s s.g with
    | none => some (0x0B, placeOff p)
    | some l =>
      if placeOff p % 4 ≠ 0 ∨ (!runs ∧ placeN p % 4 ≠ 0) then some (0x06, placeOff p)
      else if !runs ∧ l.len < placeOff p + placeN p then some (0x0B, placeOff p)
      else none

/-- The matrix operation whose event a command waits for (R289). -/
def eventOp (g : Group) : Option Nat := ((g.mtx.filter fun o => o.m.evt && !o.consumed).getLast?).map (·.id)

/-- An instruction of class 5: the checks of R305 in their order; COPY rises and the command is queued (R302, R14). In a diagnostic
group a copy access traps (08 R135). -/
def runCopy (f : CopyForm) (s : State) : Result :=
  if !f.legal then illegalInstruction s
  else if !f.operands || !f.places.all placeOk then illegalOperand s
  else if s.g.diag then trapAt 0x0A 3 0 0 s
  else match (f.places.filter (!placeTile ·) ++ f.places.filter placeTile).findSome? (placeTrap s f.runs) with
    | some (code, addr) => trapAt code 3 0 (BitVec.ofNat 64 addr) s
    | none =>
      if !hasRoom .copy s then .next s
      else
        let c : CopyCmd := {
          id := s.fresh, sp := s.g.sp.idx, code := f.code, flags := f.flags, slot := f.slot, a := f.a, b := f.b, c := f.c,
          core := (s.g.sp.part.map partCore).getD 0, lease := (leaseOf s s.g).map (·.id),
          evt := if f.evw then eventOp s.g else none, after := s.g.accs.map (·.id), sup := s.g.sup,
          pc := instrPc s, hdr := s.g.sp.pc }
        .next (complete (charge .copy c.id { s with g := { s.g with copies := s.g.copies ++ [c] }, fresh := s.fresh + 1 }))

/-- ITLD: both places are checked at issue (R305). -/
def execItld (q p : SReg) (evw out : Bool) (s : State) : Result :=
  let x := readS s q
  let y := readS s p
  runCopy { code := 0, evw := evw, places := [x, y], a := x, c := y, flags := flag out 0,
            operands := !placeTile x && placeTile y && placeCol y == 0 && 256 * placeN y ≤ placeN x } s

def execCpin (rec p : SReg) (evw : Bool) (s : State) : Result :=
  runCopy { code := 1, evw := evw, places := [readS s p], a := readS s rec, c := readS s p } s

def execCpga (rec l p : SReg) (evw : Bool) (s : State) : Result :=
  runCopy { code := 2, evw := evw, places := [readS s p], runs := true, a := readS s rec, b := readS s l, c := readS s p } s

def execCpout (rec p : SReg) (evw : Bool) (s : State) : Result :=
  runCopy { code := 3, evw := evw, places := [readS s p], a := readS s rec, c := readS s p } s

def execCpsc (rec l p : SReg) (evw : Bool) (s : State) : Result :=
  runCopy { code := 4, evw := evw, places := [readS s p], runs := true, a := readS s rec, b := readS s l, c := readS s p } s

/-- CPSIG names no place (R307). -/
def execCpsig (a x : SReg) (evw : Bool) (s : State) : Result :=
  runCopy { code := 5, evw := evw, a := readS s a, b := readS s x } s

/-- Code of a SWEEP operation. -/
def sopCode : SweepOp → Nat
  | .cvt => 0 | .scale => 1 | .relu => 2 | .scrl => 3

/-- SWEEP (R306): the slot passes R72 and names no nested planes; X is s0 where it is not read. -/
def execSweep (rec x p : SReg) (evw : Bool) (op : SweepOp) (out : Bool) (fs : BitVec 3) (s : State) : Result :=
  let f := slotAt s fs
  let scales := op == .scale || op == .scrl
  runCopy { code := 6, evw := evw, legal := f.generalOk && f.efmt != 6 && (x == 0 || scales), places := [readS s p],
            a := readS s rec, b := readS s x, c := readS s p, flags := sopCode op * 16 + flag out 3,
            slot := Cells.get 0 s.g.fs fs.toNat } s

def execCpfill (x p : SReg) (evw : Bool) (s : State) : Result :=
  runCopy { code := 7, evw := evw, places := [readS s p], b := readS s x, c := readS s p } s

/-! ### Iterator records (R287) -/

/-- Fields of a record that was read as eight 8-byte words. -/
def recWord (r : List Nat) (i : Nat) : Nat := (r[i]?).getD 0
def recBase (r : List Nat) : Nat := recWord r 0
def recEsz (r : List Nat) : Nat := bits (recWord r 1) 7 0
def recDims (r : List Nat) : Nat := bits (recWord r 1) 15 8
def recCount (r : List Nat) (d : Nat) : Nat := bits (recWord r (2 + d / 2)) (32 * (d % 2) + 31) (32 * (d % 2))
def recStride (r : List Nat) (d : Nat) : Int := if d = 0 then (2 ^ recEsz r : Nat) else signedOf 64 (recWord r (3 + d))

/-- Extent of a dimension; one index for an unused one. -/
def dimCount (r : List Nat) (d : Nat) : Nat := if d < recDims r then recCount r d else 1

/-- Lowest and highest element address, exact. -/
def recLow (r : List Nat) : Int :=
  (List.range (recDims r)).foldl (fun x d => x + min 0 (((recCount r d : Int) - 1) * recStride r d)) (recBase r)
def recHigh (r : List Nat) : Int :=
  (List.range (recDims r)).foldl (fun x d => x + max 0 (((recCount r d : Int) - 1) * recStride r d)) (recBase r)

/-- The record keeps to 18 Table 18.3 and its elements lie in the address range (R287). -/
def recordOk (r : List Nat) : Bool :=
  let e := 2 ^ recEsz r
  recEsz r ≤ 4 && 1 ≤ recDims r && recDims r ≤ 4 && bits (recWord r 1) 63 16 == 0 && recWord r 7 == 0
    && recBase r % e == 0
    && (List.range 4).all (fun d =>
      if d < recDims r then 1 ≤ recCount r d && recStride r d % (e : Int) == 0
      else recCount r d == 0 && recWord r (3 + d) == 0)
    && decide (0 ≤ recLow r) && decide (recHigh r + e ≤ (2 ^ 56 : Nat))

/-- Virtual address of an element. -/
def elementVa (r : List Nat) (i0 i1 i2 i3 : Nat) : Nat :=
  ((recBase r : Int) + i0 * recStride r 0 + i1 * recStride r 1 + i2 * recStride r 2 + i3 * recStride r 3).toNat

/-! ### Commands -/

def CopyCmd.gathers (c : CopyCmd) : Bool := c.code == 2 || c.code == 4
def CopyCmd.usesRecord (c : CopyCmd) : Bool := c.code != 0 && c.code != 5 && c.code != 7
/-- The command writes memory. -/
def CopyCmd.outward (c : CopyCmd) : Bool := c.code == 3 || c.code == 4 || (c.code == 6 && bits c.flags 3 3 == 1)
/-- An element of 8 or 16 bytes is carried as words, which lie next to each other in memory and at the place, so that a line, row or block
is the unit of every access (R286); the carried elements are these words. SWEEP carries whole elements, which it converts (R306). -/
def CopyCmd.pieces (c : CopyCmd) : Nat := if c.code = 6 then 1 else 2 ^ (recEsz c.iter - 2)
/-- Bytes of a carried element in memory, and at its place: a word for SWEEP (R306). -/
def CopyCmd.memBytes (c : CopyCmd) : Nat := if c.code = 6 then 2 ^ recEsz c.iter else min 4 (2 ^ recEsz c.iter)
def CopyCmd.placeBytes (c : CopyCmd) : Nat := if c.code = 6 then 4 else c.memBytes
/-- Runs of a command (R288). -/
def CopyCmd.runs (c : CopyCmd) : Nat := if c.gathers then placeN c.c else dimCount c.iter 1 * dimCount c.iter 2 * dimCount c.iter 3
/-- Carried elements of a run. -/
def CopyCmd.runLength (c : CopyCmd) : Nat := dimCount c.iter 0 * c.pieces

/-- The lease that a command addresses. -/
def CopyCmd.leaseIn (c : CopyCmd) (s : State) : Option Lease := s.leases.find? fun l => c.lease == some l.id

/-- Where element i0 of run k lies at the place: row x 256 + byte of the tile, or the offset in the lease (R288). -/
def CopyCmd.placeKey (c : CopyCmd) (k i0 : Nat) : Nat :=
  if placeTile c.c then (placeRow c.c + k) * 256 + 4 * placeCol c.c + i0 * c.placeBytes
  else placeOff c.c + (k * c.runLength + i0) * c.placeBytes

/-! ### Elements and the accesses that carry them (R286, R288) -/

/-- Where an element is read or written: a virtual address, row x 256 + byte of the tile, an offset in the lease, or nowhere. -/
inductive Spot where
  | mem (va : Nat)
  | tile (key : Nat)
  | lease (off : Nat)
  | nothing
  deriving DecidableEq, Repr

/-- The line, row or block of a spot: what one access of the engine carries (R286). -/
def Spot.unit : Spot → Nat × Nat
  | .mem va => (0, va / 64)
  | .tile k => (1, k / 256)
  | .lease o => (2, o / 64)
  | .nothing => (3, 0)

/-- The number that names a spot's first byte in its space. -/
def Spot.key : Spot → Nat
  | .mem x | .tile x | .lease x => x
  | .nothing => 0

/-- Indices (i1, i2, i3) of run k; none for an index of a list beyond the record (R288). -/
def CopyCmd.runAt (c : CopyCmd) (k : Nat) : Option (Nat × Nat × Nat) :=
  if c.gathers then (c.list[k]?).bind fun x => if x < dimCount c.iter 1 then some (x, 0, 0) else none
  else
    let n1 := dimCount c.iter 1
    let n2 := dimCount c.iter 2
    some (k % n1, k / n1 % n2, k / (n1 * n2))

/-- Where element e lies in memory. -/
def CopyCmd.memSpot (c : CopyCmd) (e : Nat) : Spot :=
  match c.runAt (e / c.runLength) with
  | some i => .mem (elementVa c.iter (e % c.runLength / c.pieces) i.1 i.2.1 i.2.2 + e % c.pieces * 4)
  | none => .nothing

/-- Where element e lies at the place. -/
def CopyCmd.placeSpot (c : CopyCmd) (e : Nat) : Spot :=
  let k := c.placeKey (e / c.runLength) (e % c.runLength)
  if placeTile c.c then .tile k else .lease k

/-- The words of an ITLD, in its lease and in its rows, and of a CPFILL (R304). -/
def CopyCmd.leaseWord (c : CopyCmd) (e : Nat) : Spot := .lease (placeOff c.a + 4 * e)
def CopyCmd.rowWord (c : CopyCmd) (e : Nat) : Spot := .tile (placeRow c.c * 256 + 4 * e)
def CopyCmd.fillWord (c : CopyCmd) (e : Nat) : Spot :=
  let n := 64 - placeCol c.c
  if placeTile c.c then .tile ((placeRow c.c + e / n) * 256 + 4 * (placeCol c.c + e % n)) else .lease (placeOff c.c + 4 * e)

/-- An ITLD from the rows to the lease. -/
def CopyCmd.storesRows (c : CopyCmd) : Bool := bits c.flags 0 0 == 1

/-- Where element e is read. -/
def CopyCmd.source (c : CopyCmd) (e : Nat) : Spot :=
  if c.code = 0 then (if c.storesRows then c.rowWord e else c.leaseWord e)
  else if c.code = 7 then .nothing
  else if c.outward then c.placeSpot e else c.memSpot e

/-- Where element e is written. -/
def CopyCmd.target (c : CopyCmd) (e : Nat) : Spot :=
  if c.code = 0 then (if c.storesRows then c.leaseWord e else c.rowWord e)
  else if c.code = 7 then c.fillWord e
  else if c.outward then c.memSpot e else c.placeSpot e

/-- Bytes of an element where it is read, and where it is written. -/
def CopyCmd.sourceBytes (c : CopyCmd) : Nat :=
  if c.code = 0 ∨ c.code = 7 then 4 else if c.outward then c.placeBytes else c.memBytes
def CopyCmd.targetBytes (c : CopyCmd) : Nat :=
  if c.code = 0 ∨ c.code = 7 then 4 else if c.outward then c.memBytes else c.placeBytes

/-- Elements of a command. -/
def CopyCmd.total (c : CopyCmd) : Nat :=
  if c.code = 0 then 64 * placeN c.c
  else if c.code = 7 then (if placeTile c.c then placeN c.c * (64 - placeCol c.c) else placeN c.c / 4)
  else c.runs * c.runLength

/-- Elements whose run is known: of a gather or scatter, those that the words of the list read so far select. -/
def CopyCmd.known (c : CopyCmd) : Nat := if c.gathers then min c.total (c.list.length * c.runLength) else c.total

/-- The first element from e on, of n, whose spot is outside a line, row or block. -/
def spanFrom (spot : Nat → Spot) (u : Nat × Nat) : Nat → Nat → Nat
  | 0, e => e
  | n + 1, e => if (spot e).unit == u then spanFrom spot u n (e + 1) else e

/-- The end of the elements that the next write carries: those of one line, row or block, in index order (at most 256, for elements
that overlap). -/
def CopyCmd.writeEnd (c : CopyCmd) : Nat :=
  spanFrom c.target (c.target c.index).unit (min 256 (c.known - c.index)) c.index

/-- The end of the elements that the next read carries. -/
def CopyCmd.readEnd (c : CopyCmd) : Nat := spanFrom c.source (c.source c.got).unit (min 256 (c.known - c.got)) c.got

/-- The next access needs elements that the list has still to select. -/
def CopyCmd.wantsList (c : CopyCmd) : Bool :=
  c.known < c.total && (c.writeEnd == c.known || (c.got < c.writeEnd && c.readEnd == c.known))

/-! ### An access in progress -/

/-- The machine and the command, the poison met, whether the access has sent its line to another package, and what stopped the
access: a fault, or a home that takes no traffic. -/
structure CopyRun where
  s : State
  c : CopyCmd
  poison : Option Nat := none
  line : Bool := false
  stop : Bool := false
  fault : Option (Nat × Nat) := none

/-- Poison met; the first address is kept (R339). -/
def CopyRun.meet (t : CopyRun) (addr : Nat) : CopyRun := { t with poison := t.poison.orElse fun _ => some addr }

/-- Bytes that the engine takes from a poisoned granule (log 25). -/
def poisonValue (k n : Nat) : Nat := leNat ((List.range n).map fun i => Config.poisonByte (k + i))

/-- A homed location that the engine reads or writes: its address and leaf, or why it stops (R290, R211); a page in CUTOVER answers
REDIRECT (25 R373). -/
def copyResolve (need : Need) (va : Nat) (t : CopyRun) : Except CopyRun (Nat × Nat) :=
  let h := coreHome t.c.core
  match resolve t.s h t.s.g.ctx t.c.sup false need va with
  | .error _ => .error { t with stop := true, fault := some (need.acc, va) }
  | .ok (pa, pte) =>
    if (if need = .read then passes t.s (homeOfPa pa) h 2 else passes t.s h (homeOfPa pa) 2) && takesTraffic t.s (homeOfPa pa)
        && (cutoverMove t.s (homeOfPa pa) pa).isNone then .ok (pa, pte) else .error { t with stop := true }

/-- The line that an access reads comes to the engine's home, once for the access (25 R365). -/
def fetchLine (pa : Nat) (t : CopyRun) : CopyRun :=
  if t.line then t else { t with line := true, s := passItem (homeOfPa pa) (coreHome t.c.core) 2 t.s }

/-- The 64 bytes of the line of an address, as one number: the engine reads them in one step (R286, R339, 25 R369). It waits for the mirror
of a poisoned line. -/
def copyLine (va : Nat) (t : CopyRun) : Except CopyRun (Nat × CopyRun) :=
  match copyResolve .read va t with
  | .error t1 => .error t1
  | .ok (pa, pte) =>
    let a : LaneAccess := { lane := 0, va := va, pa := pa, pte := pte }
    if mirrorAwaited t.s a then .error { t with stop := true }
    else
      let t1 := fetchLine pa t
      if linePoisoned t1.s a then .ok (poisonValue ((t1.s.free * 2 ^ 56 + pa / 64) * 64) 64, t1.meet va)
      else
        let s1 := closeLine pa (repairLine a t1.s)
        .ok (readPa s1 (pa / 64 * 64) 64, { t1 with s := s1 })

/-- n bytes of a line that was read. -/
def lineBytes (x va n : Nat) : Nat := x / 256 ^ (va % 64) % 256 ^ n

/-- n bytes of the lease as the engine reads them; a released lease reads zero (15 R270). -/
def leaseRead (off n : Nat) (t : CopyRun) : Nat × CopyRun :=
  match t.c.leaseIn t.s with
  | none => (0, t)
  | some l =>
    if l.dead then (0, t)
    else
      let a := l.base + off
      if (List.range ((a % 4 + n + 3) / 4)).any fun i => Cells.get false (t.s.core l.core).poison (a / 4 + i) then
        (poisonValue (t.s.free * 2 ^ 62 + a) n, t.meet off)
      else ((t.s.core l.core).scratch.readN a n, t)

/-- n bytes of a tile row as the engine reads them. -/
def rowRead (key n : Nat) (t : CopyRun) : Nat × CopyRun :=
  if Cells.get false t.s.g.poisonTile (key / 256) then (poisonValue (t.s.free * 2 ^ 62 + key) n, t.meet 0)
  else (t.s.g.tile.readN key n, t)

/-! ### SWEEP (R306) -/

/-- An element of a slot's format as a real, exactly. -/
def slotValue (f : Slot) (x : Nat) : FVal :=
  if f.efmt = 5 then (let i := signedOf 8 x; FVal.fin (i < 0) i.natAbs 0) else (efmtOf f).value x

/-- The real after SCALE and RELU. -/
def sweepReal (c : CopyCmd) (x : FVal) : FVal :=
  let sop := bits c.flags 6 4
  let y := if sop % 2 = 1 then (fvMul x (fp32.value (c.b.toNat % 2 ^ 32))).1 else x
  if 2 ≤ sop then (match y with
    | .inf true => .fin false 0 0
    | .fin true _ _ => .fin false 0 0
    | y => y) else y

/-- The converted element, and whether it overflowed. -/
def sweepElem (c : CopyCmd) (x : Nat) : Nat × Bool :=
  let f := slotOf c.slot
  if c.outward then convertReal f f.efmt (sweepReal c (fp32.value x)) else convertReal f 0 (sweepReal c (slotValue f x))

/-- The element that is written, from the one that is read, and whether it overflowed. -/
def CopyCmd.convert (c : CopyCmd) (x : Nat) : Nat × Bool := if c.code = 6 then sweepElem c x else (x, false)

/-! ### Reading (R288, R290) -/

/-- The next element is read from a lease or a tile row: the pattern of a CPFILL is none, nor is what a list does not select (R288, R304). One
that is written nowhere is not read. -/
def takeElement (t : CopyRun) : CopyRun :=
  let c := t.c
  let (x, t1) := if c.target c.got == .nothing then (0, t) else match c.source c.got with
    | .tile k => rowRead k c.sourceBytes t
    | .lease o => leaseRead o c.sourceBytes t
    | .mem _ | .nothing => (if c.code = 7 then c.b.toNat % 2 ^ 32 else 0, t)
  { t1 with c := { c with got := c.got + 1, out := c.out ++ [x] } }

/-- One line, row or block of the source is read, in one step: the elements from the next one on that lie there (R286). -/
def readUnit (t : CopyRun) : CopyRun :=
  let c := t.c
  let n := c.readEnd - c.got
  match c.source c.got with
  | .mem va => (match copyLine va t with
    | .error t1 => t1
    | .ok (x, t1) =>
      let xs := (List.range n).map fun i => lineBytes x (c.source (c.got + i)).key c.sourceBytes
      { t1 with c := { c with got := c.readEnd, out := c.out ++ xs } })
  | _ => (List.range n).foldl (fun t _ => takeElement t) t

/-- The words of the list on one line of it. -/
def takeList (t : CopyRun) : CopyRun :=
  let va := t.c.b.toNat + 4 * t.c.list.length
  let n := min (16 - va % 64 / 4) (t.c.runs - t.c.list.length)
  match copyLine va t with
  | .error t1 => t1
  | .ok (x, t1) => { t1 with c := { t1.c with list := t1.c.list ++ (List.range n).map fun i => lineBytes x (va + 4 * i) 4 } }

/-! ### Writing the destination (R286) -/

/-- The bytes of a run, block by block of n bytes: block number and bytes. -/
def blocksOf (n : Nat) (out : Cells Nat) : List (Nat × List (Nat × Byte)) :=
  out.foldr (fun e bs =>
    let b : Nat × Byte := (e.1, BitVec.ofNat 8 e.2)
    match bs with
    | (k, l) :: rest => if k = e.1 / n then (k, b :: l) :: rest else (e.1 / n, [b]) :: bs
    | [] => [(e.1 / n, [b])]) []

/-- The bytes of a tile row. -/
def putRow (out : Cells Nat) (g : Group) : Group :=
  (blocksOf 256 out).foldl (fun g b =>
    if b.2.length = 256 then writeRow b.1 0 (b.2.map (·.2)) g
    else b.2.foldl (fun g x => writeRow b.1 (x.1 % 256) [x.2] g) g) g

/-- Words of the lease; a released lease discards them (15 R270). -/
def writeLease (c : CopyCmd) (out : Cells Nat) (s : State) : State :=
  match c.leaseIn s with
  | none => s
  | some l =>
    if l.dead then s
    else (blocksOf 4 out).foldl (fun s b =>
      if b.2.length = 4 then writeScratch l.core (l.base + 4 * b.1) 4 (leNat (b.2.map (·.2))) s
      else b.2.foldl (fun s x => writeScratch l.core (l.base + x.1) 1 x.2.toNat s) s) s

/-- Some bytes of the line of an address, accepted at its home. -/
def writeLine (out : Cells Nat) (pa pte : Nat) (t : CopyRun) : State :=
  let bs := out.map fun e => (pa / 64 * 64 + e.1 % 64, BitVec.ofNat 8 e.2)
  let p : Packet := { id := t.c.id, gid := some t.s.g.gid, ctx := t.s.g.ctx, src := coreHome t.c.core, dst := homeOfPa pa, cls := 2,
                      pte := pte, body := .store bs }
  awaitRoce p (applyStore p bs (passItem p.src p.dst 2 t.s))

/-- The number of elements that the next write carries. -/
def CopyCmd.ready (c : CopyCmd) : Nat := min c.got c.writeEnd - c.index

/-- The bytes that the next write carries, by their keys: of elements that overlap, the later one's (R287). -/
def CopyCmd.image (c : CopyCmd) : Cells Nat :=
  (List.range c.ready).foldl (fun m i =>
    Cells.setMany 256 m (c.target (c.index + i)).key
      ((leBytes c.targetBytes (c.convert ((c.out[i]?).getD 0)).1).map (·.toNat))) []

/-- The elements of the next write that overflowed (R306). -/
def CopyCmd.spills (c : CopyCmd) : Nat := ((c.out.take c.ready).filter fun x => (c.convert x).2).length

/-- What was read for one line, row or block is written, in one step (R286). A command that a fault stops reads again what it has not
written. -/
def writeUnit (t : CopyRun) : CopyRun :=
  let c := t.c
  let done (s : State) : CopyRun :=
    { t with s := { s with g := countOverflow c.id c.spills s.g }
             c := { c with index := c.index + c.ready, out := c.out.drop c.ready } }
  match c.target c.index with
  | .mem va =>
    (match copyResolve .write va t with
      | .error t1 => if t1.fault.isSome then { t1 with c := { c with got := c.index, out := [] } } else t1
      | .ok (pa, pte) => done (writeLine c.image pa pte t))
  | .tile _ => done { t.s with g := putRow c.image t.s.g }
  | .lease _ => done (writeLease c c.image t.s)
  | .nothing => done t.s

/-- The engine's poison reaches the split that issued the command (R339). -/
def tellPoison (t : CopyRun) : State :=
  match t.poison with
  | none => t.s
  | some a => { t.s with g := tellSplit t.c.sp t.c.id { code := 0x22, acc := 0, eng := true, addr := BitVec.ofNat 64 a,
                                                        pc := t.c.pc, hdr := t.c.hdr, mask := t.s.active } t.s.g }

/-! ### Starting (R289, R305, R307) -/

/-- Changes a command. -/
def setCmd (id : Nat) (f : CopyCmd → CopyCmd) (g : Group) : Group :=
  { g with copies := g.copies.map fun c => if c.id = id then f c else c }

/-- A group whose copy commands are discarded when a fault holds them: one that is killed or gone, or that rolls back (22 R341 step 1,
09 R160). -/
def discards (g : Group) : Bool := g.killed || g.rollback || g.life == .ghost

/-- A command stops on a fault, which the engine has still to report (R290); a group that discards it is done with it. -/
def stopCmd (c : CopyCmd) (acc addr : Nat) (s : State) : State :=
  let t : TrapRec := { code := 0x10, acc := acc, eng := true, addr := BitVec.ofNat 64 addr, pc := 0, hdr := 0, mask := 0 }
  let s1 := { s with g := setCmd c.id (fun _ => { c with fault := true, report := some t }) s.g }
  if discards s.g then dropGhosts (discardHeld s1) else s1

/-- A command is over. -/
def endCmd (c : CopyCmd) (s : State) : State :=
  if packetsLeft s c.id then { s with g := setCmd c.id (fun x => { x with wrote := true }) s.g }
  else dropGhosts (settle c.id (finishOp s.g.gid c.id { s with g := { s.g with copies := s.g.copies.filter fun x => x.id != c.id } }))

/-- The first command that has not started, when none before it is held by a fault (R290, R302). -/
def nextStart (g : Group) : Option CopyCmd :=
  if g.copies.any (·.fault) then none else g.copies.find? fun c => !c.started

/-- The event of a matrix operation has occurred (R289). -/
def eventDone (g : Group) (evt : Option Nat) : Bool :=
  match evt with
  | none => true
  | some id => !(g.mtx.any fun o => o.id == id && !o.consumed)

/-- A start-time failure of a record's extent (R305). -/
def extentBad (c : CopyCmd) (s : State) : Bool :=
  let run := c.runLength * c.placeBytes
  if placeTile c.c then 256 < run + 4 * placeCol c.c || placeN c.c < c.runs
  else if c.gathers then (match c.leaseIn s with
    | some l => l.len < placeOff c.c + c.runs * run
    | none => true)
  else placeN c.c < c.runs * run

/-- The check of a record that was read: the address that TRAPADDR holds (R305, R306). -/
def startFault (c : CopyCmd) (s : State) : Option Nat :=
  let width := efmtBytes (slotOf c.slot).efmt
  if !recordOk c.iter || (c.code == 6 && 2 ^ recEsz c.iter != width) || (c.gathers && recDims c.iter != 2) then some c.a.toNat
  else if c.gathers && (c.b.toNat % 4 != 0 || 2 ^ 56 ≤ c.b.toNat) then some c.b.toNat
  else if extentBad c s then some c.a.toNat
  else none

/-- A command that names a record starts; one that fails here has not (R305). -/
def startRecord (c : CopyCmd) (s : State) : State :=
  if c.a.toNat % 64 ≠ 0 ∨ 2 ^ 56 ≤ c.a.toNat then stopCmd c 3 c.a.toNat s
  else match copyLine c.a.toNat { s := s, c := c } with
    | .error t => match t.fault with
      | some (acc, a) => stopCmd c acc a t.s
      | none => s
    | .ok (x, t) =>
      let c1 := { c with iter := (List.range 8).map fun i => x / 2 ^ (64 * i) % 2 ^ 64 }
      match startFault c1 t.s with
      | some a => stopCmd c 3 a (tellPoison t)
      | none =>
        let s1 := tellPoison t
        { s1 with g := setCmd c.id (fun _ => { c1 with started := true }) s1.g }

/-- CPSIG posts its decrement (R307): a release at .sys, after the acknowledgement of host writes (14 R243). -/
def startSignal (c : CopyCmd) (s : State) : State :=
  let a := c.a.toNat
  if a % 8 ≠ 0 ∨ 2 ^ 56 ≤ a then stopCmd c 1 a s
  else match copyResolve .write a { s := s, c := c } with
    | .error t => if t.fault.isSome then stopCmd c 1 a s else s
    | .ok (pa, pte) =>
      let waits := (s.roce.filter fun r => r.gid == s.g.gid).map (2 * ·.id + 1)
      let p : Packet := { id := c.id, gid := some s.g.gid, ctx := s.g.ctx, src := coreHome c.core, dst := homeOfPa pa, pte := pte,
                          body := .decrement pa c.b.toNat, after := waits, seq := s.fresh }
      { s with packets := s.packets ++ [p], fresh := s.fresh + 1, g := setCmd c.id (fun x => { x with started := true, wrote := true }) s.g }

/-! ### Order among the commands of a group (R286) -/

/-- Bytes of memory at a virtual address: space 0, first, number. -/
def homedBytes (c : CopyCmd) (s : State) (va n : Nat) : List (Nat × Nat × Nat) :=
  match translate s (coreHome c.core) s.g.ctx va with
  | .ok pa _ _ => [(0, pa, n)]
  | _ => []

/-- The n bytes at a spot. -/
def spotBytes (c : CopyCmd) (s : State) (p : Spot) (n : Nat) : List (Nat × Nat × Nat) :=
  match p with
  | .mem va => homedBytes c s va n
  | .tile k => [(1, k, n)]
  | .lease o => [(2, o, n)]
  | .nothing => []

/-- A command with the words of its list that it has still to read, as they stand. -/
def CopyCmd.peek (c : CopyCmd) (s : State) : CopyCmd :=
  if c.gathers then
    { c with list := c.list ++ (List.range (c.runs - c.list.length)).map fun i =>
        match homedBytes c s (c.b.toNat + 4 * (c.list.length + i)) 4 with
        | (_, pa, _) :: _ => readPa s pa 4
        | [] => 2 ^ 32 }
  else c

/-- Bytes that a command has still to access. -/
def footprint (c : CopyCmd) (s : State) : List (Nat × Nat × Nat) :=
  if c.code = 5 then homedBytes c s c.a.toNat 8
  else
    let d := c.peek s
    let list := (List.range (d.list.length - c.list.length)).flatMap fun i => homedBytes c s (c.b.toNat + 4 * (c.list.length + i)) 4
    list ++ ((List.range (c.total - c.got)).flatMap fun i => spotBytes c s (d.source (c.got + i)) c.sourceBytes)
      ++ (List.range (c.total - c.index)).flatMap fun i => spotBytes c s (d.target (c.index + i)) c.targetBytes

/-- An earlier command of the group has still to access one of some bytes, and comes first (R286). -/
def behindBytes (c : CopyCmd) (bs : List (Nat × Nat × Nat)) (s : State) : Bool :=
  (s.g.copies.takeWhile fun x => x.id != c.id).any fun x => (x.code == 5 || !x.wrote) &&
    (footprint x s).any fun a => bs.any fun b => a.1 == b.1 && overlaps a.2 b.2

/-- COPY_START (R289): the group's next command starts when its event has occurred; CPSIG when every earlier command has
finished (R307). -/
def execCopyStart (gid : Word) (s : State) : Result :=
  match focusGroup gid s with
  | none => .next s
  | some s1 =>
    match nextStart s1.g with
    | none => .next s1
    | some c =>
      let first := s1.g.copies.head?.map (·.id) == some c.id
      if s1.g.life == .saved || !eventDone s1.g c.evt || c.after.any (stillPending s1) || (c.code == 5 && !first) then .next s1
      else if c.code = 5 then .next (startSignal c s1)
      else if c.usesRecord then (if behindBytes c (homedBytes c s1 c.a.toNat 64) s1 then .next s1 else .next (startRecord c s1).spend)
      else .next { s1 with g := setCmd c.id (fun x => { x with started := true }) s1.g }

/-! ### The accesses of a started command -/

/-- Bytes of the next access of a command. -/
def nextBytes (c : CopyCmd) (s : State) : List (Nat × Nat × Nat) :=
  if c.wantsList then homedBytes c s (c.b.toNat + 4 * c.list.length) 4
  else if c.got < c.writeEnd then
    (List.range (c.readEnd - c.got)).flatMap fun i => spotBytes c s (c.source (c.got + i)) c.sourceBytes
  else (List.range c.ready).flatMap fun i => spotBytes c s (c.target (c.index + i)) c.targetBytes

/-- The next reading or writing. When an element cannot be read, those before it are written first (R290). -/
def carryUnit (t : CopyRun) : CopyRun :=
  if t.c.got < t.c.writeEnd then
    let r := readUnit t
    if r.fault.isSome && t.c.index < t.c.got then writeUnit t else r
  else writeUnit t

/-- The next access of a command: a line of its list, the reading of a line, row or block, or the writing of one. When a word of the list
cannot be read, the elements before it come first (R290). -/
def copyAccess (c : CopyCmd) (s : State) : CopyRun :=
  let t : CopyRun := { s := s, c := c }
  if c.wantsList then
    let r := takeList t
    if r.fault.isSome && c.index < c.known then carryUnit t else r
  else carryUnit t

/-- A started command that nothing holds. -/
def readyCmd (cmd : Nat) (s : State) : Option CopyCmd :=
  (s.g.copies.find? fun c => c.id == cmd).filter fun c =>
    !(!c.started || c.fault || c.wrote || s.g.life == .saved || behindBytes c (nextBytes c s) s)

/-- After an access: the command goes on, stops on a fault (R290), or is over. -/
def afterAccess (t : CopyRun) : State :=
  let s := tellPoison t
  let s1 := { s with g := setCmd t.c.id (fun _ => t.c) s.g }.spend
  match t.fault with
  | some (acc, a) => stopCmd t.c acc a s1
  | none => if t.c.index = t.c.total then endCmd t.c s1 else s1

/-- COPY_FINISH (R285, R288): a started command performs its next access; after the last it is over. -/
def execCopyFinish (gid : Word) (cmd : Nat) (s : State) : Result :=
  match focusGroup gid s with
  | none => .next s
  | some s1 =>
    match readyCmd cmd s1 with
    | none => .next s1
    | some c => .next (afterAccess (copyAccess c s1))

/-- The granules that a write of a command reached become poisoned (22 R330, Table 22.4). -/
def poisonTarget (t : CopyRun) (from_ : CopyCmd) : State :=
  match from_.target from_.index with
  | .mem va => (match translate t.s (coreHome from_.core) t.s.g.ctx va with
    | .ok pa pte _ => if paTier pa < 2 then poisonBoth (some t.s.g.gid) pa pte t.s else t.s
    | _ => t.s)
  | .tile k => { t.s with g := { t.s.g with poisonTile := Cells.set false t.s.g.poisonTile (k / 256) true } }
  | .lease _ => (match from_.leaseIn t.s with
    | some l => if l.dead then t.s else from_.image.foldl (fun s e =>
        s.setCore l.core fun k => { k with poison := Cells.set false k.poison ((l.base + e.1) / 4) true }) t.s
    | none => t.s)
  | .nothing => t.s

/-- The engine's step that writes fails, and fails again when it is repeated: the elements count as written, and their granules are
poisoned (22 R330). The poison of a line is found once the accesses pending at it are performed (log 99). -/
def failCopy (gid : Word) (cmd : Nat) (s : State) : State :=
  match focusGroup gid s with
  | none => s
  | some s1 =>
    match readyCmd cmd s1 with
    | none => s1
    | some c =>
      let awaited := (nextBytes c s1).any fun b => b.1 == 0 && lineAwaited s1 (b.2.1 / 64)
      if c.wantsList || c.got < c.writeEnd || awaited then s1
      else
        let t := writeUnit { s := s1, c := c }
        afterAccess (if t.stop then t else { t with s := poisonTarget t c })

/-! ### The copy fault (R290, R320) -/

/-- The engine's report reaches the group: its commands' first report (R290). -/
def takeReport (s : State) : State :=
  match s.g.copyFault, s.g.copies.find? fun c => c.report.isSome with
  | none, some c =>
    { s with g := { setCmd c.id (fun x => { x with report := none }) s.g with copyFault := c.report } }
  | _, _ => s

/-- The reported fault is of a command of the focused split (19 R308). -/
def ownFault (g : Group) : Bool := g.copies.any fun c => c.fault && c.report.isNone && g.sp.ops.any fun o => o.id == c.id

/-- The reported fault is raised precise at a header or a WAITC: its command goes on after the handler (R290, R308). -/
def raiseCopyFault (t : TrapRec) (pc : DWord) (s : State) : State :=
  let mark (c : CopyCmd) : CopyCmd := if c.fault && c.report.isNone then { c with raised := some s.g.sp.idx } else c
  takeTrap { t with pc := pc, hdr := s.g.sp.pc, mask := s.active }
    { s with g := { s.g with copyFault := none, copies := s.g.copies.map mark } }

/-- Commands whose fault a handler has seen resume at their element (R290): a fault that a split still holds behind another split's handler
has not been seen. -/
def resumeCommands (g : Group) : Group :=
  let held (i : Nat) : Bool := g.splits.any fun sp => sp.idx == i && sp.trap.isSome
  { g with copies := g.copies.map fun c => match c.raised with
      | some i => if held i then c else { c with fault := false, raised := none }
      | none => c }

/-- COPY_FAULT_REPORT (R290): the engine reports a copy fault of the group. A split that waits in WAITC on COPY takes it there;
any other at its next clause (R308). -/
def execCopyFaultReport (gid : Word) (s : State) : Result :=
  match focusGroup gid s with
  | none => .next s
  | some s1 => .next (takeReport s1)

end Sys2Proof.Machine
end

