-- ==== Sys2Proof/Machine/Preempt.lean ====
section
/-! DEFINITION. Pre-emption: requests, the stop of the splits, the save of a group and of a team with a lease (spec/21 R324
to R328). A saved group keeps its record; the parking area that holds its jackets cannot be addressed. -/

namespace Sys2Proof.Machine

/-! ### The parking area of a home (13 R227, R228) -/

/-- The live set that a split without a place has packed. -/
def parkedLive (sp : Split) : LiveSet := match sp.jacket with
  | some j => j.live
  | none => sp.live

/-- Size of a split's jacket: that of the live set that it carries (03 R53, 13 R223); the operand tail is not counted (15 R247). -/
def parkedSize (g : Group) (sp : Split) : Nat :=
  let l := parkedLive sp
  ({ l with v := l.v % 2 ^ g.w } : LiveSet).size

/-- The home whose parking area holds, or is to hold, the jacket of a split without a place: the one that it is still to leave, else the
split's own (R228). -/
def jacketHome (sp : Split) : Nat := match sp.sent with
  | some (h, 0) => h
  | _ => sp.home

/-- Bytes that a group has in a home's parking area: its record and its jackets; of a saved group every jacket, at its base home, and the
tile rows, at its own (R227, 21 R324, R325). -/
def groupParked (h : Nat) (g : Group) : Nat :=
  match g.life with
  | .live | .ending =>
    (if g.baseHome = h then 256 else 0)
      + ((g.splits.filter fun sp => sp.part.isNone && jacketHome sp == h).map (parkedSize g)).sum
  | .saved =>
    (if g.baseHome = h then 256 + g.splits.length * jacketSize g else 0) + if g.sp.home = h then 256 * g.tileRows else 0
  | _ => 0

/-- Bytes in use of a home's parking area and its overflow region (R227, R228, 21 R325). -/
def parkUsed (s : State) (h : Nat) : Nat :=
  64 * (s.home h).records.length + (s.groups.map (groupParked h)).sum
    + ((s.leases.filter fun l => l.saved.isSome && coreHome l.core == h).map (·.len)).sum

/-- The parking area of a home, and its overflow region (R228). -/
def parkLimit (s : State) (h : Nat) : Nat := Config.parkingBytes + match (s.home h).overflow with
  | some r => r.2
  | none => 0

/-- They have room for some more bytes (R228). -/
def parkRoom (s : State) (h n : Nat) : Bool := parkUsed s h + n ≤ parkLimit s h

/-! ### Requests (R324) -/

/-- The split waits for the thresholds of a fetched header. -/
def waitsAtHeader (sp : Split) : Bool := sp.clause.stage == .fetched && !clauseReady sp

/-- A request reaches a split of a group: one that waits stops at once, and in a registered wait only the wait is left. The splits
of a handler, and those that it suspends, go on after it (R324). -/
def stopWaiting (g : Group) (sp : Split) : Split :=
  if handlerSplit g sp then sp else match sp.status with
  | .waiting =>
    if sp.wait.isSome then { sp with stopped := true, wonly := true }
    else if sp.watch.isSome && sp.move.isNone then { sp with stopped := true } else sp
  | .atSeam => { sp with stopped := true }
  | .transit => if sp.move.isNone && sp.joins.isNone then { sp with stopped := true } else sp
  | .runnable =>
    if waitsInWaitc sp then { sp with stopped := true }
    else if waitsAtHeader sp then { sp with stopped := true, clause := {} } else sp
  | .suspended => sp

/-- A request reaches a group (R324). -/
def requestGroup (g : Group) : Group := Group.mapSplits (stopWaiting g) { g with preempt := true }

/-- A group that a request can reach; a diagnostic group is never pre-empted (08 R135). -/
def preemptible (g : Group) : Bool := g.life == .live && !g.diag

/-- The teams of the anchored groups that a request names, one of them saved or not (R324). -/
def stopTeams (s : State) (p : Group → Bool) : List Nat :=
  (s.groups.filter fun g => (preemptible g || g.life == .saved) && p g && anchored s g).filterMap (·.team)

/-- A pre-emption request for the groups that a test names: one that names an anchored group extends to its team. -/
def requestStop (p : Group → Bool) (s : State) : State :=
  let ts := stopTeams s p
  let named (g : Group) : Bool := preemptible g && (p g || (match g.team with
    | some r => ts.contains r
    | none => false))
  s.mapGroups fun g => if named g then requestGroup g else g

/-- The cards taken from a slot that have not completed (23 R356). -/
def cardsAt (s : State) (slot : Nat) : List Nat := (s.cards.filter fun c => c.slot == slot).map (·.id)

/-- A group that is resident, parked or saved on a package: by its base home, or by the home of one of its splits (23 R356). -/
def onPackage (pkg : Nat) (g : Group) : Bool :=
  (g.life == .live || g.life == .ending || g.life == .saved)
    && (homePkg g.baseHome == pkg || g.splits.any fun sp => homePkg sp.home == pkg)

/-- A group that an identity of a kind names (23 R356, 26 R380): by GRPID, TEAMID or the card's slot. -/
def namedAs (s : State) (kind : Nat) (x : DWord) (slot : Option Nat) (g : Group) : Bool :=
  match kind with
  | 0 => g.gid.setWidth 64 == x
  | 1 => g.team.isSome && g.teamId.setWidth 64 == x
  | _ => match slot with
    | some a => (cardsAt s a).contains g.card
    | none => false

/-- A group on a package that an identity names there. Identities are those of the package where a group is based (05 R94): a group that is
only visiting is named when none based there is. -/
def namedOn (s : State) (pkg kind : Nat) (x : DWord) (slot : Option Nat) (g : Group) : Bool :=
  namedAs s kind x slot g && onPackage pkg g
    && (homePkg g.baseHome == pkg || !s.groups.any fun y => onPackage pkg y && homePkg y.baseHome == pkg && namedAs s kind x slot y)

/-- Two groups are of the same object of a kind: the same team, the same card. -/
def sameObject (kind : Nat) (x y : Group) : Bool :=
  match kind with
  | 0 => false
  | 1 => x.team == y.team
  | _ => x.card == y.card

/-- The groups that a request names, members of a team or a card elsewhere included; none where the identity names nothing on the
package (23 R356). -/
def namedBy (s : State) (pkg kind : Nat) (x : DWord) (slot : Option Nat) (g : Group) : Bool :=
  namedOn s pkg kind x slot g || (namedAs s kind x slot g && s.groups.any fun y => namedOn s pkg kind x slot y && sameObject kind g y)

/-! ### The save (R324, R325) -/

/-- A stopped split, or one that a halted handler suspends, whose operations are over; commands held by a fault stay counted (R324,
23 R350). -/
def drained (g : Group) (sp : Split) : Bool :=
  (sp.stopped || (g.halted && sp.status == .suspended)) && sp.ops.all (fun o => g.copies.any fun c => c.id == o.id && c.fault)
    && !g.accs.any fun a => a.owners.contains sp.idx

/-- Every split of a live group has stopped and drained, and no handler is still to end (R324). -/
def readyToSave (g : Group) : Bool :=
  g.life == .live && wantsStop g && g.path.isNone && g.splits.all fun sp => drained g sp && sp.joins.isNone

/-- A split is saved with its whole state, in a whole-state jacket, away from its partition (R324). -/
def saveSplit (s : State) (g : Group) (sp : Split) : Split :=
  packed s g (wholeOf g) 0
    { sp with part := none, resgen := sp.resgen + 1, stopped := true, keep := wholeOf g, live := wholeOf g, ls := 0, move := none,
              sent := none, cross := none }

/-- A group is saved. -/
def saveGroup (s : State) (g : Group) : Group :=
  Group.mapSplits (saveSplit s g) { g with life := .saved, preempt := false, halted := false }

/-- The parking areas that would hold what some groups save have room for it; until they have, the groups stay where they stopped
(13 R228). -/
def saveFits (t : State) (gids : List Word) : Bool :=
  (t.groups.filter fun g => gids.contains g.gid).all fun g =>
    parkUsed t g.baseHome ≤ parkLimit t g.baseHome && parkUsed t g.sp.home ≤ parkLimit t g.sp.home

/-- The focused group is saved on its own: one whose team holds no lease (R324, R325). -/
def execPreemptSave (gid : Word) (s : State) : Result :=
  match focusGroup gid s with
  | none => .next s
  | some s1 =>
    let t := dropLatches gid { s1 with g := saveGroup s1 s1.g }
    .next (if readyToSave s1.g && (leaseOf s1 s1.g).isNone && saveFits t [gid] then t else s1)

/-- The contents of a lease leave the scratchpad (R325). -/
def saveLease (team : Nat) (s : State) : State :=
  let f (l : Lease) : Lease :=
    if l.team == team && !l.dead then
      let c := s.core l.core
      { l with saved := some (Bytes.write [] 0 (Cells.getMany 0 c.scratch l.base l.len))
               spoiled := (List.range (l.len / 4)).foldl (fun m i =>
                 Cells.set false m i (Cells.get false c.poison (l.base / 4 + i))) [] }
    else l
  { s with leases := s.leases.map f }

/-- TEAM_SAVE (R325): a team that holds a lease is saved once every member has stopped. -/
def execTeamSave (gid : Word) (s : State) : Result :=
  match focusGroup gid s with
  | none => .next s
  | some s1 =>
    match leaseOf s1 s1.g with
    | none => .next s1
    | some l =>
      let member (g : Group) : Bool := g.life == .live && g.team == some l.team
      if (s1.groups.filter member).all readyToSave then
        let ids := (s1.groups.filter member).map (·.gid)
        let s2 := (saveLease l.team s1).mapGroups fun g => if member g then saveGroup s1 g else g
        .next (if saveFits s2 ids then ids.foldl (fun s i => dropLatches i s) s2 else s1)
      else .next s1

end Sys2Proof.Machine
end

