-- ==== Sys2Proof/Machine/Fetch.lean ====
section
/-! DEFINITION. Fetch and issue of clauses (spec/01 R13, R14, spec/02 R22 to R28, spec/12 R203, spec/21 R323). -/

namespace Sys2Proof.Machine

/-! ### Fetch (01 R13 step 1, 02 R26) -/

/-- One instruction word with execute permission; none when its address or translation does not allow it. -/
def fetchOne (s : State) (a : Nat) : Option Word :=
  if 2 ^ 56 ≤ a then none
  else match resolve s s.g.sp.home s.g.ctx s.g.sup false .fetch a with
    | .ok (pa, _) => some (fetchWord s pa)
    | .error _ => none

/-- Words at consecutive addresses, or the lowest address that faults. -/
def fetchWords (s : State) : Nat → Nat → Except Nat (List Word)
  | 0, _ => .ok []
  | n + 1, a => match fetchOne s a with
    | none => .error a
    | some w => (fetchWords s n (a + 4)).map (w :: ·)

/-- Why a clause cannot be fetched: illegal-clause trap, or instruction-fetch fault with its address. -/
inductive FetchFault where
  /-- Illegal-clause trap (R13, R23, R27, R28). -/
  | clause
  /-- Instruction-fetch fault (R26). -/
  | fault (addr : Nat)
  deriving DecidableEq, Repr

/-- The clause at an address: its header and words (R13, R22 to R28). The header is checked first, then every word is fetched, then their
placement is checked: the spec orders neither against the others (DESIGN CHOICE, log 114). -/
def fetchClause (s : State) (pc : DWord) : Except FetchFault (Header × List Word) :=
  if pc.toNat % 4 ≠ 0 then .error .clause
  else match fetchOne s pc.toNat with
    | none => .error (.fault pc.toNat)
    | some w =>
      match headerOf w with
      | none => .error .clause
      | some h => match fetchWords s h.n (pc.toNat + 4) with
        | .error a => .error (.fault a)
        | .ok ws => if placed h.cls ws then .ok (h, ws) else .error .clause

/-- The trap of a clause that cannot be fetched, precise at its header. -/
def fetchTrap (f : FetchFault) (s : State) : State :=
  match f with
  | .clause => headerTrap 0x01 3 0 s
  | .fault a => headerTrap 0x04 2 (BitVec.ofNat 64 a) s

/-- Instructions that begin before word `pos` of a clause. -/
def instrsBefore (c : EngineClass) : Nat → List Word → Nat → Nat
  | 0, _, _ => 0
  | _, [], _ => 0
  | n + 1, w :: ws, pos =>
    if pos = 0 then 0
    else 1 + instrsBefore c n ((w :: ws).drop (wordCount c w)) (pos - wordCount c w)

/-- A split that may fetch, issue or execute: runnable, on a partition, not stopped, moving, restarting or waiting for a
jacket of its own (10 R171, 13 R220, 21 R324, 22 R336), and with no access that holds its next clause (15 R255). -/
def mayGo (g : Group) : Bool :=
  let sp := g.sp
  g.life == .live && !g.rollback && sp.status == .runnable && sp.part.isSome && !sp.stopped && sp.move.isNone
    && sp.restart.isNone && sp.trap.isNone && sp.inval.isNone
    && !(g.sibs.any fun x => x.joins == some sp.idx) && !(g.accs.any fun a => a.block && a.owners.contains sp.idx)

/-- The unresolved predicted path of the focused split (10 R176). -/
def onPath (g : Group) : Option Path := g.path.bind fun p => if p.sp = g.sp.idx then some p else none

/-- Behind the handler of another split, a split stops at its clause boundary (21 R314): one that a return has put inside a clause goes on
to the end of it (R318). -/
def mustSuspend (g : Group) : Bool :=
  !(g.sp.clause.inside && g.sp.clause.pos != 0) && match g.handler with
  | .none => false
  | .pending f => g.sp.idx != f
  | .running _ => !handlerSplit g g.sp

/-- A split that waits in place for an access of a handler's instruction, in the middle of its clause (21 R316). -/
def waitsInside (g : Group) (sp : Split) : Bool :=
  sp.status == .waiting && (sp.await.isSome || g.accs.any fun a => a.stall && a.owners.contains sp.idx)

/-- A split that is inside its clause on a partition: its group keeps the partition until the clause is over, but for the wait of a
WAITC, which ends its clause, and for an unresolved predicted path, whose hem buffer survives a switch (12 R204, 10 R179). -/
def insideClause (g : Group) (sp : Split) : Bool :=
  g.life == .live && !g.rollback && sp.clause.stage == .issued && (sp.status == .runnable || waitsInside g sp) && !sp.stopped
    && sp.move.isNone
    && sp.trap.isNone && sp.restart.isNone && !waitsInWaitc sp && !(match g.path with
      | some p => p.sp == sp.idx
      | none => false)

/-- No split but the focused one is inside a clause on a partition (12 R204). -/
def partFree (s : State) (p : Nat) : Bool :=
  !(s.g.sibs.any fun sp => sp.part == some p && insideClause s.g sp)
    && !s.others.any fun g => g.splits.any fun sp => sp.part == some p && insideClause g sp

/-- The focused split's partition is free for its clause. -/
def mayEnter (s : State) : Bool := match s.g.sp.part with
  | some p => partFree s p
  | none => false

/-- CLAUSE_FETCH (R13 step 1, R26): the words of the clause at the split's PC are fetched and checked. After ERET into a
clause its words are fetched again and execution goes on inside it, once its partition is free (21 R318, 12 R204). -/
def execClauseFetch (gid : Word) (sp : Nat) (s : State) : Result :=
  match focus gid sp s with
  | none => .next s
  | some s1 =>
    if !mayGo s1.g || s1.g.sp.clause.stage != .idle then .next s1
    else if mustSuspend s1.g then .next (s1.setSp fun x => { x with status := .suspended })
    else if spinLimit ≤ s1.g.sp.spin || (s1.g.sp.clause.inside && !mayEnter s1) then .next s1
    else match fetchClause s1 s1.g.sp.pc with
      | .error f => .next (fetchTrap f s1).spend
      | .ok (h, ws) =>
        let c := s1.g.sp.clause
        if c.inside then
          if h.n ≤ c.pos then .next (fetchTrap .clause s1).spend
          else .next (s1.spend.setSp fun x => { x with clause :=
            { stage := .issued, hdr := h, words := ws, pos := c.pos, k := instrsBefore h.cls 16 ws c.pos, latch := c.latch,
              anch := anchored s1 s1.g } })
        else .next (s1.spend.setSp fun x => { x with clause := { stage := .fetched, hdr := h, words := ws } })

/-! ### The issue slot of a partition (12 R203) -/

/-- A split of a group that is ready to issue a clause (R203). -/
def readySplit (g : Group) (sp : Split) : Bool :=
  match focusSplit sp.idx g with
  | none => false
  | some x => mayGo x && x.sp.clause.stage == .fetched && clauseReady x.sp && !mustSuspend x && (onPath x).isNone

/-- Groups of one record of a card, or of one gang; of the whole card; of its launch team k (09 R148, R150, R153). -/
def Card.perRecord (c : Card) : Nat := if c.gang then (c.roles.map (·.count)).sum else c.grpRec
def Card.total (c : Card) : Nat := c.records * c.perRecord
def Card.teamLength (c : Card) (k : Nat) : Nat :=
  if c.gang then c.perRecord else min c.teamSize (c.total - k * c.teamSize)

/-- A team of n groups of a window and number of tile rows can be resident at a home at one time (09 R144). -/
def homeHolds (s : State) (home n w rows : Nat) : Bool :=
  let cores := (List.range Config.coresPerHome).filter fun c => !coreMarked s (home * 64 + c)
  n ≤ cores.length * 4 * min Config.slotsPerPartition (min (Config.registersPerPartition / w) (Config.tileRowsPerPartition / rows))

/-- Members of a group's launch team, which tile rows alone anchor, are still to be admitted: none of the team runs before all are
resident (09 R162), unless the team is more than its home can hold at one time (12 R201, R202; log 106). -/
def teamComing (s : State) (g : Group) : Bool :=
  g.tileRows != 0 && match s.cards.find? fun c => c.id == g.card with
    | none => false
    | some c =>
      let k := (g.recIdx.toNat * c.grpRec + g.grpInRec.toNat) / c.teamSize
      !c.gang && c.lease == 0 && c.teamSize != 0 && homeHolds s g.baseHome (c.teamLength k) g.w g.tileRows
        && (s.home g.baseHome).adm.any fun x => match x.2 with
          | .chunk id rs => id == c.id && rs.any fun r => r.1 < (k + 1) * c.teamSize && k * c.teamSize < r.2
          | _ => false

/-- The splits ready on a partition: group, split, level, and whether it yielded. -/
def readyOn (s : State) (p : Nat) : List (Word × Nat × Nat × Bool) :=
  (s.groups.filter fun g => !teamComing s g).flatMap fun g => (g.splits.filter fun sp => sp.part == some p && readySplit g sp).map fun sp =>
    (g.gid, sp.idx, levelOf g sp, sp.yielded)

/-- The candidates of a partition: one that yielded is none while another group has one that did not (R203, 05 R93). -/
def candidates (s : State) (p : Nat) : List (Word × Nat × Nat × Bool) :=
  let r := readyOn s p
  r.filter fun c => !c.2.2.2 || !(r.any fun d => d.1 != c.1 && !d.2.2.2)

/-- The highest level of some candidates. -/
def topLevel (cs : List (Word × Nat × Nat × Bool)) : Nat := cs.foldl (fun n c => max n c.2.2.1) 0

/-- The count of a level: slots since its last issue, or since it last came to hold a candidate (R203 step 1). -/
def levelCount (k : Part) (l : Nat) : Nat := if k.had.contains l then Cells.get 0 k.count l else 0

/-- The due level of a partition: the highest below the top with 63 slots behind it (R203 step 1). -/
def dueLevel (s : State) (p : Nat) : Option Nat :=
  let cs := candidates s p
  let due := (cs.filter fun c => c.2.2.1 < topLevel cs && 63 ≤ levelCount (s.part p) c.2.2.1).map (·.2.2.1)
  match due with
  | [] => none
  | x :: xs => some (xs.foldl max x)

/-- The first number after `last` in the rotation of some numbers. -/
def nextAfter (last : Option Nat) (xs : List Nat) : Option Nat :=
  let up := match last with
    | none => []
    | some l => xs.filter fun x => l < x
  match (if up.isEmpty then xs else up) with
  | [] => none
  | x :: rest => some (rest.foldl min x)

/-- The clause that a partition's slot goes to: level, then group, in the level's rotation, then split, in the group's (R203 steps 2 to
4, 10 R182). -/
def slotChoice (s : State) (p : Nat) : Option (Word × Nat) :=
  let cs := candidates s p
  let level := (dueLevel s p).getD (topLevel cs)
  let at' := cs.filter fun c => c.2.2.1 == level
  let k := s.part p
  (nextAfter ((Cells.get none k.served level).map (·.toNat)) (at'.map fun c => c.1.toNat)).bind fun g =>
    let gid : Word := BitVec.ofNat 32 g
    (nextAfter (Cells.get none k.splits g) ((at'.filter fun c => c.1 == gid).map (·.2.1))).map fun i => (gid, i)

/-- A slot is spent: the counts of the levels, and the groups that yielded to another (R203). -/
def spendSlot (p : Nat) (gid : Word) (idx level : Nat) (s : State) : State :=
  let levels := (candidates s p).map (·.2.2.1)
  let s1 := s.setPart p fun k =>
    { k with
      served := Cells.set none k.served level (some gid)
      splits := Cells.set none k.splits gid.toNat (some idx)
      had := levels.foldl (fun l x => if l.contains x then l else l ++ [x]) []
      count := levels.foldl (fun m l => Cells.set 0 m l (if l = level then 0 else levelCount k l + 1)) [] }
  s1.mapGroups fun g =>
    if g.gid == gid then g else g.mapSplits fun sp => if sp.part == some p then { sp with yielded := false } else sp

/-- A level that holds no candidate any more loses its count, which starts again when it regains one (R203 step 1). -/
def settleLevels (s : State) : State :=
  if s.parts.all fun e => e.2.had.isEmpty then s
  else { s with parts := s.parts.filterMap fun e =>
    let cs := candidates s e.1
    let p : Part := { e.2 with had := e.2.had.filter fun l => cs.any fun c => c.2.2.1 == l }
    if p = {} then none else some (e.1, p) }

/-! ### Issue (01 R13 step 2) -/

/-- What the split meets before it issues a clause: a reported error (22 R331, R339), then a reported copy fault (18 R290,
21 R320). -/
def reported (s : State) : Option State :=
  match s.g.sp.err with
  | some t => some (takeError t (s.setSp fun sp => { sp with err := none, clause := {} }))
  | none =>
    match s.g.copyFault with
    | some t => if s.g.handler == .none && !s.g.sup then some (raiseCopyFault t s.g.sp.pc s) else none
    | none => none

/-- The clause of the focused split issues. A demoted split returns to its card's priority (10 R181). -/
def issueClause (p : Nat) (s : State) : State :=
  (spendSlot p s.g.gid s.g.sp.idx (levelOf s.g s.g.sp) s).setSp fun sp =>
    { sp with demoted := false, clause := { sp.clause with stage := .issued, anch := anchored s s.g } }

/-- CLAUSE_ISSUE (R13 step 2, R203): the clause of a split issues when its thresholds hold, no other clause is
unfinished on its partition, and the slot there goes to it; a reported error or copy fault is raised instead. A request stops a split that waits here (21 R324). -/
def execClauseIssue (gid : Word) (sp : Nat) (s : State) : Result :=
  match focus gid sp s with
  | none => .next s
  | some s1 =>
    if !mayGo s1.g || s1.g.sp.clause.stage != .fetched || (onPath s1.g).isSome then .next s1
    else if mustSuspend s1.g then .next (s1.setSp fun x => { x with status := .suspended, clause := {} })
    else match reported s1 with
      | some s2 => .next s2
      | none =>
        if !clauseReady s1.g.sp then
          .next (if wantsStop s1.g then s1.setSp fun x => { x with stopped := true, clause := {} } else s1)
        else match s1.g.sp.part with
          | none => .next s1
          | some p => if partFree s1 p && slotChoice s1 p == some (gid, sp) then .next (issueClause p s1) else .next s1

/-- ISSUE_DUE_LEVEL (R203 step 1): a slot goes to a level that is due. -/
def execIssueDueLevel (part : Nat) (level : Nat) (s : State) : Result :=
  if dueLevel s part != some level then .next s
  else match slotChoice s part with
    | none => .next s
    | some (gid, sp) => execClauseIssue gid sp s

/-! ### What lets a waiting instruction go on -/

/-- A split whose instruction is in execution. -/
def executing (sp : Split) : Bool := sp.clause.stage == .issued && sp.status == .runnable

/-- COUNTER_ROOM (01 R14): a counter has fallen, and the instruction that waited for it issues. -/
def execCounterRoom (gid : Word) (sp : Nat) (s : State) : Result :=
  match focus gid sp s with
  | none => .next s
  | some s1 => .next (if executing s1.g.sp then s1.push [.run gid sp] else s1)

/-- WAIT_COUNTER_SATISFIED (19 R308, 01 R13): a WAITC or a header that waited for a counter goes on. -/
def execWaitCounterSatisfied (gid : Word) (sp : Nat) (s : State) : Result :=
  match focus gid sp s with
  | none => .next s
  | some s1 =>
    .next (if executing s1.g.sp then s1.push [.run gid sp]
           else if s1.g.sp.clause.stage == .fetched && clauseReady s1.g.sp then s1.push [.clauseIssue gid sp] else s1)

/-- Instructions that name a live set: the safe points (21 R323). -/
def isSafePoint : Instr → Bool
  | .ldb _ | .ldbs _ | .ldh _ | .ldhs _ | .ldw _ | .ldd _ | .ldq _ | .ldaw .. | .ldad .. | .ldpw _ | .ldpd _ | .migrate ..
  | .atadd _ | .atmin _ | .atmax _ | .atminu _ | .atmaxu _ | .atand _ | .ator _ | .atxor _ | .atxch _ | .atcas _ | .atfadd _
  | .dqpush _ | .dqpop _ | .dqsteal _ | .barwait _ | .barsync _ | .genwait .. | .sigwait .. | .seam .. | .iregion _
  | .safept _ | .ckbegin .. | .ckcommit .. => true
  | _ => false

/-- The instruction at a split's place. -/
def placeInstr (sp : Split) : Except Reject Instr := decode sp.clause.hdr.cls (sp.clause.words.drop sp.clause.pos)

/-- The next instruction would make the count 4097 (21 R323); diagnostic groups are exempt (08 R135). -/
def overruns (g : Group) : Bool :=
  4096 ≤ g.sp.safe && !g.diag && match placeInstr g.sp with
    | .ok i => !isSafePoint i
    | .error _ => true

/-- SAFE_POINT_OVERRUN_TRAP (21 R323): the turn of the instruction that would overrun comes, and raises the trap before it executes,
behind its encoding traps (02 R44; `runInstr`). -/
def execSafePointOverrunTrap (gid : Word) (sp : Nat) (s : State) : Result :=
  match focus gid sp s with
  | none => .next s
  | some s1 => .next (if mayGo s1.g && executing s1.g.sp && overruns s1.g then s1.push [.run gid sp] else s1)

end Sys2Proof.Machine
end

