-- ==== Sys2Proof/Machine/System.lean ====
section
/-! DEFINITION. Class 7 (spec/23 R348 to R352, R354 to R356, spec/21 R318, R324, spec/22 R333). -/

namespace Sys2Proof.Machine

/-- An instruction marked sup (R348). -/
def supOnly (s : State) (k : Result) : Result := if s.g.sup then k else illegalInstruction s

/-! ### Software traps (R349) -/

/-- TRAP: TRAPPC is the header after its clause, TRAPADDR its immediate. -/
def execTrap (n : Imm14) (s : State) : Result :=
  .next (takeTrap { code := 0x12, defer := s.g.sp.defer != 0, addr := n.setWidth 64, pc := nextHeader s.g.sp,
                    hdr := nextHeader s.g.sp, mask := s.active } s)

/-- BRK: TRAPPC is its own word. -/
def execBrk (s : State) : Result := trapAt 0x13 3 0 0 s

/-! ### ERET (21 R318) -/

/-- The splits of the handler. -/
def handlerSplits (g : Group) : List Split := g.splits.filter (handlerSplit g)

/-- Length of the frame (R315). -/
def frameSize (g : Group) : Nat := jacketSize g + 1024 + 24

/-- n bytes of a frame from an offset, as a number. -/
def frameN (f : List Byte) (o n : Nat) : Nat := leNat ((f.drop o).take n)

/-- The line of a frame's byte is poisoned. -/
def framePoisoned (s : State) (o : Nat) : Bool :=
  match translate s s.g.baseHome s.g.ctx (s.g.ctxbase.toNat + o) with
  | .ok pa _ _ => poisonedLine s (pa / 64)
  | _ => false

/-- The cursor and OVR that a byte of a frame gives a lane; for a byte whose cursor exceeds 64, a free one (07 R127 Table 7.4, log 93). -/
def frameCursor (k : Nat) (f : List Byte) (o : Nat) : Byte :=
  let x := frameN f o 1
  BitVec.ofNat 8 (if x % 128 ≤ 64 then x else x / 128 * 128 + Config.strayCursor (k * 2 ^ 16 + o) % 65)

/-- The lanes of the current split take the frame's vector registers, predicate bits, EM bits and BCUR (R318 step 2); `k` numbers the
return. -/
def restoreLanes (k : Nat) (f : List Byte) (g : Group) : Group :=
  let lanes := lanesOf g.sp.lanes
  let o := 64 + 128 * g.w
  { g with
    v := (List.range g.w).foldl (fun v r => setLanes r lanes (fun l => BitVec.ofNat 32 (frameN f (64 + 4 * vkey r l) 4)) v) g.v
    p := (List.range 7).foldl (fun p k =>
      let x : LaneSet := BitVec.ofNat 32 (frameN f (o + 504 + 4 * k) 4)
      Cells.set 0 p (k + 1) ((Cells.get 0 p (k + 1) &&& ~~~g.sp.lanes) ||| (x &&& g.sp.lanes))) g.p
    em := (g.em &&& ~~~g.sp.lanes) ||| (BitVec.ofNat 32 (frameN f 8 4) &&& g.sp.lanes)
    bcur := lanes.foldl (fun b l => Cells.set 0 b l (frameCursor k f (o + 532 + l))) g.bcur }

/-- The scalars of the frame. -/
def restoredScalars (f : List Byte) (g : Group) : Cells DWord :=
  Cells.setMany 0 [] 1 ((List.range 63).map fun k => BitVec.ofNat 64 (frameN f (64 + 128 * g.w + 8 * k) 8))

/-- The open-region entry of the frame (13 Table 13.6). -/
def restoredRegion (f : List Byte) : Option Region :=
  let x := frameN f 0x28 8
  if bits x 63 63 = 1 then some { ls := bits x 61 56, pc := BitVec.ofNat 64 (bits x 55 0) } else none

/-- The latches of the frame (R315 item 2). -/
def restoredLatches (f : List Byte) (g : Group) : Cells DWord :=
  Cells.setMany 0 [] 0 ((List.range 128).map fun k => BitVec.ofNat 64 (frameN f (jacketSize g + 8 * k) 8))

/-- Registers that come back poisoned: those that were at entry and whose line of the frame still is (22 R338). -/
def restorePoison (s : State) (g : Group) : Group :=
  let o := 64 + 128 * g.w
  let lanes := g.sp.lanes
  let keep (e : Nat × Bool) : Bool := lanes.getLsbD (e.1 % 32) && e.2 && framePoisoned s (64 + 4 * e.1)
  let others := Cells.drop g.poisonV fun k => lanes.getLsbD (k % 32)
  { g with
    poisonV := (g.svV.filter keep).foldl (fun m e => Cells.set false m e.1 true) others
    sp := { g.sp with
      poisonS := g.svS.filter fun e => e.2 && framePoisoned s (o + 8 * (e.1 - 1))
      poisonP := g.svP.filter fun e => e.2 && framePoisoned s (o + 504 + 4 * (e.1 - 1)) }
    svV := [], svS := [], svP := [] }

/-- Where execution goes on (R318 step 4): inside the clause of TRAPHDR at TRAPPC, or at a header. -/
def returnPoint (f : List Byte) (g : Group) (sp : Split) : Split :=
  let pc : DWord := BitVec.ofNat 64 (frameN f 0 8)
  if pc = g.trappc ∧ g.trappc ≠ g.traphdr then
    { sp with pc := g.traphdr
              clause := { inside := true, pos := (g.trappc.toNat - g.traphdr.toNat) / 4 - 1, latch := restoredLatches f g } }
  else { sp with pc := pc, clause := {} }

/-- The return from the handler, with the frame that was read; a saved seam whose missing lanes ended in the handler rejoins (R318
steps 2 to 5, 10 R172). -/
def returnFrom (f : List Byte) (s : State) : State :=
  let g1 := restorePoison s (restoreLanes s.free f s.g)
  let sp1 := returnPoint f g1 { g1.sp with
    s := restoredScalars f g1
    fpstat := BitVec.ofNat 32 (frameN f 0xC 4 % 128)
    region := restoredRegion f
    safe := 0
    tail := none
    defer := 0
    yielded := false
    spin := 0
    trace := []
    prev := []
    past := []
    dirty := false }
  completeSeams { s with g := resumeCommands (endHandler { g1 with sp := sp1 }) }

/-- ERET waits for POST = 0 and for its own accesses, then reads the frame; a frame that cannot be read is a double trap
(R318, R319). -/
def execEret (s : State) : Result :=
  supOnly s (
    if 1 < (handlerSplits s.g).length || !handlerSplit s.g s.g.sp then trapAt 0x0D 3 0 0 s
    else if counter .post s.g.sp != 0 || registersPending s.g then .next s
    else
      let s1 := closeVirtual 3 s s.g.baseHome s.g.ctx s.g.ctxbase.toNat (frameSize s.g)
      match deviceRead 3 s1 s1.g.baseHome s1.g.ctx s1.g.ctxbase.toNat (frameSize s1.g) with
      | some f => .next (returnFrom f s1).spend
      | none => trapAt 0x07 0 0 s.g.ctxbase s)

/-! ### HALT (R350) -/

/-- A teammate of a halted group is asked to stop (21 R324). -/
def haltMate (ts : List Nat) (g : Group) : Group :=
  match g.team with
  | some r => if preemptible g && ts.contains r then requestGroup g else g
  | none => g

/-- A split of a group whose handler halts stops: the handler's own, and those that it suspends, as they stand; the others as a
request stops them (21 R324). -/
def haltSplit (g : Group) (sp : Split) : Split :=
  if handlerSplit g sp || sp.status == .suspended then { sp with stopped := true } else stopWaiting g sp

/-- The group of a HALT stops as it stands, and so does its team when it is anchored (21 R324). -/
def haltGroup (s : State) : State :=
  let s1 := complete s
  let ts := stopTeams s1 fun g => g.gid == s1.g.gid
  let s2 := { s1 with g := Group.mapSplits (haltSplit s1.g) { s1.g with preempt := true, halted := true } }
  let s3 := { s2 with others := s2.others.map (haltMate ts) }
  postEvent s3.g.baseHome 0x02 0x13 s3.g.gid s3.g.sp.pc.toNat 0 s3

def execHalt (s : State) : Result :=
  supOnly s (if 1 < (handlerSplits s.g).length || !handlerSplit s.g s.g.sp then trapAt 0x0D 3 0 0 s else .next (haltGroup s))

/-! ### System registers (R351) -/

/-- STATE of a split-table entry (10 Table 10.1). -/
def statusCode : SplitStatus → Nat
  | .runnable => 1 | .atSeam => 2 | .waiting => 3 | .suspended => 4 | .transit => 5

/-- A valid split-table entry. -/
def tableSplit (g : Group) (n : Nat) : Option Split := g.splits.find? fun sp => sp.idx == n && sp.joins.isNone

/-- The lower and the upper 8 bytes of a split-table entry; a free one is zero (10 Table 10.1). -/
def tableLow (g : Group) (n : Nat) : DWord :=
  match tableSplit g n with
  | none => 0
  | some sp =>
    BitVec.ofNat 64 (sp.lanes.toNat * 2 ^ 32 + statusCode sp.status * 2 ^ 28 + sp.seam * 2 ^ 24 + sp.home * 2 ^ 16 + flag sp.demoted 0)
def tableHigh (g : Group) (n : Nat) : DWord :=
  match tableSplit g n with
  | none => 0
  | some sp => low56 sp.pc

/-- Tier-3 address of the current core's repair entries (25 R387). -/
def repairBase (s : State) : Nat :=
  match s.g.sp.part with
  | some p => paOf (homePkg (partHome p)) 3 (partHome p % 16) (0x20000 + 0x200 * (partCore p % 64))
  | none => 0

/-- The value of a system register (R351, 23 Table 23.2). -/
def sysValue (s : State) : SysReg → DWord
  | .trapvec => s.g.trapvec
  | .trapcause => s.g.trapcause.setWidth 64
  | .trappc => low56 s.g.trappc
  | .trapaddr => s.g.trapaddr
  | .trapmask => s.g.trapmask.setWidth 64
  | .traphdr => low56 s.g.traphdr
  | .ctxbase => low56 s.g.ctxbase
  | .rpseq => s.g.rpseq
  | .rppc => low56 s.g.rppc
  | .rpjkt => s.g.rpjkt
  | .teamstat => s.g.teamstat.setWidth 64
  | .diaginj => s.g.diaginj.setWidth 64
  | .repairbase => BitVec.ofNat 64 (repairBase s)
  | .splitLo n => tableLow s.g n.toNat
  | .splitHi n => tableHigh s.g n.toNat
  | .seamSv k =>
    let x : Seam := Cells.get {} s.g.seamSv k.toNat
    BitVec.ofNat 64 (x.arrived.toNat * 2 ^ 32 + x.cohort.toNat)

/-- Registers that only supervisor state reads. -/
def sysPrivate : SysReg → Bool
  | .repairbase | .splitLo _ | .splitHi _ | .seamSv _ => true
  | _ => false

def execRdsys (d : SReg) (n : SysReg) (s : State) : Result :=
  if sysPrivate n && !s.g.sup then illegalInstruction s else .next (complete (writeS d (sysValue s n) s))

def execWrsys (n : SysReg) (a : SReg) (s : State) : Result :=
  let x := readS s a
  match n with
  | .trapvec => supOnly s (.next (complete { s with g := { s.g with trapvec := x &&& 0x00FFFFFFFFFFFFFC } }))
  | .ctxbase => supOnly s (.next (complete { s with g := { s.g with ctxbase := x &&& 0x00FFFFFFFFFFFF80 } }))
  | .diaginj => .next (complete { s with g := { s.g with diaginj := diaginjStored (x.setWidth 32) } })
  | _ => illegalInstruction s

/-! ### Regions and safe points (R352, 22 R333) -/

/-- IREGION: the live set is checked at its own word and at the entry PC; it waits until MATRIX is 0. -/
def execIregion (ls : BitVec 6) (s : State) : Result :=
  withLiveSet ls s fun _ =>
    match liveSetAt s (nextHeader s.g.sp).toNat ls.toNat with
    | .error f => liveSetTrap f s
    | .ok _ =>
      if counter .matrix s.g.sp ≠ 0 then .next s
      else
        let r : Region := { ls := ls.toNat, pc := nextHeader s.g.sp }
        let s1 := completeSafe s.spend
        .next { s1 with g := { s1.g with rcnt := 0, sp := { s1.g.sp with region := some r } } }

def execIrend (s : State) : Result :=
  if counter .matrix s.g.sp ≠ 0 then .next s else .next ((complete s).setSp fun sp => { sp with region := none })

def execSafept (ls : BitVec 6) (s : State) : Result := withLiveSet ls s fun _ => .next (completeSafe s.spend)

/-! ### Invalidation (R354, R355) -/

/-- A new invalidation, which a split or a command waits for. -/
def State.invalidate (v : Inval) (s : State) : State := { s with invals := s.invals ++ [{ v with id := s.fresh }], fresh := s.fresh + 1 }

/-- The range of n units from the unit that holds an address, as the pair of its bounds; none for everything. -/
def unitRange (a unit n : Nat) : Nat × Nat := if n = 0 then (0, 2 ^ 56) else (a / unit * unit, (a / unit + n) * unit)

/-- TLBINV: earlier accesses come first, as with fence.fab.sc; then the split waits for the discard. -/
def execTlbinv (a : SReg) (n : BitVec 13) (s : State) : Result :=
  supOnly s (
    let x := readS s a
    if 2 ^ 56 ≤ x.toNat then trapAt 0x05 3 0 x s
    else if !fenceHolds .fab .sc s then .next s
    else
      let r := unitRange x.toNat (2 ^ 16) n.toNat
      .next ((s.invalidate { id := 0, icache := false, ctx := some s.g.ctx, lo := r.1, hi := r.2, home := s.g.sp.home }).setSp fun sp =>
        { sp with inval := some s.fresh }))

/-- The result of a walk, and where a survivor serves the page: the physical line. -/
def walkLines (s : State) (w : Walk) : List Nat := [w, serving s w].filterMap fun x => match x with
  | .ok pa _ _ => some (pa / 64)
  | _ => none

/-- The physical lines of a virtual address: by the tables, and by the leaf that any home's unit holds, whose words a cache may hold too
(13 R212, R215). -/
def linesOfVa (s : State) (ctx va : Nat) : List Nat :=
  walkLines s (walk s ctx va) ++ s.homes.flatMap fun h => match heldLeaf h.2 ctx va with
    | some (e, size) => walkLines s (heldWalk e size va)
    | none => []

/-- Physical lines of a range of virtual lines. -/
def linesIn (s : State) (ctx lo hi : Nat) : List Nat := (List.range ((hi - lo) / 64)).flatMap fun i => linesOfVa s ctx (lo + 64 * i)

/-- The split has a store to the lines of an ICINV that is not accepted. -/
def storesTo (s : State) (lo hi : Nat) : Bool :=
  let ps := ownPackets s
  if hi - lo = 2 ^ 56 then !ps.isEmpty
  else if ps.isEmpty then false
  else
    let lines := linesIn s s.g.ctx lo hi
    ps.any fun p => p.body.ranges.any fun r => lines.contains (r.1 / 64)

/-- ICINV: earlier stores to the lines are accepted first; then the split waits for the discard. -/
def execIcinv (a : SReg) (n : BitVec 14) (s : State) : Result :=
  let x := readS s a
  let r := unitRange x.toNat 64 n.toNat
  if 2 ^ 56 ≤ x.toNat then trapAt 0x05 3 0 x s
  else if storesTo s r.1 r.2 then .next s
  else
    .next ((s.invalidate { id := 0, icache := true, ctx := some s.g.ctx, lo := r.1, hi := r.2, home := s.g.sp.home }).setSp fun sp =>
      { sp with inval := some s.fresh })

/-- Translations of a context, or of all, that meet a range are discarded by every unit (13 R212). -/
def dropTranslations (ctx : Option Nat) (lo hi : Nat) (s : State) : State :=
  let hit (e : Nat × Nat × DWord × Nat) : Bool :=
    (match ctx with
      | some c => e.1 == c
      | none => true) && e.2.1 < hi && lo < e.2.1 + e.2.2.2
  { s with homes := s.homes.map fun h => (h.1, { h.2 with tlb := h.2.tlb.filter fun e => !hit e }) }

/-- Lines are discarded by every instruction cache (01 R16, 13 R215): of virtual ones, wherever the tables or a unit place them. -/
def dropLines (ctx : Option Nat) (lo hi : Nat) (s : State) : State :=
  if hi - lo = 2 ^ 56 then { s with stale := [] }
  else
    let lines := match ctx with
      | some c => linesIn s c lo hi
      | none => (List.range ((hi - lo) / 64)).map fun i => lo / 64 + i
    { s with stale := Cells.drop s.stale fun k => lines.contains (k / 8) }

/-- What a home asks every unit to discard reaches every package that is there (25 R366). -/
def allReached (s : State) (home : Nat) : Bool :=
  s.pkgs.all fun e => !e.2.present || e.2.lost || reachable s (homePkg home) e.1

/-- The focused split's instruction is over, when it waits for an invalidation: one of class 7, so that its iteration is no spin (10 R180). -/
def wakeInval (id : Nat) (g : Group) : Group :=
  g.mapSplits fun sp => if sp.inval == some id then { sp.advance with safe := sp.safe + 1, inval := none, dirty := true } else sp

/-- PREEMPT (R356): it is over when the requests are accepted. -/
def execPreempt (k : BitVec 2) (a : SReg) (s : State) : Result :=
  supOnly s (
    if k = 3 then illegalInstruction s
    else
      let x := readS s a
      let slot := if 2 ^ 56 ≤ x.toNat then none else match resolve s s.g.sp.home s.g.ctx true false .read x.toNat with
        | .ok (pa, _) => some pa
        | .error _ => none
      .next (complete (requestStop (namedBy s (homePkg s.g.sp.home) k.toNat x slot) s.spend)))

end Sys2Proof.Machine
end

