-- ==== Sys2Proof/Machine/Checkpoint.lean ====
section
/-! DEFINITION. Checkpoints: CKBEGIN, CKCOMMIT, RPGET and the CRC of a record (spec/22 R343 to R346, spec/23 R353). -/

namespace Sys2Proof.Machine

/-! ### CRC-64 (R344) -/

/-- One bit of the reflected CRC. -/
def crcBit (c : DWord) : DWord := if c.getLsbD 0 then (c >>> 1) ^^^ 0xC96C5795D7870F42 else c >>> 1

/-- One byte of the CRC. -/
def crcByte (c : DWord) (b : Byte) : DWord :=
  crcBit (crcBit (crcBit (crcBit (crcBit (crcBit (crcBit (crcBit (c ^^^ b.setWidth 64))))))))

/-- CRC-64 with the ECMA-182 polynomial, as the .xz format uses it (R344). -/
def crc64 (bs : List Byte) : DWord := ~~~(bs.foldl crcByte 0xFFFFFFFFFFFFFFFF)

/-! ### Spans of memory on MANTLE pages -/

/-- A run of bytes of one page: virtual and physical address, leaf, length. -/
structure Span where
  va : Nat
  pa : Nat
  pte : Nat
  n : Nat
  deriving DecidableEq, Repr

/-- The pages of a run of bytes, or the first failure: code, ACC and address (R345 step 3). -/
def spansOf (need : Need) (s : State) : Nat → Nat → Nat → Except (Nat × Nat × Nat) (List Span)
  | 0, _, _ => .ok []
  | fuel + 1, va, n =>
    if n = 0 then .ok []
    else match resolve s s.g.sp.home s.g.ctx s.g.sup false need va with
      | .error code => .error (code, need.acc, va)
      | .ok (pa, pte) =>
        if !pteMantle pte then .error (0x08, 1, va)
        else
          let k := min n (2 ^ 16 - va % 2 ^ 16)
          (spansOf need s fuel (va + k) (n - k)).map ({ va := va, pa := pa, pte := pte, n := k } :: ·)

/-- Spans of a run of n bytes. -/
def spans (need : Need) (s : State) (va n : Nat) : Except (Nat × Nat × Nat) (List Span) :=
  spansOf need s (n / 2 ^ 16 + 2) va n

/-- The lines of a run, each as an access of its first byte. -/
def Span.lines (x : Span) : List LaneAccess :=
  (List.range ((x.pa % 64 + x.n + 63) / 64)).map fun i =>
    { lane := 0, va := x.va / 64 * 64 + 64 * i, pa := x.pa / 64 * 64 + 64 * i, pte := x.pte }

/-- A line of a run that is poisoned beyond repair (R339, 25 R369). -/
def poisonedIn (s : State) (xs : List Span) : Option Nat :=
  xs.findSome? fun x => (x.lines.find? (linePoisoned s)).map (·.va)

/-- A poisoned line of a run awaits its mirror (25 R369). -/
def spansAwaited (s : State) (xs : List Span) : Bool := xs.any fun x => x.lines.any (mirrorAwaited s)

/-- The reading of a run repairs a line of a mirrored page of which one copy is poisoned (25 R369). -/
def repairSpans (xs : List Span) (s : State) : State := xs.foldl (fun s x => x.lines.foldl (fun s l => repairLine l s) s) s

/-- The bytes of a run. -/
def spanBytes (s : State) (xs : List Span) : List Byte := xs.flatMap fun x => s.bytes x.pa x.n

/-- Some page of a run is DEGRADED (22 Table 22.7). -/
def spansDegraded (s : State) (xs : List Span) : Bool := xs.any fun x => isDegraded s x.pa x.pte

/-- Runs of the home engines on the lines that are read close first (18 R292). -/
def closeSpans (xs : List Span) (s : State) : State :=
  xs.foldl (fun s x => closeRuns (homeOfPa x.pa) (fun r => x.pa / 64 ≤ r.pa / 64 && r.pa / 64 ≤ (x.pa + x.n) / 64) s) s

/-! ### The log (22 Table 22.6) -/

/-- RBASEk and RLENk. -/
def logBase (s : State) (pa k : Nat) : Nat := s.mem.readN (pa + 16 * k) 8
def logLen (s : State) (pa k : Nat) : Nat := s.mem.readN (pa + 16 * k + 8) 8
def logRjkt (s : State) (pa : Nat) : Nat := s.mem.readN (pa + 0x20) 8
def logRpc (s : State) (pa : Nat) : Nat := s.mem.readN (pa + 0x28) 8

/-- Offset of the first field outside the table. A region that leaves the address space fails in translation, and an RPC that is no
header only at a rollback (24 R359). -/
def logBad (s : State) (pa : Nat) : Option Nat :=
  let len (k : Nat) : Bool := logLen s pa k % 64 != 0 || 2 ^ 36 < logLen s pa k
  if logBase s pa 0 % 64 ≠ 0 then some 0
  else if len 0 then some 8
  else if logBase s pa 1 % 64 ≠ 0 then some 0x10
  else if len 1 then some 0x18
  else if 2 ^ 56 ≤ logRpc s pa then some 0x28
  else if s.mem.readN (pa + 0x30) 16 ≠ 0 then some 0x30
  else none

/-- The log at a virtual address, as a run of one page. -/
def logSpan (s : State) (l : Nat) : List Span :=
  match translate s s.g.sp.home s.g.ctx l with
  | .ok pa pte _ => [{ va := l, pa := pa, pte := pte, n := 192 }]
  | _ => []

/-- The checks of the log (R345 steps 1 to 3), after the reading of it has repaired what it can (25 R369); `k` goes on with its physical
address and its span. Of a diagnostic group CKBEGIN and CKCOMMIT raise the anchor trap (08 R135); RPGET never does (23 R353). -/
def withLog (need : Need) (l : DWord) (s : State) (k : Nat → List Span → State → Result) : Result :=
  let trap (code acc : Nat) (a : Nat) (t : State) : Result := trapAt code acc 0 (BitVec.ofNat 64 a) t
  if s.g.diag && need = .write then trap 0x0A need.acc l.toNat s
  else if l.toNat % 256 ≠ 0 then trap 0x06 need.acc l.toNat s
  else if 2 ^ 56 ≤ l.toNat then trap 0x05 need.acc l.toNat s
  else
    let log := logSpan s l.toNat
    if (log.any fun x => mustPrecede s false [(x.pa, 256)]) || spansAwaited s log then .next s
    else
      let t := repairSpans log s
      match log.findSome? fun x => logBad t x.pa with
      | some o => trap 0x05 need.acc (l.toNat + o) t
      | none => match spans need t l.toNat 192 with
        | .error (code, acc, a) => trap code acc a t
        | .ok [] => .next s
        | .ok (x :: xs) => k x.pa (x :: xs) t

/-- The region of a checkpoint is checked too. -/
def withRegion (base len : Nat) (s : State) (k : List Span → Result) : Result :=
  match spans .write s base len with
  | .error (code, acc, a) => trapAt code acc 0 (BitVec.ofNat 64 a) s
  | .ok xs => k xs

/-- The first six fields of a commit record, as bytes 0x00 to 0x2F (22 Table 22.7). -/
def recordHead (seq base len rpc rjkt state : Nat) : List Byte :=
  leBytes 8 seq ++ leBytes 8 base ++ leBytes 8 len ++ leBytes 8 rpc ++ leBytes 8 rjkt ++ leBytes 4 state ++ leBytes 4 0

/-- A commit record. -/
def recordBytes (head : List Byte) (crc : DWord) : List Byte := head ++ leBytes 8 crc.toNat ++ leBytes 8 0

/-- The record is posted, .mantle.sc: it follows every earlier access, and the split waits for it (R345). It raises no
counter (23 R348). The record is line k of the log's slots. -/
def postRecord (pa pte : Nat) (n : Nat) (bs : List Byte) (s : State) : State :=
  let a := pa + 0x40 + 0x40 * (n % 2)
  let w := releaseTokens .mantle s
  let p : Packet := { id := s.fresh, gid := some s.g.gid, ctx := s.g.ctx, src := s.g.sp.home, dst := homeOfPa a, pte := pte,
                      body := .store (bytesAt a bs), after := w, held := !w.isEmpty, mantle := mantleRelease (some .mantle) w,
                      seq := s.fresh }
  { s with packets := s.packets ++ [p], fresh := s.fresh + 1, g := { s.g with sp := { s.g.sp with crc := s.fresh + 2 } } }

/-! ### CKBEGIN and CKCOMMIT (R345, R353) -/

/-- A record that the split waits for is durable: one that was lost never is (R342). -/
def recordDurable (s : State) : Bool := !stillPending s (s.g.sp.crc - 2) && !s.g.lost.contains (s.g.sp.crc - 2)

/-- An access of a group writes MANTLE pages, or a deque whose elements may lie there. -/
def Access.mayMantle (a : Access) : Bool := a.kind.writes && (!a.elems.isEmpty || a.lanes.any fun l => pteMantle l.pte)

/-- Every write of the group to MANTLE pages is durable (R342, R345), those of splits that have ended among them: none is still to be
performed or copied, and none was lost. -/
def groupDurable (s : State) : Bool :=
  s.g.lost.isEmpty && !(s.g.accs.any Access.mayMantle) && !(s.g.mtx.any fun o => o.dests.any fun l => pteMantle l.pte)
    && !((s.packets ++ s.mirrors.map (·.2)).any fun p => p.gid == some s.g.gid && pteMantle p.pte)

/-- What both instructions begin with: the live set, convergence, MATRIX = 0 (R353, R335). -/
def ckStart (ls : BitVec 6) (s : State) (k : Result) : Result :=
  withLiveSet ls s fun _ => if !converged s then trapAt 0x0D 3 0 0 s else if counter .matrix s.g.sp ≠ 0 then .next s else k

/-- TEAMSTAT.CKOPEN (22 Table 22.8). -/
def setCkopen (x : Bool) (g : Group) : Group :=
  { g with teamstat := (g.teamstat &&& ~~~(4 : Word)) ||| if x then 4 else 0 }

/-- The checkpoint that CKBEGIN opens: a reopened one keeps its number. -/
def openedCheckpoint (l : DWord) (pa : Nat) (s : State) : Checkpoint :=
  let n := match s.g.ck with
    | some c => c.n
    | none => s.g.rpseq + 1
  let k := n.toNat % 2
  { log := l, n := n, base := BitVec.ofNat 64 (logBase s pa k), len := BitVec.ofNat 64 (logLen s pa k),
    rpc := BitVec.ofNat 64 (logRpc s pa), rjkt := BitVec.ofNat 64 (logRjkt s pa) }

/-- The record of a checkpoint. -/
def Checkpoint.head (c : Checkpoint) (state : Nat) : List Byte :=
  recordHead c.n.toNat c.base.toNat c.len.toNat c.rpc.toNat c.rjkt.toNat state

def execCkbegin (ls : BitVec 6) (a : SReg) (s : State) : Result :=
  if 2 ≤ s.g.sp.crc then
    (if recordDurable s then .next ((completeSafe s).setSp fun sp => { sp with crc := 0, region := none }) else .next s)
  else ckStart ls s (withLog .write (readS s a) s fun pa xs s =>
    let c := openedCheckpoint (readS s a) pa s
    withRegion c.base.toNat c.len.toNat s fun _ =>
      let s1 := closeSpans xs { s with g := setCkopen true { s.g with ck := some c } }
      .next (postRecord pa ((xs.head?.map (·.pte)).getD 0) c.n.toNat (recordBytes (c.head 1) 0) s1).spend)

/-- The end of CKCOMMIT (R345): the recovery point is the committed checkpoint. -/
def commitDone (s : State) : State :=
  let s1 := (completeSafe s).setSp fun sp => { sp with crc := 0, region := none }
  match s.g.ck with
  | none => s1
  | some c => { s1 with g := setCkopen false { s1.g with ck := none, rpseq := c.n, rppc := c.rpc, rpjkt := c.rjkt } }

def execCkcommit (ls : BitVec 6) (a : SReg) (s : State) : Result :=
  if 2 ≤ s.g.sp.crc then (if recordDurable s then .next (commitDone s) else .next s)
  else if s.g.sp.crc = 1 then .next s
  else ckStart ls s (
    match s.g.ck with
    | none => .next ((completeSafe s).setSp fun sp => { sp with region := none })
    | some c =>
      if readS s a ≠ c.log then trapAt 0x05 1 0 (readS s a) s
      else withLog .write (readS s a) s fun _ _ s =>
        withRegion c.base.toNat c.len.toNat s fun _ =>
          if (releaseTokens .mantle s).isEmpty && groupDurable s then .next (s.spend.setSp fun sp => { sp with crc := 1 }) else .next s)

/-- The CRC of an open checkpoint is formed and its record posted; consumed poison is contained (R345, R340). -/
def commitCrc (c : Checkpoint) (s : State) : Result :=
  let s0 := s.setSp fun sp => { sp with crc := 0 }
  withLog .write c.log s0 fun pa xs s1 =>
    withRegion c.base.toNat c.len.toNat s1 fun ys =>
      if spansAwaited s1 ys then .next s
      else match poisonedIn s1 ys with
      | some va => .next (consumePoison 0 (BitVec.ofNat 64 va) s1)
      | none =>
        let s2 := closeSpans (xs ++ ys) (repairSpans ys s1)
        let head := c.head (2 + flag (spansDegraded s2 (xs ++ ys)) 8)
        .next (postRecord pa ((xs.head?.map (·.pte)).getD 0) c.n.toNat (recordBytes head (crc64 (head ++ spanBytes s2 ys))) s2).spend

/-! ### RPGET (R346, R353) -/

/-- The fields of slot k of a log. -/
def slotN (bs : List Byte) (k o n : Nat) : Nat := leNat ((bs.drop (0x40 + 0x40 * k + o)).take n)

/-- ok(x) for slot k (R346), or the address of poison that it meets. -/
def slotOkay (s : State) (bs : List Byte) (k : Nat) : Except Nat Bool :=
  let base := slotN bs k 8 8
  let len := slotN bs k 0x10 8
  if slotN bs k 0x28 1 ≠ 2 then .ok false
  else match spans .read s base len with
    | .error _ => .ok false
    | .ok xs => match poisonedIn s xs with
      | some va => .error va
      | none =>
        let head := (bs.drop (0x40 + 0x40 * k)).take 0x30
        .ok ((crc64 (head ++ spanBytes s xs)).toNat == slotN bs k 0x30 8)

/-- The runs of memory whose CRC slot k makes the home engines form. -/
def slotSpans (s : State) (bs : List Byte) (k : Nat) : List Span :=
  match spans .read s (slotN bs k 8 8) (slotN bs k 0x10 8) with
  | .ok xs => if slotN bs k 0x28 1 = 2 then xs else []
  | .error _ => []

/-- The slot that recovery chooses, none where there is no recovery point (R346), or the address of poison. -/
def chosenSlot (s : State) (bs : List Byte) : Except Nat (Option Nat) :=
  let hi := if slotN bs 0 0 8 ≤ slotN bs 1 0 8 then 1 else 0
  let lo := 1 - hi
  match slotOkay s bs hi with
  | .error va => .error va
  | .ok true => if slotN bs hi 0 8 = slotN bs lo 0 8 + 1 then .ok (some hi) else lower lo
  | .ok false => lower lo
where
  lower (lo : Nat) : Except Nat (Option Nat) := match slotOkay s bs lo with
    | .error va => .error va
    | .ok true => .ok (some lo)
    | .ok false => .ok none

/-- SEQ of the slot that recovery chooses, 0 for none (R353). -/
def chosenSeq (s : State) (bs : List Byte) : Except Nat Nat := (chosenSlot s bs).map fun k => match k with
  | some k => slotN bs k 0 8
  | none => 0

/-- RPGET: the log is checked, and the home engines begin to read; the split waits in place. Its own earlier stores come
first. -/
def execRpget (_d a : SReg) (s : State) : Result :=
  if s.g.sp.crc = 1 then .next s
  else withLog .read (readS s a) s fun _ _ s =>
    if (ownPackets s).isEmpty && (ownAccesses s).isEmpty then .next (s.spend.setSp fun sp => { sp with crc := 1 }) else .next s

/-- The protected registers of the split's open region; none when there is no region, all when its entry can no longer be read
(22 R333; DESIGN CHOICE, log 39). -/
def protectedSet (s : State) : Option LiveSet := s.g.sp.region.map fun r =>
  match liveSetAt s r.pc.toNat r.ls with
  | .ok ls => ls
  | .error _ => wholeSet

/-- RPGET is over: sd takes its value, which closes a region that protects it (R334); an iteration with an instruction of class 7 is no spin
(10 R180). -/
def rpgetEnd (d : SReg) (x : DWord) (s t : State) : State :=
  let held := match protectedSet s with
    | some ls => d != 0 && inMask ls.s d.toNat
    | none => false
  (complete (writeS d x t)).setSp fun sp => { sp with dirty := true, region := if held then none else sp.region }

/-- The reading of RPGET is done: sd takes SEQ, or poison is consumed (R353). -/
def rpgetDone (d a : SReg) (s : State) : Result :=
  let s0 := s.setSp fun sp => { sp with crc := 0 }
  withLog .read (readS s0 a) s0 fun _ xs s1 =>
    match poisonedIn s1 xs with
    | some va => .next (consumePoison 0 (BitVec.ofNat 64 va) s1)
    | none =>
      let bs := spanBytes s1 xs
      let ys := slotSpans s1 bs 0 ++ slotSpans s1 bs 1
      if spansAwaited s1 ys then .next s
      else
        let s2 := closeSpans (xs ++ ys) (repairSpans ys s1)
        match chosenSeq s2 bs with
        | .error va => .next (consumePoison 0 (BitVec.ofNat 64 va) s2)
        | .ok n => .next (rpgetEnd d (BitVec.ofNat 64 n) s2 s2).spend

/-- The split of a group whose instruction waits for a CRC. -/
def crcSplit (g : Group) : Option Nat := (g.splits.find? fun sp => sp.crc == 1).map (·.idx)

/-- CHECKPOINT_CRC_COMPLETE (R344, R345, R353): the home engines have formed the CRC that an instruction of the group waits
for. -/
def execCheckpointCrcComplete (gid : Word) (s : State) : Result :=
  match focusGroup gid s with
  | none => .next s
  | some s1 =>
    match crcSplit s1.g with
    | none => .next s1
    | some i => match focusSplit i s1.g with
      | none => .next s1
      | some g =>
        let s2 := { s1 with g := g }
        match placeInstr g.sp, g.ck with
        | .ok (.rpget d a), _ => rpgetDone d a s2
        | .ok (.ckcommit _ _), some c => commitCrc c s2
        | _, _ => .next (s2.setSp fun sp => { sp with crc := 0 })

end Sys2Proof.Machine
end

