-- ==== Sys2Proof/Machine/Trap.lean ====
section
/-! DEFINITION. The steps of a trap and of recovery that come after the instruction: a held trap, the start of a handler, the
restart of a region, the rollback of a group (spec/21 R314 to R317, spec/22 R336, R337, R341). -/

namespace Sys2Proof.Machine

/-- TRAP_ENTRY (21 R314, R317): a held trap is taken once no handler runs. -/
def execTrapEntry (gid : Word) (sp : Nat) (s : State) : Result :=
  match focus gid sp s with
  | none => .next s
  | some s1 =>
    match s1.g.sp.trap, s1.g.handler with
    | some t, .none => .next (takeTrap t (s1.setSp fun x => { x with trap := none, status := .runnable }))
    | _, _ => .next s1

/-- HANDLER_START (21 R316): the handler starts once every other split has stopped at a clause boundary. -/
def execHandlerStart (gid : Word) (s : State) : Result :=
  match focusGroup gid s with
  | none => .next s
  | some s1 =>
    match s1.g.handler with
    | .pending f =>
      match focusSplit f s1.g with
      | none => .next s1
      | some g =>
        match g.sp.trap with
        | some t => if othersRunning g || registersPending g then .next s1 else .next (startHandler t { s1 with g := g })
        | none => .next s1
    | _ => .next s1

/-- REGION_RESTART (22 R336): the region of a split that has drained restarts; behind another split's handler it is held (22
R337). -/
def execRegionRestart (gid : Word) (sp : Nat) (s : State) : Result :=
  match focus gid sp s with
  | none => .next s
  | some s1 =>
    match s1.g.sp.restart, s1.g.sp.region with
    | some t, some r =>
      if s1.g.life == .live && s1.g.sp.status == .runnable && countersZero s1.g.sp && (ownAccesses s1).isEmpty then
        .next (restartRegion t r s1)
      else .next s1
    | _, _ => .next s1

/-- Every operation of the group is over (22 R341 step 1). -/
def groupDrained (g : Group) : Bool := g.accs.isEmpty && g.splits.all countersZero

/-- Splits of a group leave the admission queues. -/
def dropItems (gid : Word) (s : State) : State :=
  { s with homes := s.homes.map fun h => (h.1, { h.2 with adm := h.2.adm.filter fun x => match x.2 with
      | .split i _ => i != gid
      | _ => true }) }

/-- TEAM_ROLLBACK (22 R341): a member of a team that rolls back has drained and starts again. -/
def execTeamRollback (gid : Word) (s : State) : Result :=
  match focusGroup gid s with
  | none => .next s
  | some s1 =>
    if s1.g.rollback && groupDrained s1.g then .next (rollbackGroup (dropItems gid s1)) else .next s1

end Sys2Proof.Machine
end

