-- ==== Sys2Proof/Machine/Move.lean ====
section
/-! DEFINITION. Moves of a split between homes, and the end of waits: departure and arrival of a jacket, the wake of a
registered wait, the spin detector (spec/10 R171, R180, R181, spec/13 R218 to R224, R227, spec/15 R266, spec/21 R324). -/

namespace Sys2Proof.Machine

/-! ### Departure (13 R220, R224) -/

/-- The home that the focused split, or the jacket of an absorbed split, is still to be packed for. -/
def boundFor (sp : Split) : Option Nat :=
  match sp.move, sp.sent with
  | none, _ | _, some _ => none
  | some h, none =>
    if sp.joins.isSome then (if sp.home = h then none else some h)
    else if sp.status == .runnable || (sp.status == .waiting && sp.watch.isSome) then some h else none

/-- The departure rule: the counters are 0 and every in-place access is over (R224). -/
def mayDepart (s : State) : Bool := countersZero s.g.sp && (ownAccesses s).isEmpty

/-- What a split leaves behind: its place, and its last load (R220 step 2, 10 R181). Its jacket stands in the parking area of the home
that it is still to leave. The RESGEN of an absorbed split was counted when its splits rejoined (10 R171). -/
def departed (h : Nat) (sp : Split) : Split :=
  { sp with resgen := if sp.joins.isSome then sp.resgen else sp.resgen + 1, home := h, part := none, status := .transit,
            lastLoad := {}, lastPart := none, sent := some (sp.home, 0) }

/-- The jacket of a split that is packed: of one that parked with its jacket that same one. -/
def packUp (s : State) (sp : Split) : Split := if sp.jacket.isSome then sp else packed s s.g sp.live sp.ls sp

/-- A split whose departure rule holds is packed for the home that it is bound for (R220 steps 1 and 2). -/
def packJacket (s : State) : State :=
  match boundFor s.g.sp with
  | some h => if mayDepart s && !s.g.sp.stopped then s.setSp fun sp => packUp s (departed h sp) else s
  | none => s

/-- The focused split's jacket leaves by the jacket port, behind those that left the same home before it, once the destination has room
for it and a path leads there (R220 step 3, R228, 14 R235, 25 R365, R366). -/
def launchJacket (s : State) : State :=
  let x := s.g.sp
  match x.sent with
  | some (src, 0) =>
    if !parkRoom s x.home (parkedSize s.g x) then s
    else if homePkg src = homePkg x.home then s.nextId.setSp fun sp => { sp with sent := some (src, s.fresh) }
    else match sendItem (homePkg src) (homePkg x.home) 1 s with
      | some (c, t) => t.nextId.setSp fun sp => { sp with sent := some (src, t.fresh), cross := some c }
      | none => s
  | _ => s

/-- JACKET_DEPART (R220, R224): a split that is bound for another home is packed, and leaves when it can. -/
def execJacketDepart (gid : Word) (sp : Nat) (s : State) : Result :=
  match focus gid sp s with
  | none => .next s
  | some s1 => .next (launchJacket (packJacket s1))

/-! ### Arrival (13 R220 step 4, R221, R223) -/

/-- The focused split's lanes keep what its jacket carried, which stays parked until it has a place. -/
def unpack (s : State) : State :=
  let g := forgetLanes s.g.sp.keep s.g.sp.lanes s.g
  { s with g := { g with sp := forgetScalars s.g.sp.keep g.sp } }

/-- A watched word differs from the value that the split loaded (10 R181). -/
def watchDiffers (s : State) (w : Watch) : Bool := w.words.any fun x => readPa s x.1 4 != x.2

/-- A jacket of an absorbed split reaches the split that it joined, with an error reported meanwhile (10 R171, 22 R331). -/
def absorbPiece (s : State) : State :=
  let x := s.g.sp
  let tell (y : Split) : Split := if x.joins == some y.idx && y.err.isNone then { y with err := x.err } else y
  let g := (forgetLanes x.keep x.lanes s.g).mapSplits tell
  match g.sibs with
  | [] => s
  | y :: rest => { s with g := { g with sp := y, sibs := rest } }

/-- The home at which the last load was performed, when it was homed or private. -/
def watchHome (w : Watch) : Option Nat :=
  match w.scratch, w.words with
  | none, x :: _ => some (homeOfPa x.1)
  | _, _ => none

/-- A split that moved asks for admission; a request stops it instead (R324). A split that the detector parked goes on waiting where it has come,
and so does one that waits at a seam. -/
def settleArrival (s : State) : State :=
  let s1 := s.setSp fun sp => { sp with move := none, sent := none, cross := none }
  if s1.g.sp.status == .atSeam then s1
  else match s1.g.sp.watch.filter fun w => (watchHome w).isSome with
  | some w => s1.setSp fun sp => { sp with status := .waiting, woken := watchDiffers s1 w, stopped := sp.stopped || wantsStop s1.g }
  | none => if wantsStop s1.g then s1.setSp fun sp => { sp with stopped := true } else requestAdmission s1

/-- The focused split's jacket is the next of those on the way from its old home to its new one, and has crossed (14 R235, 25
R365). -/
def mayArrive (s : State) : Bool :=
  let x := s.g.sp
  match x.sent with
  | some (src, n) =>
    let before (y : Split) : Bool := y.home == x.home && match y.sent with
      | some (h, m) => h == src && 0 < m && m < n
      | none => false
    n != 0 && crossed s (homePkg src) (homePkg x.home) 1 x.cross && takesTraffic s x.home
      && !s.groups.any fun g => g.splits.any before
  | none => false

/-- JACKET_ARRIVE (R220, R227); a jacket that a resumed group sends arrives as its split stands (21 R326). -/
def execJacketArrive (gid : Word) (sp : Nat) (s : State) : Result :=
  match focus gid sp s with
  | none => .next s
  | some s1 =>
    let x := s1.g.sp
    if x.move != some x.home || !mayArrive s1 then .next s1
    else if x.joins.isSome then .next (absorbPiece s1)
    else .next (settleArrival (unpack s1))

/-! ### The end of a wait (15 R266, 10 R181) -/

/-- The focused split goes on from a wait: at once where it waited in place, else by admission at its home. -/
def goOn (s : State) : State :=
  if s.g.sp.part.isSome then s.setSp fun sp => { sp with status := sp.resumed s.g } else requestAdmission s

/-- WAIT_WAKE (R266): the wait of a split is satisfied, as an acquire read of the value that satisfied it. A split that the
spin detector parked is admitted at PRFLOOR with RESGEN one higher (10 R181). -/
def execWaitWake (gid : Word) (sp : Nat) (s : State) : Result :=
  match focus gid sp s with
  | none => .next s
  | some s1 =>
    let x := s1.g.sp
    if x.status != .waiting || !x.woken || x.stopped || x.move.isSome then .next s1
    else if x.wait.isSome then
      .next (goOn ((completeSafe s1).setSp fun y => { y with wait := none, wonly := false, woken := false }))
    else if x.watch.isSome then
      .next (goOn (s1.setSp fun y =>
        { y with watch := none, woken := false, timeout := 0, resgen := if y.part.isNone then y.resgen + 1 else y.resgen,
                 lastPart := y.part }))
    else .next s1

/-! ### The spin detector (10 R180, R181) -/

/-- The clock of the die of a partition (01 R12). -/
def partClock (s : State) (p : Nat) : DWord :=
  (Cells.get {} (s.pkg (homePkg (partHome p))).dies (homeDie (partHome p))).clock

/-- The split stops, demoted, at the target of its back-edge: a safe point (R181, 21 R323). Its history starts afresh: after it wakes, the
detector needs 32 new iterations (DESIGN CHOICE, log 113). -/
def stopSpinning (s : State) : State :=
  s.setSp fun sp =>
    { sp with status := .waiting, demoted := true, safe := 0, spin := 0, trace := [], prev := [], past := [], watch := some sp.lastLoad,
              woken := false, stopped := sp.stopped || wantsStop s.g, clause := {},
              timeout := match sp.part with
                | some p => (partClock s p).toNat
                | none => 0 }

/-- A roaming split parks at the home of its last load with its whole state; an anchored or diagnostic one, and one without a homed load,
waits in place (R181, 08 R135). A request stops one that has to move when it has arrived (21 R324). -/
def parkSpinning (s : State) : State :=
  let s1 := stopSpinning s
  let whole (sp : Split) : Split := { sp with keep := wholeOf s.g, live := wholeOf s.g, ls := 0 }
  if anchored s s.g || s.g.diag then s1
  else match watchHome s.g.sp.lastLoad with
    | none => s1
    | some h =>
      if h = s.g.sp.home then
        s1.setSp fun sp => packed s1 s1.g (wholeOf s.g) 0 (whole { sp with part := none, woken := watchDiffers s1 sp.lastLoad })
      else s1.setSp fun sp => whole { sp with move := some h, stopped := s.g.sp.stopped }

/-- SPIN_DETECTOR_FIRE (R180, R181): at the back-edge that ends the 32nd of 32 equal iterations. -/
def execSpinDetectorFire (gid : Word) (sp : Nat) (s : State) : Result :=
  match focus gid sp s with
  | none => .next s
  | some s1 =>
    if mayGo s1.g && s1.g.sp.clause.stage == .idle && spinLimit ≤ s1.g.sp.spin && !mustSuspend s1.g then .next (parkSpinning s1)
    else .next s1

/-- SPIN_WAIT_TIMEOUT (R181): a split that the detector stopped in place is woken 4096 clk later. -/
def execSpinWaitTimeout (gid : Word) (sp : Nat) (s : State) : Result :=
  match focus gid sp s with
  | none => .next s
  | some s1 =>
    match s1.g.sp.status, s1.g.sp.watch, s1.g.sp.part with
    | .waiting, some _, some p =>
      if 4096 ≤ ((partClock s1 p).toNat + 2 ^ 64 - s1.g.sp.timeout) % 2 ^ 64 && s1.g.sp.move.isNone then
        .next (s1.setSp fun x => { x with woken := true })
      else .next s1
    | _, _, _ => .next s1

end Sys2Proof.Machine
end

