-- ==== Sys2Proof/Machine/Sched.lean ====
section
/-! DEFINITION. What scheduling decides: where groups fit, the launch of a group, admission, ranges of records and chunks
(spec/08 R135, R136, spec/09 R144, R148 to R153, spec/12 R195 to R202, spec/13 R213, R227, R228, spec/21 R326). -/

namespace Sys2Proof.Machine

/-! ### Homes, cores and partitions -/

/-- The homes of a package. -/
def packageHomes (p : Nat) : List Nat := (List.range Config.homesPerPackage).map fun h => p * 16 + h

/-- The homes of a package that have reported ready (12 R196). -/
def readyHomes (s : State) (p : Nat) : List Nat := (packageHomes p).filter fun h => (s.home h).st == .ready

/-- The first of the elements with the least key. -/
def leastBy {α : Type} (key : α → Nat) : List α → Option α
  | [] => none
  | x :: xs => match leastBy key xs with
    | none => some x
    | some y => some (if key y < key x then y else x)

/-! ### Residence (R144) -/

/-- A group holds a slot of a partition. -/
def placedOn (p : Nat) (g : Group) : Bool :=
  (g.life == .live || g.life == .ending) && g.splits.any fun sp => sp.part == some p

def residents (s : State) (p : Nat) : List Group := s.groups.filter (placedOn p)
def coreResidents (s : State) (c : Nat) : List Group := s.groups.filter fun g => (coreParts c).any fun p => placedOn p g

/-- What a partition's residents hold: groups, vector registers, tile rows. -/
structure Room where
  part : Nat
  count : Nat := 0
  regs : Nat := 0
  rows : Nat := 0
  deriving DecidableEq, Repr

def roomOf (s : State) (p : Nat) : Room :=
  let r := residents s p
  { part := p, count := r.length, regs := (r.map (·.w)).sum, rows := (r.map (·.tileRows)).sum }

/-- One more group fits (R144). -/
def Room.fits (r : Room) (x : Nat × Nat) : Bool :=
  r.count < Config.slotsPerPartition && r.regs + x.1 ≤ Config.registersPerPartition && r.rows + x.2 ≤ Config.tileRowsPerPartition

def Room.add (x : Nat × Nat) (r : Room) : Room := { r with count := r.count + 1, regs := r.regs + x.1, rows := r.rows + x.2 }

/-- A core that admits groups: sound, and without a diagnostic group (08 R135, 26 R382). -/
def coreOpen (s : State) (c : Nat) : Bool := !coreMarked s c && !(coreResidents s c).any (·.diag)

/-- The partition for a group of some window and tile rows: of the core with the fewest residents among those where it fits, the lowest
of equals, the partition with the fewest, again the lowest (R201). -/
def choosePart (s : State) (homes : List Nat) (x : Nat × Nat) : Option Nat :=
  let ps := ((homes.flatMap homeCores).filter (coreOpen s)).flatMap fun c =>
    ((coreParts c).filter fun p => (roomOf s p).fits x).map fun p => ((coreResidents s c).length, c, (residents s p).length, p)
  (leastBy (fun k => ((k.1 * 2 ^ 16 + k.2.1) * 2 ^ 8 + k.2.2.1) * 2 ^ 16 + k.2.2.2) ps).map (·.2.2.2)

/-- Places for the groups of a team on the partitions of one core (R149): each group goes where the fewest groups are, when
the others then fit too. -/
def packTeam : List (Nat × Nat) → List Room → Option (List Nat)
  | [], _ => some []
  | x :: rest, rooms =>
    let fit := rooms.filter fun r => r.fits x
    let order := (List.range 17).flatMap fun n => fit.filter fun r => r.count == n
    (if rest.all (· == x) then order.take 1 else order).findSome? fun r =>
      (packTeam rest (updateWhere (fun y => y.part == r.part) (Room.add x) rooms)).map (r.part :: ·)

/-- The core for a team, the places of its groups and of its lease (R149, R201). -/
def chooseCore (s : State) (homes : List Nat) (xs : List (Nat × Nat)) (lease : Nat) : Option (Nat × List Nat × Nat) :=
  let fit (c : Nat) : Option (Nat × Nat × List Nat × Nat) :=
    match packTeam xs ((coreParts c).map (roomOf s)), (if lease = 0 then some 0 else freeRun s c lease) with
    | some ps, some base => some ((coreResidents s c).length, c, ps, base)
    | _, _ => none
  (leastBy (fun (k : Nat × Nat × List Nat × Nat) => k.1 * 2 ^ 16 + k.2.1)
    (((homes.flatMap homeCores).filter (coreOpen s)).filterMap fit)).map (·.2)

/-! ### Groups of a card (R148, R150) -/

/-- The role of a gang's group, by its number in the gang. -/
def roleAt : List Role → Nat → Option Role
  | [], _ => none
  | r :: rs, i => if i < r.count then some r else roleAt rs (i - r.count)

/-- Window and tile rows of a group. -/
def Card.needs (c : Card) (n : Nat) : Nat × Nat :=
  match c.gang, roleAt c.roles (n % c.perRecord) with
  | true, some r => (r.w, r.tileRows)
  | _, _ => (c.w, c.tileRows)

/-- The launch team of a group (R148, R150, R153). -/
def Card.teamOf (c : Card) (n : Nat) : Option Nat :=
  if c.gang then some (n / c.perRecord) else if c.teamSize = 0 then none else some (n / c.teamSize)

/-- The groups that are admitted together from group n on: a team with a lease, a gang, or one group; the members of a team that tile
rows alone anchor are admitted one by one (R149, R151, R201). -/
def Card.unit (c : Card) (n : Nat) : Nat :=
  if c.gang then c.perRecord else if c.lease ≠ 0 ∧ c.teamSize ≠ 0 then c.teamLength (n / c.teamSize) else 1

/-- The card's groups are anchored (R149). -/
def Card.anchored (c : Card) : Bool := c.lease != 0 || c.tileRows != 0 || c.roles.any fun r => r.count != 0 && r.tileRows != 0

/-! ### Launch teams (R152, R153) -/

/-- A home's parking area has places for some more team records (R152, 13 R227). -/
def recordsLeft (s : State) (home k : Nat) : Bool :=
  (s.home home).records.length + k ≤ Config.parkingBytes / 64 && parkRoom s home (64 * k)

/-- A place for a team record in a home's parking area: the one that the home offers when it is free, else the lowest
(log 12); none when the area is full. -/
def freeRecord (s : State) (home : Nat) : Option Nat :=
  let place (i : Nat) : Nat := paOf (homePkg home) 0 (home % 16) (64 * i)
  let used := teamRecords s
  let ok (i : Nat) : Bool := 64 * i + 64 ≤ Config.parkingBytes && !used.contains (place i)
  let x := Config.teamPlace s.free
  (if ok x then some x else firstFrom ok (Config.parkingBytes / 64) 0).map place

/-- The record of a launch team (09 Table 9.5). -/
def recordOf (size : Nat) (id : Word) : List Byte :=
  leBytes 8 (size * 2 ^ 16) ++ leBytes 8 0 ++ leBytes 4 size ++ leBytes 4 id.toNat ++ leBytes 40 0

/-- A launch team's record is created, with its identity and every group of the team as a member, when its first group is dealt (R152,
log 68). -/
def createTeam (cid k home : Nat) (s : State) : State :=
  match s.cards.find? fun c => c.id == cid with
  | none => s
  | some c =>
    if c.teams.any fun t => t.1 == k then s
    else match freeRecord s home with
    | none => s
    | some pa =>
      let s1 := (storeBytes s (bytesAt pa (recordOf (c.teamLength k) (freshTeamId s (homePkg home))))).setHome home fun h =>
        { h with records := h.records ++ [pa] }
      { s1 with cards := updateWhere (fun x => x.id == cid) (fun x => { x with teams := x.teams ++ [(k, pa)] }) s1.cards,
                fresh := s1.fresh + 1, free := s1.free + 1 }

/-- The launch teams of some runs of groups that have no record yet. -/
def newTeams (c : Card) (groups : List (Nat × Nat)) : List Nat :=
  (groups.flatMap fun r => match c.teamOf r.1, c.teamOf (r.2 - 1) with
    | some a, some b => (List.range (b + 1 - a)).map (a + ·)
    | _, _ => []).foldl (fun l k => if l.contains k || c.teams.any fun t => t.1 == k then l else l ++ [k]) []

/-- The records of the launch teams of some runs of groups. -/
def createTeams (c : Card) (groups : List (Nat × Nat)) (home : Nat) (s : State) : State :=
  (newTeams c groups).foldl (fun s k => createTeam c.id k home s) s

/-! ### The launch of a group (01 R21, R148, R150, 13 R213) -/

/-- Identities in use on a package (05 R94). -/
def groupIds (s : State) (p : Nat) : List Word :=
  ((s.groups.filter fun g => g.life != .vacant && homePkg g.baseHome == p).map (·.gid)) ++ s.packets.filterMap (·.gid)
    ++ s.roce.map (·.gid) ++ s.cards.flatMap (·.pend)

/-- Groups that a package holds (13 R228). -/
def packageGroups (s : State) (p : Nat) : Nat :=
  (s.groups.filter fun g => g.life != .vacant && g.life != .ghost && homePkg g.baseHome == p).length

/-- Private slots of a context in use at a home. -/
def slotsUsed (s : State) (home ctx : Nat) : List Nat :=
  (s.groups.filter fun g => g.life != .vacant && g.baseHome == home && g.ctx == ctx).filterMap (·.slot)

/-- The lowest free private slot (R213). -/
def freeSlot (s : State) (home ctx : Nat) : Option Nat :=
  if ctxPrivLog s ctx = 0 then none
  else firstFrom (fun k => !(slotsUsed s home ctx).contains k) (ctxPrivSlots s ctx) 0

/-- Private slots are left for some groups (R213). -/
def slotsLeft (s : State) (home ctx k : Nat) : Bool :=
  ctxPrivLog s ctx == 0 || (slotsUsed s home ctx).length + k ≤ ctxPrivSlots s ctx

/-- The scalars at a group's first instruction (R21, R148, R150), or at a replay (22 R341, 26 R380). -/
def launchScalars (c : Card) (n : Nat) : Cells DWord :=
  let r := n / c.perRecord
  let i := BitVec.ofNat 64 (n % c.perRecord)
  let base : Cells DWord := match c.replay with
    | some (seq, _, jkt) => Cells.setMany 0 [] 1 [jkt, seq, i]
    | none => Cells.setMany 0 [] 1 [c.args + BitVec.ofNat 64 (r * c.recSize), BitVec.ofNat 64 r, i]
  Cells.setMany 0 base 4 c.sval

/-- The entry address of a group. -/
def launchPc (c : Card) (n : Nat) : DWord :=
  match c.replay with
  | some (_, pc, _) => pc
  | none => match c.gang, roleAt c.roles (n % c.perRecord) with
    | true, some r => r.pc
    | _, _ => c.entry

/-- CTXBASE at launch (21 R315). -/
def launchFrame (s : State) (g : Group) : DWord :=
  BitVec.ofNat 64 (regionBase s g + 2 ^ ctxPrivLog s g.ctx + 2 ^ 64 - 0x8000)

/-- Group n of a card, as it stands at its launch on a partition; at a replay RESGEN and RBCNT have risen by 1 (22 R341 step 3, 26
R380). -/
def newGroup (c : Card) (n home part : Nat) (s : State) : Group :=
  let rp := c.replay.getD (0, 0, 0)
  let team := (c.teamOf n).bind fun k => (c.teams.find? fun t => t.1 == k).map (·.2)
  let g : Group :=
    { life := .live
      gid := freshWord s fun w => !(groupIds s (homePkg home)).contains w
      w := (c.needs n).1
      fs := Cells.setMany 0 [] 0 c.fs
      baseHome := home
      recIdx := BitVec.ofNat 32 (n / c.perRecord)
      grpInRec := BitVec.ofNat 16 (n % c.perRecord)
      ctx := c.ctx
      card := c.id
      diag := c.diag
      prio := c.prio
      floorPrio := c.floorPrio
      team := team
      teamId := match team with
        | some r => BitVec.ofNat 32 (recTeamId s r)
        | none => 0xFFFFFFFF
      slot := freeSlot s home c.ctx
      tileRows := (c.needs n).2
      trapvec := c.trapvec
      rpseq := rp.1
      rppc := rp.2.1
      rpjkt := rp.2.2
      teamstat := if c.replay.isSome then 2 ^ 8 else 0
      sp := { pc := launchPc c n, home := home, part := some part, lastPart := some part, s := launchScalars c n
              resgen := if c.replay.isSome then 1 else 0 } }
  { g with ctxbase := launchFrame s g }

/-- Group n of a card is launched on a partition. -/
def launch (cid n home part : Nat) (s : State) : State :=
  match s.cards.find? fun c => c.id == cid with
  | none => s
  | some c => { s with others := s.others ++ [newGroup c n home part s], fresh := s.fresh + 1 }

/-! ### Runs of numbers -/

def runsLength (rs : List (Nat × Nat)) : Nat := (rs.map fun r => r.2 - r.1).sum

/-- The first k numbers of some runs. -/
def takeRuns : Nat → List (Nat × Nat) → List (Nat × Nat)
  | _, [] => []
  | k, (a, b) :: rs => if k = 0 then [] else if k < b - a then [(a, a + k)] else (a, b) :: takeRuns (k - (b - a)) rs

/-- The numbers after the first k. -/
def dropRuns : Nat → List (Nat × Nat) → List (Nat × Nat)
  | _, [] => []
  | k, (a, b) :: rs => if k < b - a then (a + k, b) :: rs else dropRuns (k - (b - a)) rs

/-- The number at a place. -/
def runAt (k : Nat) (rs : List (Nat × Nat)) : Nat := match dropRuns k rs with
  | (a, _) :: _ => a
  | [] => 0

/-- One number more at the end. -/
def addRun (i : Nat) : List (Nat × Nat) → List (Nat × Nat)
  | [] => [(i, i + 1)]
  | [(a, b)] => if b = i then [(a, i + 1)] else [(a, b), (i, i + 1)]
  | r :: rs => r :: addRun i rs

/-! ### Admission (R201, R202) -/

/-- The first unit of a chunk is admitted: none while it cannot be placed. -/
def admitUnit (home cid n : Nat) (s : State) : Option (Nat × State) :=
  match s.cards.find? fun c => c.id == cid with
  | none => none
  | some c =>
    let k := c.unit n
    if !slotsLeft s home c.ctx k || Config.groupsPerPackage < packageGroups s (homePkg home) + k then none
    else if c.gang || (c.lease != 0 && c.teamSize != 0) then
      (chooseCore s [home] ((List.range k).map fun i => c.needs (n + i)) c.lease).map fun r =>
        let s1 := match (c.teamOf n).bind fun t => c.teams.find? fun x => x.1 == t with
          | some t => if c.lease = 0 then s else grantLease t.2 r.1 r.2.2 c.lease s
          | none => s
        (k, (r.2.1.zipIdx).foldl (fun s x => launch cid (n + x.2) home x.1 s) s1)
    else (choosePart s [home] (c.needs n)).map fun p => (1, launch cid n home p s)

/-- A place for the focused split at its home: where its group holds a slot already, else as for a group (13 R220). -/
def splitPlace (s : State) : Option Nat :=
  let here := s.g.splits.filterMap fun sp => sp.part.filter fun p => partHome p == s.g.sp.home
  match here with
  | [] => choosePart s [s.g.sp.home] (s.g.w, s.g.tileRows)
  | p :: ps => some (ps.foldl min p)

/-- The focused split waits for admission at a home. -/
def awaitsAdmission (s : State) (home : Nat) : Bool :=
  let sp := s.g.sp
  s.g.life == .live && (sp.status == .transit || sp.status == .suspended) && sp.move.isNone && sp.joins.isNone && !sp.stopped && sp.home == home && sp.part.isNone

/-- The splits of a resumed group take their places, and its copy commands go on in the engine of their core (21 R326); behind a handler that halted the others stay suspended (23 R350), and a
split that the spin detector stopped waits anew (10 R181). -/
def resumeOn (gid : Word) (part : Nat) (old : Option Lease) (base : Nat) (s : State) : State :=
  s.mapGroups fun g =>
    if g.life == .live && g.gid == gid then
      let f (sp : Split) : Split :=
        { sp with
          part := some part, lastPart := some part, home := partHome part, stopped := false, lastLoad := {}, jacket := none
          timeout := (partClock s part).toNat
          status := if sp.status == .transit then sp.resumed g else sp.status
          watch := sp.watch.map fun w => match w.scratch, old with
            | some _, some l => { scratch := some (partCore part), words := w.words.map fun x => (x.1 + base - l.base, x.2) }
            | _, _ => w }
      Group.mapSplits f { g with copies := g.copies.map fun c => { c with core := partCore part } }
    else g

/-- The contents of a saved lease enter a scratchpad (21 R326). -/
def restoreLease (l : Lease) (core base : Nat) (s : State) : State :=
  let bs := Cells.getMany 0 (l.saved.getD []) 0 l.len
  let s1 := s.setCore core fun c =>
    { c with scratch := c.scratch.write base bs
             poison := (List.range (l.len / 4)).foldl (fun m i => Cells.set false m (base / 4 + i) (Cells.get false l.spoiled i)) c.poison }
  { s1 with leases := updateWhere (fun x => x.id == l.id) (fun x => { x with core := core, base := base, saved := none, spoiled := [] }) s1.leases }

/-- The resumed groups of an item. -/
def itemGroups (s : State) (gids : List Word) : List Group :=
  s.groups.filter fun g => g.life == .live && gids.contains g.gid && g.splits.all fun sp => sp.part.isNone && sp.stopped

/-- Homes of a package in the order of the device's choice (log 12). -/
def chosenHomes (s : State) (p : Nat) : List Nat :=
  let hs := readyHomes s p
  let k := Config.homeChoice s.free % (hs.length + 1)
  hs.drop k ++ hs.take k

/-- Resumed groups are admitted: a team with a lease whole to one core, a group on its own to one partition, of any home of
the package (21 R326). None while they cannot be placed. -/
def admitGroups (home : Nat) (gids : List Word) (s : State) : Option State :=
  let gs := itemGroups s gids
  let lease := (gs.head?.bind fun g => g.team).bind fun t => s.leases.find? fun l => l.team == t && !l.dead
  let hs := chosenHomes s (homePkg home)
  match lease with
  | some l =>
    (hs.findSome? fun h => chooseCore s [h] (gs.map fun g => (g.w, g.tileRows)) l.len).map fun r =>
      let s1 := (gs.zip r.2.1).foldl (fun s x => resumeOn x.1.gid x.2 (some l) r.2.2 s) s
      (restoreLease l r.1 r.2.2 s1).spend
  | none =>
    match gs with
    | [] => some s
    | g :: _ => (hs.findSome? fun h => choosePart s [h] (g.w, g.tileRows)).map fun p => (resumeOn g.gid p none 0 s).spend

/-- The focused split takes a place: it runs, but behind a handler that suspends it, or in a wait of the spin detector that it had begun
in place (10 R181, 21 R326). At another partition than before, where nothing has counted a move, RESGEN is one higher (05 R96). -/
def takePlace (p : Nat) (s : State) : State :=
  s.setSp fun sp =>
    { sp with
      part := some p, lastPart := some p, jacket := none
      resgen := match sp.lastPart with
        | some q => if q = p then sp.resgen else sp.resgen + 1
        | none => sp.resgen
      timeout := if sp.watch.isSome then (partClock s p).toNat else sp.timeout
      status := if sp.status == .suspended then .suspended else if sp.watch.isSome then .waiting else sp.resumed s.g }

/-- The head item of a home's highest level, and the others. A home that is not ready admits no new group (26 R385). -/
def admissionHead (h : Home) : Option ((Nat × Item) × List (Nat × Item)) :=
  let may (x : Nat × Item) : Bool := match x.2 with
    | .chunk _ _ => h.st == .ready
    | _ => true
  let top := (h.adm.filter may).foldl (fun n x => max n x.1) 0
  takeFirst (fun x => may x && x.1 == top) h.adm

/-- ADMIT (R201, R202): the head item of the highest level is admitted, a chunk group by group. -/
def execAdmitItem (home : Nat) (s : State) : Result :=
  match admissionHead (s.home home) with
  | none => .next s
  | some ((level, item), rest) =>
    let left (i : Option Item) (t : State) : State := t.setHome home fun h =>
      { h with adm := match i with
        | some i => (level, i) :: rest
        | none => rest }
    match item with
    | .chunk cid groups =>
      if groups.isEmpty || !(s.cards.any fun c => c.id == cid) then .next (left none s)
      else match admitUnit home cid (runAt 0 groups) s with
        | none => .next s
        | some (k, t) =>
          let gs := dropRuns k groups
          .next (left (if gs.isEmpty then none else some (.chunk cid gs)) t)
    | .split gid i =>
      match focus gid i s with
      | none => .next (left none s)
      | some s1 =>
        if !awaitsAdmission s1 home then .next (left none s1)
        else match splitPlace s1 with
          | none => .next s1
          | some p => .next (left none (takePlace p s1))
    | .groups gids => match admitGroups home gids s with
      | none => .next s
      | some t => .next (left none t)

/-! ### Diagnostic groups (08 R135 to R138) -/

/-- The port words and entries of a core stand at 0 when its diagnostic group starts, and no word is remapped (R138). -/
def clearDiagnostic (c : Core) : Core :=
  { swapSpares c with repair := [], count := 0, ovf := false, bad := false, status := 0, synd := 0 }

/-- The record of a forwarded diagnostic card that belongs to a core is launched once the core's reset is complete, on a core without
groups (R135, R136). -/
def launchDiagnostic (core : Nat) (s : State) : State :=
  let h := coreHome core
  let n := 40 * (h % 16) + core % 64
  match s.cards.find? fun c => c.diag && homePkg c.home == homePkg h && c.ranges.any fun r => r.routed && r.owner == h && r.recs.any fun x => x.1 ≤ n && n < x.2 with
  | none => s
  | some c =>
    if !(s.core core).wasReset || !(coreResidents s core).isEmpty then s
    else
      let cut (r : Range) : Range :=
        { r with recs := r.recs.flatMap fun x => if x.1 ≤ n ∧ n < x.2 then [(x.1, n), (n + 1, x.2)].filter fun y => y.1 < y.2 else [x] }
      let s1 := { s with cards := updateWhere (fun x => x.id == c.id) (fun x => { x with ranges := x.ranges.map cut }) s.cards }
      launch c.id n h (core * 4) (createTeam c.id n h (s1.setCore core clearDiagnostic))

/-- CORE_RESET_COMPLETE (R136): a core reports that its reset is complete. -/
def execCoreResetComplete (core : Nat) (s : State) : Result :=
  .next (launchDiagnostic core (s.setCore core fun c => { c with wasReset := true }))

/-! ### APPEND (08 R139) -/

/-- APPEND: the values of a store to APPEND by the diagnostic group that runs on the core, in lane order; no other agent reaches the port
words (R138). -/
def execAppend (core : Nat) (values : List Word) (s : State) : Result :=
  .next (if (coreResidents s core).any (·.diag) then s.setCore core fun c => values.foldl appendRepair c else s)

end Sys2Proof.Machine
end

