-- ==== Sys2Proof/Machine/Deal.lean ====
section
/-! DEFINITION. Cards and chunks: taking a card with its checks, dealing, stealing, the balancer, retirement (spec/08 R135, R136,
spec/09 R145 to R150, R157 to R159, spec/12 R192 to R200, R206). -/

namespace Sys2Proof.Machine

/-! ### The bytes of a card (09 Table 9.1) -/

def cardN (c : List Byte) (o n : Nat) : Nat := leNat ((c.drop o).take n)
def cardGang (c : List Byte) : Bool := cardN c 0 1 == 1
def cardDiag (c : List Byte) : Bool := cardN c 3 1 / 128 == 1

/-- The 128 bytes of a slot. -/
def slotNow (s : State) (pa : Nat) : List Byte := Cells.getMany 0 s.mem pa 128

/-- A card read whole, from its slot: an 8-byte word written since the tail made the card visible is old or new, chosen for each (R145,
log 27). -/
def cardBytes (s : State) (q : JobQueue) (n pa : Nat) : List Byte :=
  let now := slotNow s pa
  match q.cards.find? fun c => c.1 == n with
  | none => now
  | some (_, old) => (List.range 16).flatMap fun i =>
      ((if Config.keepsOld (s.free * 2 ^ 56 + pa / 8 + i) then old else now).drop (8 * i)).take 8

/-- The address and leaf of a device access in a queue's context, in tier 0 or 1 (R147, R150). -/
def cardSpot (s : State) (home ctx : Nat) (n : Need) (va : Nat) : Option (Nat × Nat) :=
  match resolve s home ctx true false n va with
  | .ok (pa, pte) => if paTier pa < 2 then some (pa, pte) else none
  | .error _ => none
def cardLeaf (s : State) (home ctx : Nat) (n : Need) (va : Nat) : Option Nat := (cardSpot s home ctx n va).map (·.1)

/-! ### The role table (R150) -/

def cardWindowOk (w : Nat) : Bool := w % 8 == 0 && 8 ≤ w && w ≤ 128

/-- An entry of the role table; none when it is invalid. -/
def roleEntry (e : List Byte) : Option Role :=
  let count := cardN e 0x0A 2
  if count = 0 then some { pc := 0, w := 0, count := 0, tileRows := 0 }
  else if cardWindowOk (cardN e 8 2) && cardN e 0x0C 2 ≤ 256 && cardN e 0x0E 18 == 0 then
    some { pc := BitVec.ofNat 64 (cardN e 0 8), w := cardN e 8 2, count := count, tileRows := cardN e 0x0C 2 }
  else none

/-- The bytes of a role table, which may cross a page; none where one of its pages does not translate. -/
def roleBytes (s : State) (home ctx va : Nat) : Option (List Byte) :=
  let k := min 128 (2 ^ 16 - va % 2 ^ 16)
  (cardLeaf s home ctx .read va).bind fun pa =>
    if k = 128 then some (Cells.getMany 0 s.mem pa 128)
    else (cardLeaf s home ctx .read (va + k)).map fun pb => Cells.getMany 0 s.mem pa k ++ Cells.getMany 0 s.mem pb (128 - k)

/-- The role table of a gang card; none when it is invalid. -/
def roleTable (s : State) (home ctx : Nat) (c : List Byte) : Option (List Role) :=
  (roleBytes s home ctx (cardN c 0x50 8)).bind fun t =>
    let rs : List Role := (List.range 4).filterMap fun i => roleEntry ((t.drop (32 * i)).take 32)
    let n : Nat := (rs.map fun r => r.count).sum
    if rs.length = 4 ∧ n ≠ 0 ∧ n ≤ 64 then some rs else none

/-! ### The checks (R147 Table 9.3) -/

/-- Code 0x01. -/
def cardKindBad (c : List Byte) : Bool := 1 < cardN c 0 1 || cardN c 3 1 / 2 % 64 != 0 || cardN c 0x5D 3 != 0 || cardN c 0x4F 1 != 0

/-- Code 0x02 (08 R135, R136): a diagnostic card comes from the boot image's queue, before any other card is dealt to its package. -/
def cardDiagBad (boot first : Bool) (c : List Byte) : Bool :=
  cardDiag c && !(boot && first && cardN c 0 1 == 0 && cardN c 0x18 4 == 480 && cardN c 0x1C 2 == 1 && cardN c 0x1E 2 == 1
    && cardN c 0x48 4 == 0 && cardN c 0x4C 2 == 0)

/-- Code 0x03. -/
def cardShapeBad (c : List Byte) : Bool :=
  if cardGang c then
    cardN c 2 1 != 0 || cardN c 0x1C 2 != 0 || cardN c 0x1E 2 != 0 || cardN c 8 8 != 0 || cardN c 0x4C 2 != 0 || cardN c 0x50 8 % 32 != 0
  else !cardWindowOk (cardN c 2 1) || cardN c 0x1C 2 == 0 || 256 < cardN c 0x4C 2 || cardN c 0x50 8 != 0

/-- Code 0x04. -/
def cardSizeBad (c : List Byte) : Bool := cardN c 4 2 % 8 != 0 || (cardN c 0x5C 1 == 1 && cardN c 4 2 < 8)

/-- Code 0x05. -/
def cardAddressBad (s : State) (home ctx : Nat) (c : List Byte) : Bool :=
  let bad (a : Nat) : Bool := a % 8 != 0 || 2 ^ 56 ≤ a
  let args := cardN c 0x10 8
  let done := cardN c 0x20 8
  let wait := cardN c 0x28 8
  bad args || bad done || bad wait || (wait != 0 && (cardLeaf s home ctx .read wait).isNone)
    || (done != 0 && (cardLeaf s home ctx .write done).isNone)

/-- Code 0x06. -/
def cardLeaseBad (c : List Byte) : Bool :=
  Config.scratchBytes < cardN c 0x48 4 || cardN c 0x48 4 % 128 != 0 || (!cardGang c && cardN c 0x48 4 != 0 && cardN c 0x1E 2 == 0)

/-- The groups of the largest launch team with a lease, or of a gang: none when the card has no such team. -/
def cardTeam (c : List Byte) (roles : List Role) : List (Nat × Nat) :=
  if cardGang c then roles.flatMap fun r => List.replicate r.count (r.w, r.tileRows)
  else if cardN c 0x48 4 = 0 then []
  else List.replicate (min (cardN c 0x1E 2) (cardN c 0x18 4 * cardN c 0x1C 2)) (cardN c 2 1, cardN c 0x4C 2)

/-- Places on an empty core (R149). -/
def fitsEmpty (xs : List (Nat × Nat)) : Bool :=
  xs.length ≤ 4 * Config.slotsPerPartition && (packTeam xs ((List.range 4).map fun p => { part := p })).isSome

/-- Code 0x08. -/
def cardOrderBad (c : List Byte) : Bool := cardN c 1 1 < cardN c 0x4E 1 || cardN c 0x58 2 < cardN c 0x5A 2 || 1 < cardN c 0x5C 1

/-- The refusal code of a card: the lowest that applies; 0 accepts (R147). -/
def cardCode (s : State) (home ctx : Nat) (boot : Bool) (c : List Byte) : Nat :=
  let roles := if cardGang c then roleTable s home ctx c else some []
  if cardKindBad c then 1
  else if cardDiagBad boot (!(s.pkg (homePkg home)).dealt) c then 2
  else if cardShapeBad c then 3
  else if cardSizeBad c then 4
  else if cardAddressBad s home ctx c then 5
  else if cardLeaseBad c then 6
  else if roles.isSome && !fitsEmpty (cardTeam c (roles.getD [])) then 7
  else if cardOrderBad c then 8
  else if roles.isNone then 9
  else 0

/-! ### A taken card -/

/-- A card as it stands when a home takes it from a slot (R145, R148, R157). -/
def cardOf (s : State) (home : Nat) (q : JobQueue) (slot pte : Nat) (code : Nat) (c : List Byte) : Card :=
  let wait := cardN c 0x28 8
  let thr := BitVec.ofNat 64 (cardN c 0x30 8)
  let waitPa := if wait = 0 then none else cardLeaf s home q.ctx .read wait
  let card : Card :=
    { id := s.fresh
      slot := slot
      slotPte := pte
      ctx := q.ctx
      trapvec := q.trapvec
      home := home
      gang := cardGang c
      prio := cardN c 1 1
      w := cardN c 2 1
      diag := cardDiag c
      noSteal := cardN c 3 1 % 2 == 1
      recSize := cardN c 4 2
      entry := BitVec.ofNat 64 (cardN c 8 8)
      args := BitVec.ofNat 64 (cardN c 0x10 8)
      records := cardN c 0x18 4
      grpRec := cardN c 0x1C 2
      teamSize := cardN c 0x1E 2
      done := BitVec.ofNat 64 (cardN c 0x20 8)
      waitPa := waitPa
      waitThr := thr
      ready := match waitPa with
        | some pa => waitHolds s { pa := pa, cond := .sig thr }
        | none => true
      refused := code != 0
      boot := q.boot
      fs := (List.range 8).map fun i => BitVec.ofNat 16 (cardN c (0x38 + 2 * i) 2)
      lease := cardN c 0x48 4
      tileRows := cardN c 0x4C 2
      floorPrio := cardN c 0x4E 1
      roles := if cardGang c then (roleTable s home q.ctx c).getD [] else []
      chunk0 := cardN c 0x58 2
      chunkMin := cardN c 0x5A 2
      sval := (List.range 4).map fun i => BitVec.ofNat 64 (cardN c (0x60 + 8 * i) 8) }
  { card with
    affinity := cardN c 0x5C 1 == 1 && !card.anchored
    ranges := if card.records = 0 then [] else [{ owner := home, recs := [(0, card.records)] }]
    left := card.total }

/-- The ranges of a diagnostic card: 40 records for each home whose die passed stage 0; the others count as retired (08
R136). -/
def diagRanges (s : State) (home : Nat) : List Range :=
  ((packageHomes (homePkg home)).filter fun h => !(Cells.get {} (s.pkg (homePkg h)).dies (homeDie h) : Die).failed).map fun h =>
    { owner := h, recs := [(40 * (h % 16), 40 * (h % 16) + 40)], routed := true }

/-- A card is dealt to a package (08 R135). -/
def noteDealt (p : Nat) (s : State) : State := if (s.pkg p).dealt then s else s.setPkg p fun k => { k with dealt := true }

/-- An accepted diagnostic card whose wait is over is forwarded at once, and goes to every core that has reported (08 R136, R157). -/
def dealDiagnostic (c : Card) (s : State) : State :=
  let rs := diagRanges s c.home
  let c1 := { c with ranges := rs, left := 40 * rs.length }
  let s1 := noteDealt (homePkg c.home) { s with cards := (s.cards.filter fun x => x.id != c.id) ++ [c1] }
  if rs.isEmpty then completeCard c1 [] s1
  else (rs.flatMap fun r => homeCores r.owner).foldl (fun s k => launchDiagnostic k s) s1

/-- A card that was read and checked is entered: STATUS, HEAD, and its completion where it has no group (R147, R158, 12
R193). -/
def enterCard (c : Card) (code : Nat) (hdr head : Nat) (s : State) : State :=
  let s1 := storeN (deviceStore c.slotPte (c.slot + 6) 2 code s) (hdr + 8) 8 ((head + 1) % 2 ^ 64)
  let s2 := { s1 with fresh := s1.fresh + 1 }
  if c.refused || c.left = 0 then completeCard c [] s2
  else if c.diag && c.ready then dealDiagnostic c s2
  else { s2 with cards := s2.cards ++ [c] }

/-! ### Taking (12 R192 to R194) -/

/-- Fields of a queue header (12 Table 12.1). -/
def queueHead (s : State) (h : Nat) : Nat := s.mem.readN (h + 8) 8
def queueWaiting (s : State) (h : Nat) : Nat := (s.mem.readN h 8 + 2 ^ 64 - queueHead s h) % 2 ^ 64

/-- A malformed header (R193). -/
def headerBad (s : State) (h : Nat) : Bool :=
  16 < queueLog s h || s.mem.readN (h + 0x19) 3 != 0 || s.mem.readN (h + 0x20) 32 != 0 || s.mem.readN (h + 0x10) 8 % 128 != 0

/-- A slot of a queue, with its leaf: tier 0 or 1 of the serving home (R192, R193). -/
def queueSlot (s : State) (home : Nat) (q : JobQueue) (n : Nat) : Option (Nat × Nat) :=
  (cardSpot s home q.ctx .read (queueSlotVa s q.hdr n)).filter fun x => homeOfPa x.1 == home

/-- A queue stops (R193): QERR and event 0x08. -/
def stopQueue (home : Nat) (q : JobQueue) (code : Nat) (s : State) : State :=
  let s1 := (storeN s (q.hdr + 0x1C) 4 code).setHome home fun h =>
    { h with queues := updateWhere (fun x => x.hdr == q.hdr) (fun x => { x with open_ := false }) h.queues }
  postEvent home 0x08 0 0 q.hdr code s1

/-- The number of the open queue that is next in turn among those that hold cards (R193). -/
def queueTurn (s : State) (home : Nat) : Option Nat :=
  let qs := ((s.home home).queues.filter fun q => q.open_ && queueWaiting s q.hdr != 0).map (·.id)
  nextAfter (if (s.home home).turn = 0 then none else some ((s.home home).turn - 1)) qs

/-- A home takes cards: one that is ready; the boot image's queue is served during bring-up, once every die has passed or
failed stage 0 (08 R136, 26 R382). -/
def mayTake (s : State) (home : Nat) (q : JobQueue) : Bool :=
  (if q.boot then (List.range 6).all fun d =>
      let x : Die := Cells.get {} (s.pkg (homePkg home)).dies d
      x.failed || 1 ≤ x.stage
    else (s.home home).st == .ready)

/-- A home holds as many cards as it may (R194). -/
def cardsFull (s : State) (home : Nat) : Bool := 256 ≤ (s.cards.filter fun c => c.home == home).length

/-- The first wake of a queue is over: its header is in order (R193). -/
def noteChecked (home : Nat) (q : JobQueue) (s : State) : State :=
  if q.checked then s
  else s.setHome home fun h => { h with queues := updateWhere (fun x => x.hdr == q.hdr) (fun x => { x with checked := true }) h.queues }

/-- The turn passes on (R193); the card at a number is dealt with. -/
def passTurn (home : Nat) (q : JobQueue) (n : Nat) (s : State) : State :=
  s.setHome home fun h =>
    { h with turn := q.id + 1, queues := updateWhere (fun x => x.hdr == q.hdr) (fun x =>
        { x with cards := x.cards.filter fun c => c.1 != n }) h.queues }

/-- The first evaluation of WAITSIG and the reading of a gang's role table close the open runs of their lines (18 R292). -/
def closeCard (home ctx : Nat) (c : List Byte) (s : State) : State :=
  let s1 := if cardN c 0x28 8 = 0 then s else closeVirtual 1 s home ctx (cardN c 0x28 8) 8
  if cardGang c then closeVirtual 2 s1 home ctx (cardN c 0x50 8) 128 else s1

/-- The dealer takes a queue's next card (R193). -/
def takeCard (home : Nat) (q : JobQueue) (s : State) : State :=
  let head := queueHead s q.hdr
  match queueSlot s home q head with
  | none => stopQueue home q 2 s
  | some (slot, pte) =>
    let c := cardBytes s q head slot
    let s := closeCard home q.ctx c (closeSpan slot 128 s)
    let code := cardCode s home q.ctx q.boot c
    enterCard (cardOf s home q slot pte code c) code q.hdr head (passTurn home q head s)

/-- A queue wakes the dealer (R193): a malformed header at the first wake and an overfull ring stop it; a card is taken when it is the
queue's turn, unless the home holds 256 (R194). -/
def wakeDealer (home : Nat) (q : JobQueue) (s : State) : State :=
  if !q.checked && headerBad s q.hdr then stopQueue home q 2 s
  else if 2 ^ queueLog s q.hdr < queueWaiting s q.hdr then stopQueue home q 1 s
  else
    let s := noteChecked home q s
    if queueWaiting s q.hdr ≠ 0 ∧ queueTurn s home = some q.id ∧ !cardsFull s home then (takeCard home q s).spend else s

/-- CARD_TAKE (R193, R145): a queue of a home wakes its dealer, which may take the next card. -/
def execCardTake (home : Nat) (queue : Nat) (s : State) : Result :=
  match (s.home home).queues.find? fun q => q.open_ && q.id == queue with
  | none => .next s
  | some q =>
    let s1 := closeLine q.hdr s
    .next (if mayTake s1 home q then wakeDealer home q s1 else s1)

/-! ### Routing by affinity (12 R198) -/

/-- The home that a record is routed to; none when it keeps the taking home. A record whose own first 8 bytes cannot be read keeps it too:
the spec names no outcome for it (DESIGN CHOICE, log 115). -/
def recordHome (s : State) (c : Card) (i : Nat) : Option Nat :=
  match resolve s c.home c.ctx true false .read (c.args.toNat + i * c.recSize) with
  | .error _ => none
  | .ok (pa, _) =>
    let v := readPa s pa 8
    if 2 ^ 56 ≤ v then none
    else match translate s c.home c.ctx v with
      | .ok x _ _ => if homePkg (homeOfPa x) == homePkg c.home && (s.home (homeOfPa x)).st == .ready then some (homeOfPa x) else none
      | _ => none

/-- A record enters one range of its owner. -/
def addRecord (rs : List Range) (owner : Nat) (routed : Bool) (i : Nat) : List Range :=
  if rs.any fun r => r.owner == owner && r.routed == routed then
    updateFirst (fun r => r.owner == owner && r.routed == routed) (fun r => { r with recs := addRun i r.recs }) rs
  else rs ++ [{ owner := owner, recs := [(i, i + 1)], routed := routed }]

/-- The numbers of some runs. -/
def runNumbers (rs : List (Nat × Nat)) : List Nat := rs.flatMap fun r => (List.range (r.2 - r.1)).map (r.1 + ·)

/-- Records that the dealer of a card with affinity reads, in index order, as it cuts a chunk of them: those that go to the homes that
they name are added to the ranges there, and the others are kept (R198). -/
def routeRecords (s : State) (c : Card) (recs : List (Nat × Nat)) : List Range × List (Nat × Nat) :=
  (runNumbers recs).foldl (fun x i => match recordHome s c i with
    | some h => (addRecord x.1 h true i, x.2)
    | none => (x.1, addRun i x.2)) (c.ranges, [])

/-- The reads of the records close the open runs of their lines (18 R292). -/
def closeRecords (c : Card) (recs : List (Nat × Nat)) (s : State) : State :=
  (runNumbers recs).foldl (fun s i => closeVirtual 1 s c.home c.ctx (c.args.toNat + i * c.recSize) 8) s

/-! ### Chunks (12 R196, R197) -/

/-- Steps 1 and 2 of the size of a chunk of a range of u records, with h ready homes. -/
def chunkBase (c : Card) (u h : Nat) : Nat :=
  let k0 := if c.chunk0 = 0 then 256 else c.chunk0
  let kmin := if c.chunk0 = 0 then 1 else max c.chunkMin 1
  min (min k0 (max kmin ((u + 2 * h - 1) / (2 * h)))) u

/-- The number of records lies on a boundary of launch teams. -/
def onBoundary (c : Card) (r : Nat) : Bool := c.teamSize == 0 || c.gang || r * c.perRecord % c.teamSize == 0

/-- Step 3: the chunk ends on a team boundary or with the range. -/
def extendChunk (c : Card) (rs : List (Nat × Nat)) (k : Nat) : Nat :=
  let u := runsLength rs
  (firstFrom (fun n => n == u || onBoundary c (runAt (n - 1) rs + 1)) (u + 1 - k) k).getD u

/-- The size of a chunk of a range (R196). -/
def chunkSize (s : State) (c : Card) (r : Range) : Nat :=
  extendChunk c r.recs (chunkBase c (runsLength r.recs) (max 1 (readyHomes s (homePkg r.owner)).length))

/-- A steal of k records begins on a team boundary (R199): the records left to the victim. -/
def stealCut (c : Card) (rs : List (Nat × Nat)) (k : Nat) : Nat :=
  let left := runsLength rs - k
  left - (firstFrom (fun n => n == left || onBoundary c (runAt (left - n) rs)) (left + 1) 0).getD left

/-- Records of a card that a home may deal, or give away to another: not those that affinity has routed, nor those that the taking dealer
is still to route (R198 to R200, log 43). A card held under R157 is not dealt from (R197). -/
def openRange (h : Nat) (steal : Bool) (r : Range) : Bool := r.owner == h && !r.recs.isEmpty && !(steal && r.routed)
def dealable (h : Nat) (steal : Bool) (c : Card) : Bool :=
  (steal || c.ready) && !c.diag && !(steal && (c.noSteal || c.affinity)) && c.ranges.any (openRange h steal)

/-- The card that a home deals from: the highest PRIO, then the one taken first (R197). -/
def pickCard (s : State) (h : Nat) (steal : Bool) : Option Card :=
  leastBy (fun c => 255 - c.prio) (s.cards.filter (dealable h steal))

/-- Replaces the first range of a card that a test names by others. -/
def replaceRange (p : Range → Bool) (new : List Range) : List Range → List Range
  | [] => []
  | r :: rs => if p r then new ++ rs else r :: replaceRange p new rs

/-- A card's ranges change. -/
def setRanges (cid : Nat) (f : List Range → List Range) (s : State) : State :=
  { s with cards := updateWhere (fun c => c.id == cid) (fun c => { c with ranges := (f c.ranges).filter fun r => !r.recs.isEmpty }) s.cards }

/-- The groups of some records. -/
def recordGroups (c : Card) (rs : List (Nat × Nat)) : List (Nat × Nat) := rs.map fun r => (r.1 * c.perRecord, r.2 * c.perRecord)

/-- Chunks that wait in an admission queue. -/
def chunksWaiting (h : Home) : Nat := (h.adm.filter fun x => match x.2 with
  | .chunk _ _ => true
  | _ => false).length

/-- A home deals one chunk of a card's range to itself; one whose launch teams find no place for their records waits (R152). Of a range
that is still to be routed, the chunk is what is kept (R198). -/
def dealChunk (home : Nat) (c : Card) (r : Range) (s : State) : State :=
  let k := chunkSize s c r
  let recs := takeRuns k r.recs
  let cut := replaceRange (openRange home false) [{ r with recs := dropRuns k r.recs }]
  if c.affinity && !r.routed then
    let x := routeRecords s { c with ranges := cut c.ranges } recs
    let gs := recordGroups c x.2
    if !recordsLeft s home (newTeams c gs).length then s
    else
      let s1 := setRanges c.id (fun _ => x.1) (closeRecords c recs s)
      if gs.isEmpty then s1 else enqueue home c.prio (.chunk c.id gs) (createTeams c gs home s1)
  else
    let gs := recordGroups c recs
    if !recordsLeft s home (newTeams c gs).length then s
    else enqueue home c.prio (.chunk c.id gs) (createTeams c gs home (setRanges c.id cut s))

/-- A diagnostic card that a home holds and whose wait is over (08 R136, R157). -/
def heldDiagnostic (s : State) (home : Nat) : Option Card :=
  s.cards.find? fun c => c.diag && c.ready && c.home == home && c.ranges.any fun r => !r.routed

/-- CHUNK_DEAL (R196, R197): a ready home whose stack is not hot deals a chunk while fewer than two wait for admission and the
package has room for groups (13 R228). A diagnostic card is forwarded instead (08 R136). -/
def execChunkDeal (home : Nat) (s : State) : Result :=
  let p := homePkg home
  let h := s.home home
  match heldDiagnostic s home with
  | some c => .next (dealDiagnostic c s)
  | none =>
    if h.st == .ready && !h.hot && chunksWaiting h < 2 && packageGroups s p < Config.groupsPerPackage then
      match (pickCard s home false).bind fun c => (c.ranges.find? (openRange home false)).map fun r => (c, r) with
      | none => .next s
      | some (c, r) => .next (dealChunk home c r (noteDealt p s)).spend
    else .next s

/-! ### Stealing and the balancer (12 R199, R200) -/

/-- No group waits for admission at a home, and one of its partitions has a free slot. -/
def mayRob (s : State) (home : Nat) : Bool :=
  let idle := !(s.home home).adm.any fun x => match x.2 with
    | .split _ _ => false
    | _ => true
  idle && ((homeCores home).filter (coreOpen s)).any fun c => (coreParts c).any fun p => (residents s p).length < Config.slotsPerPartition

/-- Runs in rising order of their numbers. -/
def insertRun (x : Nat × Nat) : List (Nat × Nat) → List (Nat × Nat)
  | [] => [x]
  | y :: ys => if x.1 < y.1 then x :: y :: ys else y :: insertRun x ys

/-- The records that a home may give away of a card. -/
def openRuns (c : Card) (src : Nat) : List (Nat × Nat) :=
  ((c.ranges.filter (openRange src true)).flatMap (·.recs)).foldl (fun l x => insertRun x l) []

/-- The numbers of some runs below a bound. -/
def runsBelow (n : Nat) (rs : List (Nat × Nat)) : List (Nat × Nat) :=
  (rs.map fun r => (r.1, min r.2 n)).filter fun r => r.1 < r.2

/-- The k highest-numbered of some records, and what team boundaries add, go from one home to another: `p` tells the ranges that hold
them. -/
def giveRecords (c : Card) (p : Range → Bool) (recs : List (Nat × Nat)) (dst k : Nat) (s : State) : State :=
  let left := stealCut c recs k
  let n := runAt left recs
  setRanges c.id (fun rs => (rs.map fun r => if p r then { r with recs := runsBelow n r.recs } else r)
    ++ [{ owner := dst, recs := dropRuns left recs }]) s

/-- Of the ranges of a card that a home holds, the one with the highest-numbered records. -/
def topRange (c : Card) (src : Nat) : Option Range :=
  leastBy (fun r => 2 ^ 32 - (r.recs.foldl (fun n x => max n x.2) 0)) (c.ranges.filter (openRange src true))

/-- STEAL (R199): an idle ready home takes records from the first ready home, in rotation, that holds any. -/
def execSteal (home : Nat) (s : State) : Result :=
  let others := ((List.range 11).map fun i => home / 16 * 16 + (home % 16 + i + 1) % 12).filter fun h => (s.home h).st == .ready
  if (s.home home).st == .ready && mayRob s home then
    match others.findSome? fun h => (pickCard s h true).bind fun c => (topRange c h).map fun r => (c, r) with
    | none => .next s
    | some (c, r) => .next (giveRecords c (· == r) r.recs home (chunkSize s c r) s)
  else .next s

/-- BALANCER_MOVE (R200): up to `count` undealt records of a card, the highest-numbered of all ranges of its source, pass from one home
to another. -/
def execBalancerMove (card : Nat) (src dst : Nat) (count : Nat) (s : State) : Result :=
  match s.cards.find? fun c => c.id == card && dealable src true c with
  | none => .next s
  | some c =>
    let recs := openRuns c src
    if (s.home dst).st == .ready && src != dst && homePkg src == homePkg dst && count != 0 then
      .next (giveRecords c (openRange src true) recs dst (min count (runsLength recs)) s)
    else .next s

/-- Undealt ranges of homes that are no longer ready pass to a ready home of their package (R195, R206). -/
def passRanges (s : State) : State :=
  let f (r : Range) : Range :=
    let hs := readyHomes s (homePkg r.owner)
    if (s.home r.owner).st == .ready || (s.home r.owner).st == .down then r
    else { r with owner := (hs[Config.homeChoice (s.free + r.owner) % hs.length]?).getD r.owner }
  { s with cards := s.cards.map fun c => if c.diag then c else { c with ranges := c.ranges.map f }, free := s.free + 256 }

/-- The launch teams of some runs of groups of which no group has been admitted, with their records. -/
def comingTeams (c : Card) (groups : List (Nat × Nat)) : List (Nat × Nat) :=
  let first (k : Nat) : Nat := k * if c.gang then c.perRecord else c.teamSize
  c.teams.filter fun t => groups.any fun r => r.1 ≤ first t.1 && first t.1 < r.2

/-- The records of some launch teams of a card are given up. -/
def dropTeams (cid : Nat) (ts : List (Nat × Nat)) (s : State) : State :=
  { s with
    cards := updateWhere (fun c => c.id == cid) (fun c => { c with teams := c.teams.filter fun t => !ts.contains t }) s.cards
    homes := if ts.isEmpty then s.homes else s.homes.map fun h =>
      (h.1, { h.2 with records := h.2.records.filter fun r => !ts.any fun t => t.2 == r }) }

/-- A chunk that waits for admission at a home that drains passes to a ready home of the package, which makes the records of its launch teams
anew: no group is admitted with the draining home as its base home (26 R385, R206). -/
def passChunk (home : Nat) (s : State) (x : Nat × Item) : State :=
  let hs := readyHomes s (homePkg home)
  match x.2, hs[Config.homeChoice (s.free + home) % hs.length]? with
  | .chunk cid gs, some h => (match s.cards.find? fun c => c.id == cid with
    | none => s
    | some c =>
      let s1 := dropTeams cid (comingTeams c gs) (s.setHome home fun y => { y with adm := y.adm.filter (· != x) })
      let c1 := (s1.cards.find? fun c => c.id == cid).getD c
      if !recordsLeft s1 h (newTeams c1 gs).length then s
      else (enqueue h x.1 x.2 (createTeams c1 gs h s1)).spend)
  | _, _ => s
def passChunks (home : Nat) (s : State) : State := (s.home home).adm.foldl (passChunk home) s

/-! ### Retirement (09 R159) -/

/-- Every operation of a group whose last split ended is over (R159 step 1). -/
def workOver (s : State) : Bool :=
  s.g.sp.ops.isEmpty && s.g.accs.isEmpty && s.g.mtx.isEmpty && s.g.copies.isEmpty && s.g.acks.isEmpty
    && !(s.packets.any fun p => p.gid == some s.g.gid) && !(s.mirrors.any fun m => m.2.gid == some s.g.gid)

/-- GROUP_RETIRE (R159): the group leaves its team, releases what it holds, and its card completes with the last one. -/
def execGroupRetire (gid : Word) (s : State) : Result :=
  match focusGroup gid s with
  | none => .next s
  | some s1 => if s1.g.life == .ending && workOver s1 then .next (retireGroup s1) else .next s1

end Sys2Proof.Machine
end

