-- ==== Sys2Proof/Machine/Fabric.lean ====
section
/-! DEFINITION. Links and packages, the reset of a die, and page moves (spec/22 R342, spec/25 R361 to R376, spec/26 R380,
R381). -/

namespace Sys2Proof.Machine

/-! ### Links (25 R363 to R365, 26 R381) -/

/-- A bit of an n-byte field of the control page. -/
def setPageBit (p off n bit : Nat) (x : Bool) (s : State) : State :=
  let w := s.pageN p off n
  s.setPageN p off n (if x then w ||| 2 ^ bit else w - (if w / 2 ^ bit % 2 = 1 then 2 ^ bit else 0))

/-- A fabric port trains or loses training: LINKRDY and event 0x07. -/
def setLink (pkg port : Nat) (up : Bool) (s : State) : State :=
  if (Cells.get {} (s.pkg pkg).links port : Link).up = up then s
  else
    let s1 := s.setPkg pkg fun k => { k with links := Cells.set {} k.links port { Cells.get {} k.links port with up := up } }
    postEvent (pkg * 16) 0x07 0 0 port (if up then 1 else 0) (setPageBit pkg 0x10 2 port up s1)

/-- An Ethernet port comes up or goes down: PORTRDY and event 0x07. -/
def setPort (pkg port : Nat) (up : Bool) (s : State) : State :=
  if (s.pkg pkg).ports.getLsbD port = up then s
  else
    let s1 := s.setPkg pkg fun k => { k with ports := if up then k.ports ||| BitVec.ofNat 4 (2 ^ port) else k.ports &&& ~~~BitVec.ofNat 4 (2 ^ port) }
    postEvent (pkg * 16) 0x07 0 0 port (if up then 1 else 0) (setPageBit pkg 0x12 1 port up s1)

/-- LINK_DOWN (R365): traffic takes the detour from now on. -/
def execLinkDown (pkg port : Nat) (s : State) : Result := .next (if (s.pkg pkg).present && port < 15 then setLink pkg port false s else s)

/-- A fabric port of a package that is there, and whose link does not lead to a package of the same number: such a link never trains
(26 R382). -/
def mayTrain (s : State) (pkg port : Nat) : Bool := (s.pkg pkg).present && port < 15 && !(s.pkg pkg).twinPorts.contains port

/-- LINK_RETRAINED (R365). -/
def execLinkRetrained (pkg port : Nat) (s : State) : Result := .next (if mayTrain s pkg port then setLink pkg port true s else s)

/-- PORT_STATE_CHANGE (26 R381, R382). -/
def execPortStateChange (pkg : Nat) (fabric : Bool) (port : Nat) (up : Bool) (s : State) : Result :=
  .next (if !(s.pkg pkg).present then s
         else if fabric then (if mayTrain s pkg port then setLink pkg port up s else s)
         else if port < 4 then setPort pkg port up s else s)

/-- The port of a package that faces another: the first that its route table names and that is trained. -/
def portToward (s : State) (p q : Nat) : Option Nat :=
  let e := (Cells.get 0 (s.pkg p).routes q).toNat
  if bits e 23 23 = 1 then
    firstFrom (fun k => bits e k k == 1 && (Cells.get {} (s.pkg p).links k : Link).up) 15 0
  else none

/-- Changes a link. -/
def mapLink (p k : Nat) (f : Link → Link) (s : State) : State :=
  s.setPkg p fun x => { x with links := Cells.set {} x.links k (f (Cells.get {} x.links k)) }

/-- FLIT_RECEIVE (R364, R365): a flit of one package reaches another. A sound one in sequence advances the link; another is
counted and replayed from the sender's buffer of 512. Neither changes any order (log 28). -/
def execFlitReceive (src dst : Nat) (ok : Bool) (s : State) : Result :=
  match portToward s src dst, portToward s dst src with
  | some a, some b =>
    if ok then
      let n := (Cells.get {} (s.pkg dst).links b : Link).seq
      let keep (l : Link) : Link := { l with replay := let r := l.replay ++ [n]; r.drop (r.length - 512) }
      .next (mapLink dst b (fun l => { l with seq := (l.seq + 1) % 2 ^ 64 }) (mapLink src a keep s))
    else .next (mapLink dst b (fun l => { l with errors := l.errors + 1 }) s)
  | _, _ => .next s

/-- The jackets that a package holds for another, in their parking areas (13 R228). -/
def waitingJackets (s : State) (src dst : Nat) : List (Word × Nat) :=
  s.groups.flatMap fun g => if g.life == .vacant then [] else g.splits.filterMap fun sp => match sp.sent with
    | some (h, 0) => if homePkg h == src && homePkg sp.home == dst then some (g.gid, sp.idx) else none
    | _ => none

/-- REORDER_WINDOW_ROOM (R365): with fewer than 2048 unreleased entries toward a package and class, a sender's oldest waiting item
goes: a packet, a copy for a mirror, or a jacket. -/
def execReorderWindowRoom (src dst : Nat) (cls : Nat) (s : State) : Result :=
  if 2048 ≤ unreleased s src dst cls then .next s
  else
    let waits (p : Packet) (h : Nat) : Bool := homePkg p.src == src && homePkg h == dst && p.cls == cls && p.cross.isNone
    match s.packets.find? fun p => waits p p.dst && inQueue p.src p.dst p with
    | some p => .next (crossPacket p.src p.dst cls s)
    | none => match s.mirrors.find? fun m => waits m.2 m.1 with
      | some m => .next (crossMirror m.2.src m.1 s)
      | none => match if cls = 1 then (waitingJackets s src dst).head? else none with
        | some (gid, sp) => execJacketDepart gid sp s
        | none => .next s

/-! ### Home states (26 Table 26.2 HSTATE, R381) -/

/-- HSTATE of a home becomes a code, with event 0x05. -/
def setHomeState (home code : Nat) (st : HomeState) (s : State) : State :=
  let p := homePkg home
  let k := 4 * (home % 16)
  let w := s.pageN p 8 8
  let w' := w - w / 2 ^ k % 16 * 2 ^ k + code * 2 ^ k
  let s1 := (s.setHome home fun h => { h with st := st }).setPageN p 8 8 w'
  if w = w' then s1 else postEvent home 0x05 0 0 w' (code + flag (s.home home).hot 4) s1

/-! ### Pages -/

/-- The leaves of the tables below a table with the addresses of their entries and their page sizes (13 R209, R210). -/
def leafSites (s : State) : List Nat → Nat → List (Nat × Nat × Nat)
  | [], _ => []
  | sh :: rest, t =>
    if !memAddressOk s t then []
    else (List.range 1024).flatMap fun i =>
      let e := s.mem.readN (t + 8 * i) 8
      if !pteV e then []
      else if pteLeaf e then
        (if (sh == 26 || sh == 16) && leafFieldsOk e sh && leafAddressOk s (leafPage e) then [(t + 8 * i, e, 2 ^ sh)] else [])
      else if tableFieldsOk e then leafSites s rest (bits e 55 13 * 2 ^ 13) else []

/-- The leaf at a physical address, and its page size: none when no context in use has a valid leaf there. -/
def leafAt (s : State) (pa : Nat) : Option (Nat × Nat) :=
  ((contexts s).findSome? fun c =>
    if ctxRoot s c % 2 ^ 13 = 0 ∧ ctxRoot s c < 2 ^ 56 then
      (leafSites s [46, 36, 26, 16] (ctxRoot s c)).find? fun x => x.1 == pa
    else none).map fun x => (x.2.1, x.2.2)

/-- The frame that serves a leaf (R370). -/
def servedFrame (s : State) (e : Nat) : Nat :=
  if pteMirror e && s.degraded.contains (leafPage e / 2 ^ 16, true) then mirrorOf s (leafPage e) else leafPage e

/-! ### A page at another frame (25 R372, R373) -/

/-- A line of a frame stands at another: its bytes, and whether it is poisoned. -/
def lineCopied (s : State) (src dst i : Nat) : Bool :=
  poisonedLine s (src / 64 + i) == poisonedLine s (dst / 64 + i)
    && Cells.getMany 0 s.mem (src + 64 * i) 64 == Cells.getMany 0 s.mem (dst + 64 * i) 64

/-- A line of a frame is copied to another, poison and all. -/
def copyFrameLine (src dst i : Nat) (s : State) : State :=
  setLinePoison (poisonedLine s (src / 64 + i)) (dst / 64 + i) (rewriteLine (src + 64 * i) (dst + 64 * i) s)

/-- The first line of a frame that does not stand at another. -/
def lineLeft (s : State) (src dst size : Nat) : Option Nat := firstFrom (fun i => !lineCopied s src dst i) (size / 64) 0

/-- A watch moves with its page. -/
def shiftWatch (m : PageMove) (w : Watch) : Watch := if w.scratch.isSome then w else { w with words := w.words.map fun x => (m.shift x.1, x.2) }

/-- What a split names by physical address moves with the page; the new home evaluates a wait at once (25 Table 25.2). -/
def shiftSplit (s : State) (m : PageMove) (sp : Split) : Split :=
  let w := sp.wait.map fun w => { w with pa := m.shift w.pa }
  { sp with
    wait := w
    woken := sp.woken || (match w with
      | some x => waitHolds s x
      | none => false)
    watch := sp.watch.map (shiftWatch m)
    lastLoad := shiftWatch m sp.lastLoad }

/-- What a group names by physical address moves with the page. -/
def shiftGroup (s : State) (m : PageMove) (g : Group) : Group :=
  { g.mapSplits (shiftSplit s m) with
    team := g.team.map m.shift
    acks := g.acks.map fun a => (a.1, m.shift a.2.1, a.2.2) }

/-- The child record that a parent arrival names moves with its page (09 R154). -/
def shiftChild (m : PageMove) (p : Packet) : Packet :=
  match p.body with
  | .parent pa c k => { p with body := .parent pa (m.shift c) k }
  | _ => p

/-- What a package's ports name by physical address moves with the page. -/
def shiftPkg (m : PageMove) (k : Pkg) : Pkg :=
  let op (o : HostOp) : HostOp := match o with
    | .send h c n => .send (m.shift h) c n
    | o => o
  { k with
    qps := k.qps.map fun q => { q with queue := q.queue.map m.shift }
    reqs := k.reqs.map fun r => { r with op := op r.op, lines := r.lines.map fun l => { l with pa := m.shift l.pa } } }

/-- What a card names by physical address moves with the page; a wait is evaluated at the new home (09 R157). -/
def shiftCard (s : State) (m : PageMove) (c : Card) : Card :=
  let w := c.waitPa.map m.shift
  { c with
    slot := m.shift c.slot
    waitPa := w
    ready := c.ready || (match w with
      | some pa => waitHolds s { pa := pa, cond := .sig c.waitThr }
      | none => false) }

/-- The names of a page's words at its old frame become names at the new one (R157, R373, Table 25.2). -/
def shiftNames (m : PageMove) (s : State) : State :=
  let s1 := s.mapGroups (shiftGroup s m)
  { s1 with
    packets := s1.packets.map (shiftChild m)
    pkgs := s1.pkgs.map fun k => (k.1, shiftPkg m k.2)
    homes := s1.homes.map fun h => (h.1, { h.2 with queues := h.2.queues.map fun q => { q with hdr := m.shift q.hdr } })
    leases := s1.leases.map fun l => { l with team := m.shift l.team }
    cards := s1.cards.map (shiftCard s1 m) }

/-- The entry of a leaf with another page. -/
def leafWith (e page : Nat) : Nat := e - bits e 55 16 * 2 ^ 16 + page

/-- Translations of a frame are discarded by every unit, and its lines by every instruction cache (R373). -/
def dropFrame (old size : Nat) (s : State) : State :=
  let s1 := { s with homes := s.homes.map fun h => (h.1, { h.2 with tlb := h.2.tlb.filter fun e => !(old ≤ leafPage e.2.2.1.toNat && leafPage e.2.2.1.toNat < old + size) }) }
  dropLines none old (old + size) s1

/-- The leaf `e` of a page names its new frame, and so does everything that named the old one; invalidations of both frames are
performed (R373). -/
def renamePage (m : PageMove) (e : Nat) (s : State) : State :=
  shiftNames m (dropFrame m.new m.size (dropFrame m.old m.size (storeN s m.pte 8 (leafWith e m.new))))

/-- The move the other way. -/
def PageMove.back (m : PageMove) : PageMove := { m with old := m.new, new := m.old }

/-! ### The reset of a die (22 R342, 25 R370, R376) -/

/-- The homes of a die. -/
def dieHomes (pkg die : Nat) : List Nat := [pkg * 16 + 2 * die, pkg * 16 + 2 * die + 1]

/-- The distinct mirrored pages that are mapped: their primary frames and sizes. -/
def mirroredPages (s : State) : List (Nat × Nat) :=
  ((mappedLeaves s).filter fun l => pteMirror l.1).foldl
    (fun ps l => if ps.any fun p => p.1 == leafPage l.1 then ps else ps ++ [(leafPage l.1, l.2)]) []

/-- A mirrored page that a reset of some homes leaves with one copy becomes DEGRADED, with event 0x04 (R370). -/
def degradePage (lost : List Nat) (x : Nat × Nat) (s : State) : State :=
  let prim := lost.contains (homeOfPa x.1)
  let mirr := lost.contains (homeOfPa (mirrorOf s x.1))
  if s.degraded.any (fun d => d.1 == x.1 / 2 ^ 16) || prim == mirr then s
  else
    let frames := (List.range (x.2 / 2 ^ 16)).map fun i => (x.1 / 2 ^ 16 + i, prim)
    postEvent (homeOfPa x.1) 0x04 0 0 x.1 0 { s with degraded := s.degraded ++ frames }

/-- Lines of mirrored pages with a copy elsewhere are not poisoned at a lost home (R342). -/
def keepMirrored (lost : List Nat) (pages : List (Nat × Nat)) (s : State) : State :=
  let at' (h : Nat) : List Nat := pages.flatMap fun x =>
    [x.1, mirrorOf s x.1].flatMap fun f =>
      if homeOfPa f = h && !(lost.contains (homeOfPa x.1) && lost.contains (homeOfPa (mirrorOf s x.1)))
          && !(s.degraded.any fun d => d.1 == x.1 / 2 ^ 16) then
        (List.range (x.2 / 64)).map fun i => f / 64 + i
      else []
  (lost.flatMap at').foldl (fun s l => setLinePoison false l s) s

/-- Every unmirrored line of the lost homes is poisoned (R342). -/
def drownHomes (lost : List Nat) (pages : List (Nat × Nat)) (s : State) : State :=
  let here (l : Nat) : Bool := lost.contains (homeOfPa (64 * l)) && paTier (64 * l) < 2
  keepMirrored lost pages { s with poison := Cells.drop s.poison here, drowned := s.drowned.filter (fun h => !lost.contains h) ++ lost }

/-- A packet's write to a MANTLE page never becomes durable: a release at .mantle scope that orders it does not complete, one that waits
already or a later one of its split, and its group commits nothing more (R342, R345). The number that they wait for belongs to no
operation. -/
def strand (p : Packet) (s : State) : State :=
  let f (l : List Nat) : List Nat := l.map fun x => if x / 2 = p.id then 2 * s.fresh else x
  let mark (g : Group) (sp : Split) : Split := if chargedTo g sp p then { sp with strands := sp.strands ++ [s.fresh] } else sp
  let note (g : Group) : Group := if some g.gid == p.gid then { g.mapSplits (mark g) with lost := g.lost ++ [p.id] } else g
  let t := s.mapGroups fun g => note { g with accs := g.accs.map fun a => if a.mantle.isSome then { a with after := f a.after } else a }
  { t.nextId with packets := t.packets.map fun p => if p.mantle.isSome then { p with after := f p.after } else p }

/-- A packet is lost: the counter of its operation falls (log 29), and a write to a MANTLE page is never durable. -/
def losePacket (p : Packet) (s : State) : State :=
  let s1 := { s with packets := s.packets.filter (fun q => q != p) }
  operationAccepted p.gid p.id (if pteMantle p.pte then strand p s1 else s1)

/-- A packet to or from a lost home is accepted or lost, by a free choice (R342). One that is accepted is present in every copy of its
page. -/
def settlePacket (p : Packet) (s : State) : State :=
  let s1 := { s with free := s.free + 1 }
  if Config.keepsOld s.free then
    operationAccepted p.gid p.id (takeCopies p.id (applyPacket p { s1 with packets := s1.packets.filter (fun q => q != p) }))
  else losePacket p s1

/-- Copies on their way to or from a lost home: the write of one bound for it is durable in the page's one copy (25 R370); one from it
is present or absent (R342). -/
def settleMirror (lost : List Nat) (m : Nat × Packet) (s : State) : State :=
  let s1 := { s with mirrors := s.mirrors.filter (fun x => x != m), free := s.free + 1 }
  let s2 :=
    if lost.contains m.1 then s1
    else if Config.keepsOld s.free then applyCopy m.2 s1
    else if pteMantle m.2.pte then strand m.2 s1 else s1
  closeAccesses (operationAccepted m.2.gid m.2.id s2)

/-- Every copy on its way to or from a lost home is settled. -/
def settleMirrors (lost : List Nat) (s : State) : State :=
  (s.mirrors.filter fun m => lost.contains m.1 || lost.contains m.2.src).foldl (fun s m => settleMirror lost m s) s

/-- A split or jacket lies at a lost home: a jacket that has not left still lies at the home that it is to leave (13 R228). -/
def splitLost (lost : List Nat) (sp : Split) : Bool := lost.contains (jacketHome sp)

/-- A group that the reset ends: a split or jacket, its base home, or its team record lay there (R342). The jackets of a saved group lie
at its base home, its tile rows at the home of its anchor (21 R324, R325). -/
def groupLost (lost : List Nat) (g : Group) : Bool :=
  let parts := match g.life with
    | .live | .ending => g.splits.any (splitLost lost)
    | .saved => 0 < g.tileRows && lost.contains g.sp.home
    | _ => false
  (g.life == .live || g.life == .ending || g.life == .saved) &&
    (parts || lost.contains g.baseHome || match g.team with
      | some r => lost.contains (homeOfPa r)
      | none => false)

/-- The lost home for which a group ends: that of a split or jacket, else its base home, else that of its team's record (26 R381). -/
def lostHomeOf (lost : List Nat) (g : Group) : Nat :=
  (((if g.life == .saved then [g.sp.home] else g.splits.map jacketHome) ++ [g.baseHome] ++ (g.team.map homeOfPa).toList).find?
    lost.contains).getD g.baseHome

/-- The focused group ends: event 0x03, and the effects of a kill. Work of an engine on a lost die is over (R342). -/
def endLost (lost : List Nat) (s : State) : State :=
  let drop (g : Group) : Group := if g.splits.any (splitLost lost) then { g with accs := [], mtx := [], copies := [], acks := [] } else g
  killGroup (postEvent s.g.baseHome 0x03 0 s.g.gid (lostHomeOf lost s.g) 0 { s with g := drop s.g })

/-- Teammates of a group that ended for a lost home are rolled back when the recovery points of all allow it, else killed (R342). -/
def saveTeam (r home : Nat) (s : State) : State :=
  let mates := s.groups.filter fun g => g.team == some r && g.life != .vacant && g.life != .ghost
  if mates.isEmpty then s
  else if mates.all fun g => g.rpseq != 0 then
    match focusGroup (mates.head?.map (·.gid) |>.getD 0) s with
    | some s1 => rollbackTeam s1
    | none => s
  else mates.foldl (fun s g => match focusGroup g.gid s with
    | some s1 => killGroup (postEvent s1.g.baseHome 0x03 0 g.gid home 0 s1)
    | none => s) s

/-- Every group that the reset ends is ended, and its team looked after. -/
def endGroups (lost : List Nat) (s : State) : State :=
  let gs := s.groups.filter (groupLost lost)
  let teams := gs.foldl (fun (l : List (Nat × Nat)) g => match g.team with
    | some r => if l.any (fun t => t.1 == r) || lost.contains (homeOfPa r) then l else l ++ [(r, lostHomeOf lost g)]
    | none => l) []
  let s1 := gs.foldl (fun s g => match focusGroup g.gid s with
    | some s1 => endLost lost s1
    | none => s) s
  teams.foldl (fun s t => saveTeam t.1 t.2 s) s1

/-- A split that has not left for a lost home translates again where it is (R370); one that the spin detector bound for it goes
on. A packed jacket is that of its split at its own home again (13 R228). -/
def stayHere (lost : List Nat) (sp : Split) : Split :=
  match sp.move with
  | none => sp
  | some h =>
    if !lost.contains h then sp
    else match sp.sent with
      | some (src, 0) => { sp with home := src, move := none, tail := none, sent := none, woken := sp.woken || sp.watch.isSome,
                                   status := if sp.watch.isSome then .waiting else .transit }
      | some _ => sp
      | none => if sp.home = h then sp else { sp with move := none, tail := none, woken := sp.woken || sp.watch.isSome }

/-- Splits whose jackets were packed for a lost home ask for admission at their own (R370, 13 R220). -/
def readmitHeld (lost : List Nat) (s : State) : State :=
  let held (sp : Split) : Bool := sp.joins.isNone && match sp.move, sp.sent with
    | some h, some (_, 0) => lost.contains h
    | _, _ => false
  let ks := s.groups.flatMap fun g => (g.splits.filter held).map fun sp => (g.gid, sp.idx)
  ks.foldl (fun s k => match focus k.1 k.2 s with
    | some t =>
      let u := unpack t
      if u.g.sp.watch.isSome then u
      else if wantsStop u.g then u.setSp fun sp => { sp with stopped := true }
      else requestAdmission u
    | none => s) (s.mapSplits (stayHere lost))

/-- What a home holds after its die's reset; its partner stays known to the device (log 30). A home that has failed goes on holding its
traffic back (26 R386). -/
def resetHome (h : Home) : Home :=
  { partner := h.partner, st := if h.st == .failed then .failed else .down, held := h.st == .failed && h.held }

/-- A page move is abandoned when either home's die resets (R376): at the old home it is over, at the new one with STATUS 3. -/
def dropMove (lost : List Nat) (h : Nat) (s : State) : State :=
  match (s.home h).mv with
  | none => s
  | some m =>
    if !lost.contains h && lost.contains (homeOfPa m.new) then
      postEvent h 0x0A 0 0 m.pte 3 (s.setHome h fun x => { x with mv := none, mvState := 0, mvStatus := 3 })
    else s

/-- Packets bound for a page in CUTOVER at a lost home become arrivals at the new home (R376). -/
def forwardLost (h : Nat) (s : State) : State :=
  match (s.home h).mv with
  | some m => if m.cutover then { s with packets := s.packets.map (redirectPacket m) } else s
  | none => s

/-- A page that a lost home took over in CUTOVER stays at its old home (R376): a line that differs there takes the bytes of the surviving
copy, and is poisoned where there is none (22 R342; DESIGN CHOICE, log 116). -/
def takeBack (lost : List Nat) (h : Nat) (s : State) : State :=
  match (s.home h).mv with
  | none => s
  | some m =>
    if lost.contains h || !m.cutover || !lost.contains (homeOfPa m.new) then s
    else match leafAt s m.pte with
      | none => s
      | some (e, _) =>
        let other := mirrorOf s m.new
        let kept := pteMirror e && !isDegraded s m.new e && !lost.contains (homeOfPa other)
        let give (i : Nat) (t : State) : State :=
          if lineCopied t m.new m.old i then t
          else if kept then copyFrameLine other m.old i t else setLinePoison true (m.old / 64 + i) t
        let twin (i : Nat) (t : State) : State := if pteMirror e then copyFrameLine m.old (mirrorOf s m.old) i t else t
        renamePage m.back e ((List.range (m.size / 64)).foldl (fun t i => twin i (give i t)) s)

/-- The device state of lost homes is gone: scratchpads, partitions, leases, queues, cards (log 31). What groups that live on were launched
with is kept: they may be rolled back (22 R341). -/
def clearHomes (lost : List Nat) (s : State) : State :=
  let s1 := lost.foldl (fun s h => s.setHome h resetHome) s
  { s1 with
    launches := (s1.launches ++ s1.cards.filter fun c => lost.contains c.home).filter fun c =>
      s1.groups.any fun g => g.life != .vacant && g.life != .ghost && g.card == c.id
    cores := Cells.drop s1.cores fun c => lost.contains (coreHome c)
    parts := Cells.drop s1.parts fun p => lost.contains (partHome p)
    leases := s1.leases.filter fun l => !lost.contains (coreHome l.core) || l.saved.isSome
    cards := s1.cards.filter fun c => !lost.contains c.home
    roce := s1.roce.filter fun r => !lost.contains r.home }

/-- Acknowledgements that never come are no longer waited for. -/
def settleRoce (lost : List Nat) (s : State) : State :=
  (s.roce.filter fun r => lost.contains r.home).foldl (fun s r =>
    settle r.id { s with roce := s.roce.filter fun x => x != r }) s

/-- Some homes are lost at once. -/
def loseHomes (lost : List Nat) (s : State) : State :=
  let hs := s.homes.map (·.1)
  let s1 := lost.foldl (fun s h => forwardLost h s) s
  let s2 := settleMirrors lost s1
  let s3 := settleMirrors lost
    ((s2.packets.filter fun p => lost.contains p.dst || lost.contains p.src).foldl (fun s p => settlePacket p s) s2)
  let s4 := hs.foldl (fun s h => takeBack lost h s) s3
  let pages := mirroredPages s4
  let s5 := settleRoce lost (drownHomes lost pages s4)
  let s6 := endGroups lost (pages.foldl (fun s x => degradePage lost x s) s5)
  passRanges (hs.foldl (fun s h => dropMove lost h s) (clearHomes lost (readmitHeld lost s6)))

/-- DIE_RESET (22 R342). The identity of a die whose correction has succeeded is the silicon's, and stays (26 R383). -/
def execDieReset (pkg die : Nat) (s : State) : Result :=
  if !(s.pkg pkg).present || 6 ≤ die then .next s
  else
    let lost := dieHomes pkg die
    let s1 := loseHomes lost s
    let s2 := s1.setPkg pkg fun k => { k with dies := Cells.set {} k.dies die { identity := (Cells.get {} k.dies die : Die).identity } }
    .next (lost.foldl (fun s h => if (s.home h).st == .failed then s else setHomeState h 0 .down s) s2)

/-- Nothing is counted between a package and the others any more (25 R366). -/
def dropCrossings (pkg : Nat) (s : State) : State :=
  let keep (c : Cells Nat) : Cells Nat := Cells.drop c fun k => k / 4 = pkg
  { s with pkgs := s.pkgs.map fun x => (x.1, if x.1 = pkg then { x.2 with sent := [], freed := [] }
                                             else { x.2 with sent := keep x.2.sent, freed := keep x.2.freed }) }

/-- What other packages still hold at their senders for a lost one is discarded (25 R366). -/
def dropSends (pkg : Nat) (s : State) : State :=
  (s.packets.filter fun p => homePkg p.dst == pkg && homePkg p.src != pkg && p.cross.isNone).foldl (fun s p => losePacket p s) s

/-- PACKAGE_LOST (25 R366): each die of a package that the driver declares lost counts as reset, and what is held for it is
discarded. -/
def execPackageLost (pkg : Nat) (s : State) : Result :=
  if !(s.pkg pkg).present then .next s
  else .next ((dropCrossings pkg (loseHomes (packageHomes pkg) (dropSends pkg s))).setPkg pkg fun k =>
    { k with present := false, lost := true, reqs := [] })

/-! ### A copy is lost otherwise (25 R369, R370) -/

/-- The mapped mirrored page at one of whose two frames an address lies: its leaf, its primary frame and its size. -/
def mirroredAt (s : State) (pa : Nat) : Option (Nat × Nat × Nat) :=
  let in' (f size : Nat) : Bool := f ≤ pa && pa < f + size
  ((mappedLeaves s).find? fun l => pteMirror l.1 && (in' (leafPage l.1) l.2 || in' (mirrorOf s (leafPage l.1)) l.2)).map fun l =>
    (l.1, leafPage l.1, l.2)

/-- The place of an address of either frame in the primary frame. -/
def primaryOf (s : State) (frame size pa : Nat) : Nat :=
  if frame ≤ pa ∧ pa < frame + size then pa else frame + (pa - mirrorOf s frame)

/-- One copy of a page is lost for good: the page becomes DEGRADED, with event 0x04. Copies that were bound for a lost mirror are durable in
the copy that is left; those bound for the one that is left arrive (R370). -/
def loseCopy (frame size : Nat) (prim : Bool) (s : State) : State :=
  if s.degraded.any fun d => d.1 == frame / 2 ^ 16 then s
  else
    let twin := mirrorOf s frame
    let here (m : Nat × Packet) : Bool := twin ≤ m.2.body.address && m.2.body.address < twin + size
    let s1 := (s.mirrors.filter here).foldl (fun t m =>
      let u := { t with mirrors := t.mirrors.filter fun x => x != m }
      closeAccesses (operationAccepted m.2.gid m.2.id (if prim then applyCopy m.2 u else u))) s
    let frames := (List.range (size / 2 ^ 16)).map fun i => (frame / 2 ^ 16 + i, prim)
    postEvent (homeOfPa frame) 0x04 0 0 frame 0 { s1 with degraded := s1.degraded ++ frames }

/-- A poisoned line of one copy of a page is rewritten from the other, once that is at hand (R369). -/
def repairMirrored (pa : Nat) (s : State) : State :=
  match mirroredAt s pa with
  | none => s
  | some (e, frame, size) =>
    let a : LaneAccess := { lane := 0, va := 0, pa := primaryOf s frame size pa, pte := e }
    if hasMirror s a && poisonedLine s (a.pa / 64) != poisonedLine s (mirrorOf s a.pa / 64) && !mirrorAtHand s a then
      { s with agenda := s.agenda ++ [.mirrorRepair pa] }
    else repairLine a s

/-- The rewrite of a poisoned line fails: its copy is lost (R370). -/
def failRewrite (pa : Nat) (s : State) : State :=
  match mirroredAt s pa with
  | none => s
  | some (_, frame, size) =>
    let a := primaryOf s frame size pa
    if poisonedLine s (pa / 64) && poisonedLine s (a / 64) != poisonedLine s (mirrorOf s a / 64) then loseCopy frame size (a == pa) s else s

/-- The package of a page's mirror cannot be reached from that of its primary copy: the mirror is lost (R370). -/
def loseUnreachable (pa : Nat) (s : State) : State :=
  match mirroredAt s pa with
  | none => s
  | some (_, frame, size) =>
    if reachable s (homePkg (homeOfPa frame)) (homePkg (homeOfPa (mirrorOf s frame))) then s else loseCopy frame size false s

/-! ### Page moves (25 R371 to R375) -/

/-- The refusal code of a move of the page of a leaf from a home; 0 for none (25 Table 25.1). -/
def moveCode (s : State) (home pte dest : Nat) : Nat :=
  if (s.home home).mv.isSome then 1
  else match (if pte % 8 = 0 then leafAt s pte else none) with
    | none => 2
    | some (e, size) =>
      if homeOfPa (servedFrame s e) ≠ home then 2
      else if dest % size ≠ 0 ∨ 2 ^ 56 ≤ dest ∨ !memAddressOk s dest ∨ !memAddressOk s (dest + size - 1) then 3
      else if homeOfPa dest = home then 4 else 0

/-- The move starts, or is refused with its STATUS (R371). -/
def startMove (home pte dest : Nat) (auto : Bool) (s : State) : State :=
  let code := moveCode s home pte dest
  match code, leafAt s pte with
  | 0, some (e, size) =>
    s.setHome home fun h =>
      { h with mvState := 1, mvStatus := 0, counts := h.counts.filter fun c => c.1 != pte
               mv := some { old := servedFrame s e, new := dest, size := size, pte := pte, auto := auto } }
  | _, _ => s.setHome home fun h => { h with mvStatus := code }

/-- PAGE_MOVE_START (R371): GO has been written. -/
def execPageMoveStart (home : Nat) (s : State) : Result :=
  let h := s.home home
  if !h.mvGo then .next s
  else .next (startMove home h.mvPte.toNat h.mvDest.toNat false (s.setHome home fun h => { h with mvGo := false }))

/-- How often a listed page's home has counted a source home (R375). -/
def useCount (h : Home) (leaf src : Nat) : Nat := ((h.counts.find? fun c => c.1 == leaf && c.2.1 == src).map (·.2.2)).getD 0

/-- A source home dominates the counts of a page: it was counted, and more often than any other (R375). -/
def dominates (h : Home) (leaf src : Nat) : Bool :=
  0 < useCount h leaf src && h.counts.all fun c => c.1 != leaf || c.2.1 == src || c.2.2 < useCount h leaf src

/-- AUTO_PAGE_MOVE (R375): a home moves a listed page to the home of its package that dominates the page's counts. -/
def execAutoPageMove (home : Nat) (entry : Nat) (s : State) : Result :=
  match (s.home home).movable[entry]? with
  | none => .next s
  | some (leaf, dest) =>
    if homePkg (homeOfPa dest) = homePkg home ∧ dominates (s.home home) leaf (homeOfPa dest) ∧ moveCode s home leaf dest = 0 then
      .next (startMove home leaf dest true s)
    else .next s

/-- The DEGRADED mark of a page that moves: gone at a home whose partner is reachable (R370). -/
def moveDegraded (s : State) (page : Nat) (m : PageMove) : List (Nat × Bool) :=
  let here (d : Nat × Bool) : Bool := page / 2 ^ 16 ≤ d.1 && d.1 < (page + m.size) / 2 ^ 16
  let rest := s.degraded.filter fun d => !here d
  if s.degraded.any here && !reachable s (homePkg (homeOfPa m.new)) (homePkg (partnerOf s (homeOfPa m.new))) then
    rest ++ (List.range (m.size / 2 ^ 16)).map fun i => (m.new / 2 ^ 16 + i, false)
  else rest

/-- The frames that a moving page is to stand at: its new one and, of a MIRROR page that leaves with two copies, the mirror of that
(R371). -/
def moveTargets (s : State) (m : PageMove) (e : Nat) : List Nat :=
  m.new :: if pteMirror e && !((moveDegraded s (leafPage e) m).any fun d => d.1 == m.new / 2 ^ 16) then [mirrorOf s m.new] else []

/-- PAGE_COPY (R372): in MOVING the next line that does not stand at a new frame passes there, whether it has not been copied yet or has been
written since, while a path leads there (R366). -/
def execPageCopy (home : Nat) (s : State) : Result :=
  match (s.home home).mv with
  | none => .next s
  | some m =>
    if m.cutover then .next s
    else match leafAt s m.pte with
      | none => .next s
      | some (e, _) =>
        match ((moveTargets s m e).filter fun f => delivers s home (homeOfPa f)).findSome? fun f => (lineLeft s m.old f m.size).map fun i => (f, i) with
        | none => .next s
        | some (f, i) => .next (copyFrameLine m.old f i s)

/-- What CUTOVER waits for: in-place accesses to the page that have begun, and copies of writes to it that its mirror has not taken (log
32). An access that has not begun is answered with REDIRECT. -/
def pageBusy (s : State) (m : PageMove) : Bool :=
  let in' (pa : Nat) : Bool := m.old ≤ pa && pa < m.old + m.size
  s.groups.any (fun g => g.accs.any fun a => !unbegun g a && a.lanes.any fun l => in' l.pa)
    || s.mirrors.any fun x => in' x.2.body.address || (let f := mirrorOf s m.old; f ≤ x.2.body.address && x.2.body.address < f + m.size)

/-- Every line of the page stands at each of its new frames, and a path leads there. -/
def moveCopied (s : State) (home : Nat) (m : PageMove) (e : Nat) : Bool :=
  (moveTargets s m e).all fun f => delivers s home (homeOfPa f) && (lineLeft s m.old f m.size).isNone

/-- CUTOVER of a move (R373): open runs close, the leaf names the new page, invalidations are performed, and from now on the old home
answers REDIRECT. -/
def cutOver (home : Nat) (m : PageMove) (e : Nat) (s : State) : State :=
  let s1 := closeRuns home (fun r => m.old ≤ r.pa && r.pa < m.old + m.size) s
  let s2 := renamePage m e { s1 with degraded := moveDegraded s1 (leafPage e) m }
  s2.setHome home fun h => { h with mvState := 2, mv := some { m with cutover := true } }

/-- CUTOVER (R373), once the new copy holds every write that the old home accepted (R372). -/
def execCutover (home : Nat) (s : State) : Result :=
  match (s.home home).mv with
  | none => .next s
  | some m =>
    if m.cutover || pageBusy s m then .next s
    else match leafAt s m.pte with
      | none => .next s
      | some (e, _) => .next (if moveCopied s home m e then cutOver home m e s else s)

/-- Something is still bound for the old frame. -/
def oldFrameNamed (s : State) (m : PageMove) : Bool :=
  let in' (pa : Nat) : Bool := m.old ≤ pa && pa < m.old + m.size
  s.packets.any (fun p => in' p.body.address)
    || s.groups.any fun g => g.mtx.any (fun o => o.dests.any fun d => in' d.pa) || g.accs.any fun a => a.lanes.any fun l => in' l.pa

/-- PAGE_MOVE_END (R371): the old home answers no more REDIRECTs; event 0x0A. -/
def execPageMoveEnd (home : Nat) (s : State) : Result :=
  match (s.home home).mv with
  | none => .next s
  | some m =>
    if m.cutover && !oldFrameNamed s m then
      .next (postEvent home 0x0A 0 0 m.pte 0 (s.setHome home fun h => { h with mv := none, mvState := 0, mvStatus := 0 }))
    else .next s

end Sys2Proof.Machine
end

