-- ==== Sys2Proof/Machine/Host.lean ====
section
/-! DEFINITION. The commands of the control page, and the completion of an invalidation (spec/12 R192, spec/13 R208, spec/21 R326,
R327, spec/23 R354 to R356, spec/26 R379, R380, R383, R385). -/

namespace Sys2Proof.Machine

/-! ### The command ring (R379, R380) -/

def cmdHead (s : State) (p : Nat) : Nat := s.pageN p 0x108 8
def cmdTail (s : State) (p : Nat) : Nat := s.pageN p 0x100 8

/-- Offset of the entry that the device takes next. -/
def cmdEntry (s : State) (p : Nat) : Nat := 0x1000 + 64 * (cmdHead s p % 256)

/-- CODE of that entry, and its arguments. -/
def cmdCode (s : State) (p : Nat) : Nat := s.pageN p (cmdEntry s p) 1
def cmdArg (s : State) (p k : Nat) : DWord := BitVec.ofNat 64 (s.pageN p (cmdEntry s p + 8 + 8 * k) 8)
def cmdArgs (s : State) (p : Nat) : CmdArgs :=
  { pkg := p, a0 := cmdArg s p 0, a1 := cmdArg s p 1, a2 := cmdArg s p 2, a3 := cmdArg s p 3, a4 := cmdArg s p 4,
    a5 := cmdArg s p 5, a6 := cmdArg s p 6 }

/-- A command stands to be taken: one at a time, in ring order. -/
def cmdPending (s : State) (p : Nat) : Bool :=
  (s.pkg p).present && cmdHead s p != cmdTail s p && !s.invals.any fun v => v.cmd == some p

/-- A command is over: STATUS, then CMDHEAD. -/
def finishCommand (p status : Nat) (s : State) : State :=
  (s.setPageN p (cmdEntry s p + 1) 1 status).setPageN p 0x108 8 ((cmdHead s p + 1) % 2 ^ 64)

/-- The command of some code with these arguments is the next one. -/
def commandNext (isCode : Nat → Bool) (c : CmdArgs) (s : State) : Bool :=
  cmdPending s c.pkg && isCode (cmdCode s c.pkg) && cmdArgs s c.pkg == c

/-- A command that is the next one is carried out: `k` gives its STATUS and effect. -/
def withCommand (isCode : Nat → Bool) (c : CmdArgs) (s : State) (k : State → Nat × State) : Result :=
  if commandNext isCode c s then .next (finishCommand c.pkg (k s).1 (k s).2) else .next s

/-- A home that an argument names: its number in the package (log 34). -/
def argHome (c : CmdArgs) : Option Nat := if c.a0.toNat < Config.homesPerPackage then some (c.pkg * 16 + c.a0.toNat) else none

/-- A run of physical addresses of memory of one home. -/
def memRun (s : State) (pa n : Nat) : Bool :=
  n = 0 || (memAddressOk s pa && memAddressOk s (pa + n - 1) && homeOfPa pa == homeOfPa (pa + n - 1) && paTier pa == paTier (pa + n - 1))

/-! ### Registration of queues (12 R192, 13 R208) -/

/-- A context descriptor that registration refuses (R208). Of ROOT and CRT only the alignment is looked at: one with bits [63:56] set is accepted,
and every walk and table entry under it fails (DESIGN CHOICE, log 117). -/
def contextBad (s : State) (ctx home : Nat) : Bool :=
  let n (o k : Nat) : Nat := s.mem.readN (ctx + o) k
  let log := n 0x14 1
  !memRun s ctx 64 || ctx % 64 != 0 || homeOfPa ctx != home || n 0x15 11 != 0 || n 0x28 24 != 0 || n 0 8 % 2 ^ 13 != 0
    || n 8 8 % 32 != 0 || n 0x10 2 == 0 || 4096 < n 0x10 2 || (log != 0 && (log < 16 || 36 < log))
    || (n 0x12 2 == 0 && log != 0) || n 0x20 8 % 2 ^ log != 0 || 2 ^ 56 < n 0x20 8 + 192 * n 0x12 2 * 2 ^ log

/-- Every slot of a queue translates to tier 0 or 1 of the serving home, with W = 1 (R192); the rest of a malformed header is found at
the first wake (R193), so that the slots of one with LOGSZ above 16 are those of the longest ring (log 103). -/
def ringOk (s : State) (home ctx hdr : Nat) : Bool :=
  let ring := s.mem.readN (hdr + 0x10) 8
  let bytes := 128 * 2 ^ min 16 (queueLog s hdr)
  ring + bytes ≤ 2 ^ 56 && (List.range ((ring % 2 ^ 16 + bytes + 2 ^ 16 - 1) / 2 ^ 16)).all fun i =>
    match cardLeaf s home ctx .write (max ring (ring / 2 ^ 16 * 2 ^ 16 + 2 ^ 16 * i)) with
    | some pa => homeOfPa pa == home
    | none => false

/-- The overflow region that a REGQ gives is one that its home may take (R380, 13 R228). -/
def overflowOk (s : State) (home : Nat) (c : CmdArgs) : Bool :=
  c.a4 == 0 || (memRun s c.a3.toNat c.a4.toNat && paTier c.a3.toNat == 1 && homeOfPa c.a3.toNat == home
    && (match (s.home home).overflow with
      | none => true
      | some r => r == (c.a3.toNat, c.a4.toNat)))

/-- Port and QPN of a SEND binding. -/
def bindPort (c : CmdArgs) : Nat := bits c.a5.toNat 17 16
def bindQpn (c : CmdArgs) : Nat := bits c.a5.toNat 15 0
def binds (c : CmdArgs) : Bool := c.a5.getLsbD 31

/-- The lowest queue number that no open queue of a home has. -/
def freeQueue (s : State) (home hdr : Nat) : Option Nat :=
  let qs := (s.home home).queues.filter fun q => q.open_ && q.hdr != hdr
  firstFrom (fun i => !qs.any fun q => q.id == i) 16 0

/-- A queue pair is bound to a queue; one that is new is created with the queue's context and an rkey, and keeps both (R377, log 35). -/
def bindQueue (c : CmdArgs) (s : State) : State :=
  if !binds c then s
  else s.spend.setPkg c.pkg fun k =>
    let same (q : QueuePair) : Bool := q.port == bindPort c && q.qpn == bindQpn c
    let old := (k.qps.find? same).getD { port := bindPort c, qpn := bindQpn c, rkey := Config.queueRkey s.free }
    { k with qps := k.qps.filter (fun q => !same q) ++ [{ old with queue := some c.a0.toNat, ctx := old.ctx.orElse fun _ => some c.a1.toNat }] }

/-- The queue is registered with QERR 0, and its number goes into A6; the dealer wakes (12 R193). TRAPVEC has 56 bits and a word
address (23 Table 23.2). -/
def registerQueue (home id : Nat) (c : CmdArgs) (s : State) : State :=
  let hdr := c.a0.toNat
  let q : JobQueue :=
    { id := id, hdr := hdr, ctx := c.a1.toNat, trapvec := c.a2 &&& 0x00FFFFFFFFFFFFFC, qpn := if binds c then some (bindQpn c) else none,
      seen := s.mem.readN (hdr + 8) 8 }
  let s1 := (storeN s (hdr + 0x1C) 4 0).setHome home fun h =>
    { h with queues := (h.queues.filter fun x => x.hdr != hdr && !(x.id == id && !x.open_)) ++ [seeQueue s home q]
             overflow := if c.a4 = 0 then h.overflow else some (c.a3.toNat, c.a4.toNat) }
  (bindQueue c s1).setPageN c.pkg (cmdEntry s c.pkg + 0x38) 8 id

/-- REGQ at a home that drains, is drained, is updated or failed, or before the boot image's queue, is refused for the state
(R382, R385). -/
def takesQueues (s : State) (home : Nat) : Bool :=
  ((s.home home).st == .ready || (s.home home).st == .down) && 1 ≤ (Cells.get {} (s.pkg (homePkg home)).dies 0 : Die).stage

/-- REGQ (R380). -/
def execRegq (c : CmdArgs) (s : State) : Result :=
  withCommand (· == 0x01) c s fun s =>
    let hdr := c.a0.toNat
    let home := homeOfPa hdr
    if !memRun s hdr 64 || homePkg home != c.pkg || contextBad s c.a1.toNat home || !ringOk s home c.a1.toNat hdr
        || !overflowOk s home c || (binds c && (bindQpn c == 2 || 4096 ≤ bindQpn c)) then (2, s)
    else if !takesQueues s home then (3, s)
    else match freeQueue s home hdr with
      | none => (3, s)
      | some id => (1, registerQueue home id c s)

/-- The home that serves an open queue with a header. -/
def queueHome (s : State) (p hdr : Nat) : Option (Nat × JobQueue) :=
  (packageHomes p).findSome? fun h => ((s.home h).queues.find? fun q => q.open_ && q.hdr == hdr).map fun q => (h, q)

/-- UNREGQ (R380). -/
def execUnregq (c : CmdArgs) (s : State) : Result :=
  withCommand (· == 0x02) c s fun s =>
    match queueHome s c.pkg c.a0.toNat with
    | none => (2, s)
    | some (h, q) =>
      let s1 := s.setHome h fun x => { x with queues := x.queues.filter fun y => y.hdr != q.hdr }
      (1, s1.setPkg c.pkg fun k => { k with qps := k.qps.map fun p => if p.queue == some q.hdr then { p with queue := none } else p })

/-! ### Pre-emption, resumption, kill (23 R356, 21 R326, R327, R328) -/

/-- PREEMPT (R380, R356): an identity that names nothing has no effect. -/
def execPreemptCommand (c : CmdArgs) (s : State) : Result :=
  withCommand (· == 0x03) c s fun s =>
    if 2 < c.a0.toNat then (2, s)
    else (1, requestStop (namedBy s c.pkg c.a0.toNat c.a1 (some c.a1.toNat)) s)

/-- A saved split of a roaming group goes on: for admission at its recorded home, unless it waits at a seam or is parked by the
spin detector (R326, R327). One that the detector stopped in place waits again once it has a place, and one that a halted handler
suspends stays suspended (23 R350). -/
def resumeSplit (sp : Split) : Split :=
  let sp1 := { sp with stopped := false, safe := 0, resgen := sp.resgen + 1, lastPart := none, lastLoad := {} }
  if sp.status == .atSeam || sp.status == .suspended then sp1
  else match sp.watch with
    | some w => if (watchHome w).isSome then sp1 else { sp1 with status := .transit }
    | none => { sp1 with status := .transit, wait := none, woken := false }

/-- The jacket of a saved split, which lies at its group's base home, is to be sent to the home recorded for it (R326); it leaves there once that
has room for it (13 R228). -/
def sendSaved (base : Nat) (sp : Split) : Split := if sp.home = base then sp else { sp with move := some sp.home, sent := some (base, 0) }

/-- A saved split of an anchored group waits for a place with the whole group (R326). -/
def resumeAnchored (sp : Split) : Split :=
  let sp1 := { sp with safe := 0, resgen := sp.resgen + 1 }
  if sp.wait.isSome then { sp1 with status := .runnable, wait := none, woken := false } else sp1

/-- The focused saved group resumes; a seam that was completed meanwhile rejoins (21 R328). -/
def resumeGroup (s : State) : State :=
  if anchored s s.g then completeSeams { s with g := Group.mapSplits resumeAnchored { s.g with life := .live } }
  else
    let s1 := { s with g := Group.mapSplits (fun sp => sendSaved s.g.baseHome (resumeSplit sp)) { s.g with life := .live } }
    let ids := (s1.g.splits.filter fun sp => sp.sent.isNone && (sp.status == .transit || sp.status == .suspended)).map fun sp =>
      (sp.home, levelOf s1.g sp, sp.idx)
    completeSeams (ids.foldl (fun s x => enqueue x.1 x.2.1 (.split s.g.gid x.2.2) s) s1)

/-- The groups that resume together with a group: the saved members of its team when it holds a lease. -/
def resumeWith (s : State) (g : Group) : List Word :=
  if (leaseOf s g).isSome then (s.groups.filter fun x => x.life == .saved && x.team == g.team).map (·.gid) else [g.gid]

/-- Some saved groups resume; anchored ones enter the queue as one item for each team with a lease, or one for each group. -/
def resumeGroups (gids : List Word) (s : State) : State :=
  let s1 := gids.foldl (fun s i => match focusGroup i s with
    | some t => if t.g.life == .saved then resumeGroup t else t
    | none => s) s
  match s1.groups.find? fun g => gids.contains g.gid && g.life == .live with
  | some g => if anchored s1 g then enqueue g.sp.home g.prio (.groups gids) s1 else s1
  | none => s1

/-- RESUME (R380, R326): refused for the state when nothing that is named is saved. -/
def execResume (c : CmdArgs) (s : State) : Result :=
  withCommand (· == 0x04) c s fun s =>
    if 1 < c.a0.toNat then (2, s)
    else
      let named := s.groups.filter fun g => namedBy s c.pkg c.a0.toNat c.a1 none g && (g.life == .live || g.life == .ending || g.life == .saved)
      let saved := named.filter fun g => g.life == .saved
      if named.isEmpty then (2, s)
      else if saved.isEmpty then (3, s)
      else (1, saved.foldl (fun s g =>
        if s.groups.any fun x => x.life == .saved && x.gid == g.gid then resumeGroups (resumeWith s g) s else s) s)

/-- KILL (R380, R160): a saved group retires without being resumed (21 R328). -/
def execKill (c : CmdArgs) (s : State) : Result :=
  withCommand (· == 0x05) c s fun s =>
    if 2 < c.a0.toNat then (2, s)
    else
      let live (g : Group) : Bool := g.life == .live || g.life == .ending || g.life == .saved
      let gids := (s.groups.filter fun g => live g && namedBy s c.pkg c.a0.toNat c.a1 (some c.a1.toNat) g).map (·.gid)
      (1, gids.foldl (fun s i => match focusGroup i s with
        | some t => killGroup t
        | none => s) s)

/-! ### REPLAY (R380, 22 R341, R346) -/

/-- The groups of a card form one launch team. -/
def oneTeam (b : List Byte) : Bool :=
  let n := cardN b 0x18 4 * cardN b 0x1C 2
  !cardGang b && !cardDiag b && n != 0 && n ≤ cardN b 0x1E 2

/-- A reader in a context at a home. -/
def readerAt (home ctx : Nat) (s : State) : State := { s with g := { ctx := ctx, sp := { home := home } } }

/-- The log and the regions of its slots, which the choice of a record reads, with each poisoned line repaired that has a sound mirror; none
while the choice waits for a mirror (25 R369). -/
def readLog (home ctx log : Nat) (s : State) : Option State :=
  match spans .read (readerAt home ctx s) log 192 with
  | .error _ => some s
  | .ok xs =>
    if spansAwaited s xs then none
    else
      let t := closeSpans xs (repairSpans xs s)
      let ys := slotSpans (readerAt home ctx t) (spanBytes t xs) 0 ++ slotSpans (readerAt home ctx t) (spanBytes t xs) 1
      if spansAwaited t ys then none else some (closeSpans ys (repairSpans ys t))

/-- SEQ, RPC and RJKT of the record that recovery selects from a log, read in a queue's context (22 R346). -/
def selectedRecord (s : State) (home ctx : Nat) (log : Nat) : Option (DWord × DWord × DWord) :=
  let s1 := readerAt home ctx s
  if log % 256 ≠ 0 ∨ 2 ^ 56 ≤ log then none
  else match spans .read s1 log 192 with
    | .error _ => none
    | .ok xs =>
      if (poisonedIn s1 xs).isSome then none
      else
        let bs := spanBytes s1 xs
        match chosenSlot s1 bs with
        | .ok (some k) =>
          if slotN bs k 0 8 = 0 then none
          else some (BitVec.ofNat 64 (slotN bs k 0 8), BitVec.ofNat 64 (slotN bs k 0x18 8), BitVec.ofNat 64 (slotN bs k 0x20 8))
        | _ => none

/-- STATUS and effect of REPLAY for the card in a slot of a queue, once the record has been read. -/
def replayCard (c : CmdArgs) (home : Nat) (q : JobQueue) (slot pte : Nat) (s : State) : Nat × State :=
  let b := slotNow s slot
  if cardCode s home q.ctx q.boot b ≠ 0 ∨ !oneTeam b then (2, s)
  else match selectedRecord s home q.ctx c.a2.toNat with
    | none => (2, s)
    | some r =>
      if cardsFull s home then (3, s)
      else
        let card := { cardOf s home q slot pte 0 b with replay := some r }
        (1, deviceStore pte (slot + 6) 2 0 { s with cards := s.cards ++ [card], fresh := s.fresh + 1, free := s.free + 1 })

/-- STATUS and effect of REPLAY; none while it waits for a mirror. -/
def replay (c : CmdArgs) (s : State) : Option (Nat × State) :=
  match queueHome s c.pkg c.a0.toNat with
  | none => some (2, s)
  | some (home, q) =>
    match (if c.a1.toNat % 128 = 0 then cardSpot s home q.ctx .read c.a1.toNat else none) with
    | none => some (2, s)
    | some (slot, pte) => (readLog home q.ctx c.a2.toNat s).map (replayCard c home q slot pte)

/-- REPLAY: the card is entered again with the recovery point of its team. -/
def execReplay (c : CmdArgs) (s : State) : Result :=
  if commandNext (· == 0x06) c s then
    match replay c s with
    | none => .next s
    | some r => .next (finishCommand c.pkg r.1 r.2)
  else .next s

/-! ### DRAIN, UPDATE, RETURN (R385, R386) -/

/-- DRAIN: undealt ranges and chunks that wait for admission pass elsewhere. -/
def execDrain (c : CmdArgs) (s : State) : Result :=
  withCommand (· == 0x07) c s fun s =>
    match argHome c with
    | none => (2, s)
    | some h =>
      if (s.home h).st != .ready || (s.home h).queues.any (·.open_) then (3, s)
      else (1, passChunks h (passRanges (setHomeState h 3 .draining s)))

/-- Nothing is left at a draining home (26 Table 26.5). -/
def homeEmpty (s : State) (h : Nat) : Bool :=
  let here (g : Group) : Bool := g.baseHome == h || g.splits.any (fun sp => sp.home == h || jacketHome sp == h) || (match g.team with
    | some r => homeOfPa r == h
    | none => false)
  !(s.groups.any fun g => g.life != .vacant && here g) && (s.home h).records.isEmpty

/-- Traffic for a home is held back from now on, or no more (R386). -/
def holdTraffic (x : Bool) (home : Nat) (s : State) : State := s.setHome home fun h => { h with held := x }

/-- HOME_DRAINED (R385): 3 to 4. -/
def execHomeDrained (home : Nat) (s : State) : Result :=
  if (s.home home).st == .draining && homeEmpty s home then .next (holdTraffic true home (setHomeState home 4 .drained s)) else .next s

/-- The repair table of a core is built afresh by the march test of an update (08 R140, R142). -/
def retestCore (core : Nat) (c : Core) : Core :=
  let x := loadRepair (appendTileRows core { clearDiagnostic c with scratch := [], cells := [], poison := [] })
  { x with status := 0x80000000 }

/-- The march test of an update on every core of a home: FAILCORES, and event 0x06 for a core that failed. -/
def retestHome (h : Nat) (s : State) : State :=
  (homeCores h).foldl (fun s c =>
    let s1 := s.setCore c (retestCore c)
    let s2 := setPageBit (homePkg h) (0x18 + 8 * (h % 16)) 8 (c % 64) (coreFailed (s1.core c)) s1
    if coreFailed (s1.core c) then postEvent h 0x06 0 0 (c * 4 % 4096) 0 s2 else s2) s

/-- Pages whose mirror lies at a home become DEGRADED (R386). -/
def degradeMirrors (h : Nat) (s : State) : State :=
  ((mirroredPages s).filter fun x => homeOfPa (mirrorOf s x.1) == h && homeOfPa x.1 != h).foldl (fun s x => degradePage [h] x s) s

/-- UPDATE: a bad signature leaves the home drained, a failed calibration fails it. -/
def execUpdate (c : CmdArgs) (signatureOk calibrationOk : Bool) (s : State) : Result :=
  withCommand (· == 0x08) c s fun s =>
    match argHome c with
    | none => (2, s)
    | some h =>
      if (s.home h).st != .drained then (3, s)
      else if !memRun s c.a1.toNat c.a2.toNat then (2, s)
      else
        let s1 := setHomeState h 5 .updating s
        if !signatureOk then (2, setHomeState h 4 .drained s1)
        else
          let s2 := degradeMirrors h s1
          if !calibrationOk then (1, setHomeState h 6 .failed s2)
          else (1, setHomeState h 4 .drained (retestHome h s2))

/-- RETURN. -/
def execHomeReturn (c : CmdArgs) (s : State) : Result :=
  withCommand (· == 0x09) c s fun s =>
    match argHome c with
    | none => (2, s)
    | some h => if (s.home h).st != .drained then (3, s) else (1, passRanges (holdTraffic false h (setHomeState h 2 .ready s)))

/-! ### ROUTE, MOVLIST, HWIN (25 R363, R375, 26 R380) -/

/-- The packages of the scale-up domain. -/
def domain (s : State) : List Nat := (List.range 16).filter s.inDomain

/-- An entry of a route table links its package directly. -/
def entryDirect (e : Nat) : Bool := bits e 23 23 == 1 && bits e 14 0 != 0

/-- A route table gives every other package a direct link, and a detour peer to which both have one where the domain has a
third package (25 R363). The peer's side is checked once its own table is set (log 36). -/
def routeOk (s : State) (p : Nat) (t : List Nat) : Bool :=
  let others := (domain s).filter fun d => d != p
  let entry (d : Nat) : Nat := (t[d]?).getD 0
  others.all fun d =>
    let x := bits (entry d) 19 16
    entryDirect (entry d) && (others.length < 2 || (x != p && x != d && s.inDomain x && entryDirect (entry x)
      && ((s.pkg x).routes.isEmpty || entryDirect (Cells.get 0 (s.pkg x).routes d).toNat)))

/-- ROUTE. -/
def execRoute (c : CmdArgs) (s : State) : Result :=
  withCommand (· == 0x0A) c s fun s =>
    let t := (List.range 16).map fun d => s.mem.readN (c.a0.toNat + 8 * d) 8
    if !memRun s c.a0.toNat 128 || !routeOk s c.pkg t then (2, s)
    else (1, (closeSpan c.a0.toNat 128 s).setPkg c.pkg fun k => { k with routes := Cells.setMany 0 [] 0 (t.map (BitVec.ofNat 64)) })

/-- MOVLIST: a new table, whose pages have no counts yet. -/
def execMovlist (c : CmdArgs) (s : State) : Result :=
  withCommand (· == 0x0B) c s fun s =>
    match argHome c with
    | none => (2, s)
    | some h =>
      let n := c.a2.toNat
      if 256 < n ∨ !memRun s c.a1.toNat (16 * n) then (2, s)
      else (1, (closeSpan c.a1.toNat (16 * n) s).setHome h fun x => { x with counts := [], movable := (List.range n).map fun i =>
        (s.mem.readN (c.a1.toNat + 16 * i) 8, s.mem.readN (c.a1.toNat + 16 * i + 8) 8) })

/-- HWIN. -/
def execHwin (c : CmdArgs) (s : State) : Result :=
  withCommand (· == 0x0C) c s fun s =>
    match argHome c with
    | none => (2, s)
    | some h =>
      let w : HostWindow :=
        { home := h, window := c.a1.toNat, base := c.a2.toNat, len := c.a3.toNat, remote := c.a4, rkey := c.a5.setWidth 32,
          qpn := bits c.a5.toNat 55 32, port := bits c.a5.toNat 57 56 }
      if 64 ≤ w.window ∨ w.len % 2 ^ 16 ≠ 0 ∨ 2 ^ 44 < w.base + w.len then (2, s)
      else (1, s.setPkg c.pkg fun k =>
        { k with windows := (k.windows.filter fun x => !(x.home == h && x.window == w.window)) ++ (if w.len = 0 then [] else [w]) })

/-! ### ATTEST (R383) -/

/-- The package seed. -/
def packageSeed (p : Nat) : List Byte := Config.shake256 ((List.range 6).flatMap (Config.dieSecret p)) 32

/-- A byte string of a given length. -/
def exactly (n : Nat) (bs : List Byte) : List Byte := (List.range n).map fun i => (bs[i]?).getD 0

/-- The identity exists: every die corrected its secret, and none is off. -/
def hasIdentity (s : State) (p : Nat) : Bool := (List.range 6).all fun d => (Cells.get {} (s.pkg p).dies d : Die).identity

/-- The bytes that a report is signed over. -/
def reportHead (s : State) (p : Nat) (nonce : List Byte) : List Byte :=
  let page (o n : Nat) : List Byte := Cells.getMany 0 (s.pkg p).page o n
  nonce ++ page 0xA0 32 ++ page 0xC0 64 ++ page 8 8
    ++ ((List.range 12).map fun h => BitVec.ofNat 8 (popNat 64 (s.pageN p (0x18 + 8 * h) 8))) ++ page 7 1 ++ leBytes 11 0

/-- ATTEST: the report of 3,469 bytes. -/
def execAttest (c : CmdArgs) (s : State) : Result :=
  withCommand (· == 0x0D) c s fun s =>
    if !memRun s c.a0.toNat 32 || !memRun s c.a1.toNat 3469 then (2, s)
    else if !hasIdentity s c.pkg then (3, s)
    else
      let head := reportHead s c.pkg (Cells.getMany 0 s.mem c.a0.toNat 32)
      (1, storeBytes (closeSpan c.a0.toNat 32 s) (bytesAt c.a1.toNat (head ++ exactly 3309 (Config.signature (packageSeed c.pkg) head))))

/-! ### MOVE, PARTNER (25 R371, R367) -/

/-- MOVE. -/
def execMove (c : CmdArgs) (s : State) : Result :=
  withCommand (· == 0x0E) c s fun s =>
    match (if c.a0.toNat % 8 = 0 then leafAt s c.a0.toNat else none) with
    | none => (2, s)
    | some (e, _) =>
      let h := homeOfPa (servedFrame s e)
      let code := moveCode s h c.a0.toNat c.a1.toNat
      let s1 := s.setHome h fun x => { x with mvPte := c.a0, mvDest := c.a1 }
      (if code = 0 then 1 else if code = 1 then 3 else 2, startMove h c.a0.toNat c.a1.toNat false s1)

/-- PARTNER. -/
def execPartner (c : CmdArgs) (s : State) : Result :=
  withCommand (· == 0x0F) c s fun s =>
    match argHome c with
    | none => (2, s)
    | some h => if partnerOk s h c.a1 then (1, s.setHome h fun x => { x with partner := some (c.a1.setWidth 8) }) else (2, s)

/-! ### TLBINV, ICINV (23 R354, R355) -/

/-- A command that waits for an invalidation: STATUS comes with its completion. Home 0 of its package translates (log 37). -/
def invalidateCommand (code unit : Nat) (icache : Bool) (c : CmdArgs) (s : State) : Result :=
  if commandNext (· == code) c s then
    if !memRun s c.a0.toNat 64 || c.a0.toNat % 64 != 0 || 2 ^ 56 ≤ c.a1.toNat then .next (finishCommand c.pkg 2 s)
    else
      let r := unitRange c.a1.toNat unit c.a2.toNat
      let v : Inval := { id := 0, icache := icache, ctx := some c.a0.toNat, lo := r.1, hi := r.2,
                         home := c.pkg * 16, cmd := some c.pkg }
      .next (s.invalidate v)
  else .next s

def execTlbinvCommand (c : CmdArgs) (s : State) : Result := invalidateCommand 0x10 (2 ^ 16) false c s
def execIcinvCommand (c : CmdArgs) (s : State) : Result := invalidateCommand 0x11 64 true c s

/-- INVALIDATION_COMPLETE (R354, R355): every unit of the domain has discarded what a request names, once it has reached
each (25 R366); the split or command that waits for it is over. -/
def execInvalidationComplete (req : Nat) (s : State) : Result :=
  match s.invals.find? fun v => v.id == req with
  | none => .next s
  | some v =>
    if !allReached s v.home then .next s
    else
    let s1 := { s with invals := s.invals.filter fun x => x.id != req }
    let s2 := if v.icache then dropLines v.ctx v.lo v.hi s1 else dropTranslations v.ctx v.lo v.hi s1
    let s3 := s2.mapGroups (wakeInval req)
    .next (match v.cmd with
      | some p => finishCommand p 1 s3
      | none => s3)

/-- UNKNOWN_COMMAND (R380): any other CODE is refused. -/
def execUnknownCommand (c : CmdArgs) (s : State) : Result :=
  withCommand (fun k => k = 0 || 0x11 < k) c s fun s => (2, s)

end Sys2Proof.Machine
end

