-- ==== Sys2Proof/Machine/Rdma.lean ====
section
/-! DEFINITION. Requests of the host at the Ethernet ports and their steps at the homes (spec/14 R231, R243, spec/26 R377 to R379,
R386). -/

namespace Sys2Proof.Machine

/-- A port of a package takes requests: it is up (26 R382). -/
def portUp (s : State) (q : QpId) : Bool := (s.pkg q.pkg).present && q.port < 4 && (s.pkg q.pkg).ports.getLsbD q.port

/-- The port answers. -/
def reply (q : QpId) (a : Answer) (s : State) : State :=
  s.setPkg q.pkg fun k => { k with answers := k.answers ++ [(q.port, q.qpn, a)] }

/-- The queue pair of a request. -/
def qpOf (s : State) (q : QpId) : Option QueuePair := (s.pkg q.pkg).qps.find? fun x => x.port == q.port && x.qpn == q.qpn

/-- A request reaches its port: `mgmt` for the management queue pair, `k` for another, with its context. One on a queue pair
that does not exist is outside the subset (R377). -/
def withQp (q : QpId) (s : State) (mgmt : Result) (k : Nat → Result) : Result :=
  if !portUp s q then .next s
  else if q.qpn = 2 then mgmt
  else match (qpOf s q).bind (·.ctx) with
    | none => .next (reply q .invalidRequest s)
    | some ctx => k ctx

/-! ### Checks of a user access (R378) -/

/-- Every byte of a run of one page exists: of tier 2, each lies in a host window (R378). -/
def spanMapped (s : State) (pa n : Nat) : Bool := paTier pa != 2 || (List.range n).all fun i => inHostWindow s (pa + i)

/-- The physical addresses and leaves of the pages of a run of n bytes: none when a check fails. -/
def userSpans (need : Need) (s : State) (home ctx : Nat) : Nat → Nat → Nat → Option (List Span)
  | 0, _, _ => some []
  | fuel + 1, va, n =>
    if n = 0 then some []
    else if 2 ^ 56 ≤ va then none
    else match resolve s home ctx false false need va with
      | .error _ => none
      | .ok (pa, pte) =>
        let k := min n (2 ^ 16 - va % 2 ^ 16)
        if !spanMapped s pa k then none
        else (userSpans need s home ctx fuel (va + k) (n - k)).map ({ va := va, pa := pa, pte := pte, n := k } :: ·)

/-- The serving home of a port: home 0 of its package translates (log 37). -/
def userRun (need : Need) (s : State) (q : QpId) (ctx va n : Nat) : Option (List Span) :=
  userSpans need s (q.pkg * 16) ctx (n / 2 ^ 16 + 2) va n

/-- A home of the run holds host traffic back (R386). -/
def heldBack (s : State) (xs : List Span) : Bool := xs.any fun x => !takesTraffic s (homeOfPa x.pa)

/-! ### Pending requests (14 R231, R243) -/

/-- The steps of a run of n bytes that a leaf maps to `pa`, the first of them byte `a` of its request: one for each line. -/
def lineSteps (pte : Nat) : Nat → Nat → Nat → Nat → List HostLine
  | 0, _, _, _ => []
  | fuel + 1, a, pa, n =>
    if n = 0 then []
    else
      let k := min n (64 - pa % 64)
      { at_ := a, pa := pa, pte := pte, n := k } :: lineSteps pte fuel (a + k) (pa + k) (n - k)

/-- The steps of every page of a run. -/
def spanSteps : Nat → List Span → List HostLine
  | _, [] => []
  | a, x :: xs => lineSteps x.pte (x.n / 64 + 2) a x.pa x.n ++ spanSteps (a + x.n) xs

/-- The steps of a write: each carries its bytes. -/
def withBytes (bs : List Byte) (ls : List HostLine) : List HostLine := ls.map fun l => { l with bytes := (bs.drop l.at_).take l.n }

/-- The port accepts a request: its steps follow. -/
def acceptRequest (q : QpId) (op : HostOp) (ls : List HostLine) (s : State) : State :=
  { s.setPkg q.pkg (fun k => { k with reqs := k.reqs ++ [{ id := s.fresh, port := q.port, qpn := q.qpn, op := op, lines := ls }] }) with
    fresh := s.fresh + 1 }

/-- The request writes memory as a WRITE or SEND does, so that later requests of its queue pair wait for it (R243, log 104). -/
def HostOp.writes : HostOp → Bool
  | .write | .send .. => true
  | _ => false

/-- An atomic: it is .ar at .sys scope, so that it comes after every earlier request of its queue pair and before every later one (R243). -/
def HostOp.orders : HostOp → Bool
  | .fetchAdd _ | .compareSwap .. => true
  | _ => false

/-- The home that a step of a request may be taken at: that of its queue for a SEND, else that of any step that is left. -/
def HostReq.at (r : HostReq) (home : Nat) : Bool := match r.op with
  | .send hdr _ _ => homeOfPa hdr == home
  | _ => r.lines.any fun l => homeOfPa l.pa == home

/-- Requests of the same queue pair that came before. -/
def earlierReqs (k : Pkg) (r : HostReq) : List HostReq := k.reqs.filter fun x => x.id < r.id && x.port == r.port && x.qpn == r.qpn

/-- The order of a queue pair lets a request take a step at a home: an atomic comes after everything before it, and everything after it;
writes to a home are accepted in order, and a read or send waits for every earlier write (R243). The SENDs of one queue place their
cards one after another. -/
def inTurn (k : Pkg) (home : Nat) (r : HostReq) : Bool :=
  let before := earlierReqs k r
  if before.any fun x => x.op.orders then false
  else match r.op with
  | .write => !before.any fun x => x.op.writes && x.at home
  | .send hdr _ none => !before.any (fun x => x.op.writes) && !k.reqs.any fun x => match x.op with
    | .send h _ (some _) => h == hdr
    | _ => false
  | .send _ _ (some _) => true
  | .read _ => !before.any fun x => x.op.writes
  | .fetchAdd _ | .compareSwap .. => before.isEmpty

/-- Changes a request. -/
def mapReq (p id : Nat) (f : HostReq → HostReq) (s : State) : State :=
  s.setPkg p fun k => { k with reqs := updateWhere (fun r => r.id == id) f k.reqs }

/-- The request is over, and its port answers. -/
def endRequest (p : Nat) (r : HostReq) (a : Answer) (s : State) : State :=
  reply { pkg := p, port := r.port, qpn := r.qpn } a (s.setPkg p fun k => { k with reqs := k.reqs.filter fun x => x.id != r.id })

/-- A step of a request as an access of its first byte. -/
def HostLine.access (l : HostLine) : LaneAccess := { lane := 0, va := 0, pa := l.pa, pte := l.pte }

/-- The n bytes that the host reads in one step: those of a poisoned line, which no mirror serves, are free values (22 R338, 25 R369, log
25). -/
def hostBytes (s : State) (l : HostLine) (n : Nat) : List Byte :=
  (List.range n).map fun i =>
    if paTier l.pa = 3 then deviceByte s (l.pa + i)
    else if linePoisoned s l.access then Config.poisonByte (s.free + l.pa + i) else s.byte (l.pa + i)

/-- The new value of an atomic's word (R378). -/
def HostOp.atomic (op : HostOp) (old : Nat) : Nat := match op with
  | .fetchAdd x => (old + x.toNat) % 2 ^ 64
  | .compareSwap cmp x => if old = cmp.toNat then x.toNat else old
  | _ => old

/-- One step of a request at its home, with the copy of what it writes (R231, 25 R368): a line of a write or of a SEND's payload, a line
of a read, or an atomic. A reader's line of which one copy is poisoned is repaired (25 R369). -/
def performLine (p : Nat) (r : HostReq) (l : HostLine) (s : State) : State :=
  let s1 := closeLine l.pa (mapReq p r.id (fun x => { x with lines := x.lines.erase l }) s)
  let s2 := repairLine l.access s1
  match r.op with
  | .write | .send .. => forward r.id none l.pa l.n l.pte (writePa s1 (bytesAt l.pa l.bytes))
  | .read _ => mapReq p r.id (fun x => { x with got := x.got.write l.at_ (hostBytes s2 l l.n) }) s2
  | op =>
    let old := leNat (hostBytes s2 l 8)
    homeWrite r.id none l.pte l.pa 8 (op.atomic old) (mapReq p r.id (fun x => { x with got := x.got.write 0 (leBytes 8 old) }) s2)

/-- A step that reads waits while its poisoned line awaits its mirror (25 R369). -/
def lineReady (r : HostReq) (l : HostLine) (s : State) : Bool := r.op.writes || !mirrorAwaited s l.access

/-- A SEND begins: it is refused when its queue is gone, full, or its slot cannot be written (26 R378). -/
def startSend (p : Nat) (r : HostReq) (hdr : Nat) (card : List Byte) (s : State) : State :=
  let home := homeOfPa hdr
  let s1 := closeLine hdr s
  let tail := s1.mem.readN hdr 8
  match (s1.home home).queues.find? fun q => q.hdr == hdr with
  | none => endRequest p r .invalidRequest s1
  | some jq =>
    if 2 ^ queueLog s1 hdr ≤ queueWaiting s1 hdr then endRequest p r .notReady s1
    else match cardSpot s1 home jq.ctx .write (queueSlotVa s1 hdr tail) with
      | none => endRequest p r .accessError s1
      | some (pa, pte) =>
        mapReq p r.id (fun x => { x with op := .send hdr card (some tail), lines := withBytes card (lineSteps pte 4 0 pa 128) }) s1

/-- A request whose steps are all accepted ends with its answer; a SEND posts its tail as a release, which makes the card visible. -/
def finishRequest (p : Nat) (r : HostReq) (s : State) : State :=
  match r.op with
  | .write => endRequest p r (.ack []) s
  | .read n => endRequest p r (.ack (Cells.getMany 0 r.got 0 n)) s
  | .send hdr _ (some n) => endRequest p r (.ack []) (storeN (closeLine hdr s) hdr 8 ((n + 1) % 2 ^ 64))
  | .send .. => s
  | _ => endRequest p r (.ack (Cells.getMany 0 r.got 0 8)) s

/-- The next step of a request at a home, or its end. One that comes to a home which has been drained is answered with an RNR NAK (R386). -/
def hostStep (pkg id home : Nat) (s : State) : State :=
  match (s.pkg pkg).reqs.find? fun r => r.id == id with
  | none => s
  | some r =>
    let go (h : Nat) (t : State) : State :=
      if !inTurn (s.pkg pkg) h r then s
      else if !takesTraffic s h then endRequest pkg r .notReady s
      else if reachable s pkg (homePkg h) then t else s
    match r.lines.find? fun l => homeOfPa l.pa == home with
    | some l => if lineReady r l s then go home (performLine pkg r l s).spend else s
    | none =>
      if !r.lines.isEmpty then s
      else match r.op with
      | .send hdr card none => go (homeOfPa hdr) (startSend pkg r hdr card s)
      | .send hdr _ (some _) => if stillPending s id then s else go (homeOfPa hdr) (finishRequest pkg r s)
      | _ => if stillPending s id then s else finishRequest pkg r s

/-! ### WRITE and READ -/

/-- The host may write some offsets of the control page: CMDTAIL, EVHEAD, the command ring (R379). -/
def hostMayWrite (va n : Nat) : Bool :=
  (0x100 ≤ va && va + n ≤ 0x108) || (0x118 ≤ va && va + n ≤ 0x120) || (0x1000 ≤ va && va + n ≤ 0x5000)

/-- A write on the management queue pair. -/
def pageWrite (q : QpId) (va : Nat) (bs : List Byte) (s : State) : State :=
  if hostMayWrite va bs.length then
    reply q (.ack []) (s.setPkg q.pkg fun k => { k with page := k.page.write va bs })
  else reply q .accessError s

/-- A request whose checks passed for a run: refused while a home of it holds host traffic back (R386), else accepted. -/
def takeRun (q : QpId) (xs : List Span) (op : HostOp) (ls : List HostLine) (s : State) : State :=
  if heldBack s xs then reply q .notReady s else acceptRequest q op ls s

/-- RDMA_WRITE: its lines are steps of their own. -/
def execRdmaWrite (qp : QpId) (va : Nat) (bytes : List Byte) (s : State) : Result :=
  withQp qp s (.next (pageWrite qp va bytes s)) fun ctx =>
    match userRun .write s qp ctx va bytes.length with
    | none => .next (reply qp .accessError s).spend
    | some xs => .next (takeRun qp xs .write (withBytes bytes (spanSteps 0 xs)) s).spend

/-- RDMA_READ: its lines are steps of their own. -/
def execRdmaRead (qp : QpId) (va : Nat) (len : Nat) (s : State) : Result :=
  withQp qp s
    (.next (reply qp (if va + len ≤ 0x10000 then .ack (Cells.getMany 0 (s.pkg qp.pkg).page va len) else .accessError) s)) fun ctx =>
    match userRun .read s qp ctx va len with
    | none => .next (reply qp .accessError s).spend
    | some xs => .next (takeRun qp xs (.read len) (spanSteps 0 xs) s).spend

/-! ### SEND -/

/-- RDMA_SEND: 128 bytes on a queue pair that is bound to a job queue place one card. -/
def execRdmaSend (qp : QpId) (bytes : List Byte) (s : State) : Result :=
  if !portUp s qp then .next s
  else match (qpOf s qp).bind (·.queue) with
    | none => .next (reply qp .invalidRequest s)
    | some hdr =>
      if bytes.length ≠ 128 || !(s.home (homeOfPa hdr)).queues.any fun q => q.hdr == hdr then .next (reply qp .invalidRequest s)
      else if !takesTraffic s (homeOfPa hdr) then .next (reply qp .notReady s)
      else .next (acceptRequest qp (.send hdr bytes none) [] s).spend

/-! ### Atomics (14 R243, R378) -/

/-- REFUSED of a port (26 Table 26.2). -/
def countRefused (q : QpId) (s : State) : State :=
  let o := 0x78 + 8 * q.port
  s.setPageN q.pkg o 8 ((s.pageN q.pkg o 8 + 1) % 2 ^ 64)

/-- A host atomic: the checks, then SYSATOM and alignment; an accepted one is one step of the home order. -/
def hostAtomic (q : QpId) (va : Nat) (op : HostOp) (s : State) : Result :=
  withQp q s (.next (reply q .accessError s)) fun ctx =>
    match userRun .write s q ctx va 1 with
    | none => .next (reply q .accessError s).spend
    | some [] => .next (reply q .accessError s).spend
    | some (x :: _) =>
      if heldBack s [x] then .next (reply q .notReady s).spend
      else if !pteSysAtom x.pte || va % 8 != 0 then .next (countRefused q (reply q .accessError s)).spend
      else .next (acceptRequest q op [{ at_ := 0, pa := x.pa, pte := x.pte, n := 8 }] s).spend

/-- ATOMIC_FETCH_ADD. -/
def execAtomicFetchAdd (qp : QpId) (va : Nat) (x : DWord) (s : State) : Result := hostAtomic qp va (.fetchAdd x) s

/-- ATOMIC_COMPARE_SWAP. -/
def execAtomicCompareSwap (qp : QpId) (va : Nat) (cmp x : DWord) (s : State) : Result := hostAtomic qp va (.compareSwap cmp x) s

/-- INVALID_REQUEST (R377): a request outside the subset performs nothing. -/
def execInvalidRequest (qp : QpId) (s : State) : Result :=
  .next (if portUp s qp then reply qp .invalidRequest s else s)

end Sys2Proof.Machine
end

