-- ==== Sys2Proof/Machine/Boot.lean ====
section
/-! DEFINITION. Bring-up, temperature, supply, clocks (spec/01 R12, spec/04 R81, spec/26 R382 to R384). -/

namespace Sys2Proof.Machine

/-! ### The control page at power-on (26 Table 26.2, 04 R81) -/

/-- A numeric behaviour record (04 Table 4.7): format, width, accumulator width, chunk, SUBIN, SUBOUT, INF, ACCRND, CNAN. -/
def numericRecord (fmt width accw chunk subin subout inf rnd cnan : Nat) : List Byte :=
  leBytes 8 (fmt + width * 2 ^ 8 + accw * 2 ^ 16 + chunk * 2 ^ 24 + subin * 2 ^ 32 + subout * 2 ^ 33 + inf * 2 ^ 34 + rnd * 2 ^ 36)
    ++ leBytes 8 cnan

/-- The eight records (04 Table 4.8). -/
def numericRecords : List Byte :=
  numericRecord 0 32 32 1 1 1 1 0 0x7FC00000 ++ numericRecord 1 16 32 16 1 1 1 0 0x7E00 ++ numericRecord 2 16 32 16 1 1 1 0 0x7FC0
    ++ numericRecord 3 8 32 32 1 1 0 0 0x7F ++ numericRecord 4 8 32 32 1 1 1 0 0x7E ++ numericRecord 5 8 0 0 0 0 0 15 0
    ++ numericRecord 6 8 32 32 0 0 0 15 0 ++ numericRecord 7 64 0 0 0 1 1 0 0x7FF8000000000000

/-- The control page of package p at power-on. -/
def freshPage (p : Nat) : Bytes :=
  Bytes.write (Bytes.write [] 0 (leBytes 4 0x00630059 ++ leBytes 2 0x0100 ++ leBytes 1 p)) 0x200 numericRecords

/-- The ports of a package that are not trained. -/
def idlePorts (s : State) (p : Nat) : List Nat := (List.range 15).filter fun k => !(Cells.get {} (s.pkg p).links k : Link).up

/-- A port faces a package of the same number: its link never trains, with event 0x07 (R382). -/
def twinEnd (p port : Nat) (s : State) : State :=
  postEvent (p * 16) 0x07 0 0 port 0 (s.setPkg p fun k => { k with twinPorts := addNew port k.twinPorts })

/-- A second package of the number of one in the domain: a link between the two, where there is one, never trains, and both ends say so
(R382, log 38). -/
def refuseTwin (p q : Nat) (s : State) : State :=
  let t := { s with free := s.free + 2 }
  let ports := idlePorts s p
  match Config.twinPort s.free with
  | none => t
  | some k => match ports[k % ports.length]? with
    | none => t
    | some a => twinEnd q (((Config.twinPort (s.free + 1)).getD 0) % 15) (twinEnd p a t)

/-- POWER_ON (R382): a package of the number on its slot pins joins. One of a number in use joins no domain; its control page stands beside
those of the domain, at the first number that is free among those 16 apart (log 38). -/
def execPowerOn (pins : BitVec 4) (s : State) : Result :=
  let p := pins.toNat
  let fresh (x : Bool) : Pkg := { present := x, pins := pins, page := freshPage p }
  if (s.pkg p).present then
    let q := p + 16 * (1 + (s.pkgs.filter fun e => 16 ≤ e.1 && e.1 % 16 = p).length)
    .next (refuseTwin p q (s.setPkg q fun _ => fresh false))
  else .next (s.setPkg p fun _ => fresh true)

/-! ### Stages of a die (26 Table 26.4) -/

def State.die (s : State) (p d : Nat) : Die := Cells.get {} (s.pkg p).dies d
def State.setDie (s : State) (p d : Nat) (f : Die → Die) : State := s.setPkg p fun k => { k with dies := Cells.set {} k.dies d (f (s.die p d)) }

/-- The die is in a stage of bring-up. -/
def inStage (s : State) (p d n : Nat) : Bool := (s.pkg p).present && d < 6 && !(s.die p d).failed && (s.die p d).stage == n

/-- Both homes of a die take a state. -/
def setDieHomes (p d code : Nat) (st : HomeState) (s : State) : State :=
  (dieHomes p d).foldl (fun s h => setHomeState h code st s) s

/-- The boot image's queue is registered at home 0, and its dealer wakes (R382, 12 R193, log 33). -/
def registerBoot (p : Nat) (image : List Byte) (s : State) : State :=
  let b := Config.bootQueue image
  let q : JobQueue :=
    { id := 0, hdr := b.1, ctx := b.2.1, trapvec := b.2.2 &&& 0x00FFFFFFFFFFFFFC, boot := true, seen := s.mem.readN (b.1 + 8) 8 }
  s.setHome (p * 16) fun h => { h with queues := h.queues.filter (fun q => !q.boot) ++ [seeQueue s (p * 16) q] }

/-- IDHASH: zero while no identity exists (R383). -/
def publishIdentity (p : Nat) (s : State) : State :=
  let hash := if hasIdentity s p then exactly 32 (Config.shake256 (Config.publicKey (packageSeed p)) 32) else leBytes 32 0
  s.setPkg p fun k => { k with page := k.page.write 0xA0 hash }

/-- A die has given its secret, or has not: IDFAIL and IDHASH follow (R383). -/
def noteIdentity (p d : Nat) (ok : Bool) (s : State) : State :=
  publishIdentity p (setPageBit p 7 1 d (!ok) (s.setDie p d fun x => { x with identity := ok }))

/-- BOOT_IMAGE_VERIFY (stage 0): a die whose image verifies is tested; another stays off. -/
def execBootImageVerify (pkg die : Nat) (ok : Bool) (image : List Byte) (s : State) : Result :=
  if !inStage s pkg die 0 then .next s
  else if ok then
    let s1 := setDieHomes pkg die 1 .down (s.setDie pkg die fun x => { x with stage := 1 })
    .next (if die = 0 then
      registerBoot pkg image (s1.setPkg pkg fun k => { k with page := k.page.write 0xC0 (exactly 64 (Config.shake256 image 64)) })
      else s1)
  else .next (noteIdentity pkg die false (setDieHomes pkg die 6 .failed (s.setDie pkg die fun x => { x with failed := true })))

/-- DIE_IDENTITY (stage 1, R383): a die corrects its secret, or fails to. -/
def execDieIdentity (pkg die : Nat) (ok : Bool) (s : State) : Result :=
  if !inStage s pkg die 1 then .next s else .next (noteIdentity pkg die ok (s.setDie pkg die fun x => { x with stage := 2 }))

/-- Stage 2 of a die is over: the boot image's queue has been registered and its diagnostic card has run on every core of the
die's homes (R382, 08 R136). -/
def diagnosed (s : State) (p d : Nat) : Bool :=
  let hs := dieHomes p d
  let waits := (s.home (p * 16)).queues.any (·.boot) && !s.cards.any fun c => c.diag && homePkg c.home == p
  (1 ≤ (s.die p 0).stage || (s.die p 0).failed) && !waits
    && !(s.cards.any fun c => c.diag && c.ranges.any fun r => hs.contains r.owner && !r.recs.isEmpty)
    && !s.groups.any fun g => g.life != .vacant && g.diag && hs.contains g.baseHome

/-- CALIBRATION (stage 3). -/
def execCalibration (pkg die : Nat) (ok : Bool) (s : State) : Result :=
  if !inStage s pkg die 2 || !diagnosed s pkg die then .next s
  else if ok then .next (s.setDie pkg die fun x => { x with stage := 3 })
  else .next (setDieHomes pkg die 6 .failed (s.setDie pkg die fun x => { x with stage := 3 }))

/-- HOME_READY (stage 4): a home with a sound core reports ready, another fails. -/
def execHomeReady (home : Nat) (s : State) : Result :=
  if !inStage s (homePkg home) (homeDie home) 3 || (s.home home).st != .down || Config.homesPerPackage ≤ home % 16 then .next s
  else if (homeCores home).all (coreMarked s) then .next (setHomeState home 6 .failed s)
  else .next (passRanges (holdTraffic false home (setHomeState home 2 .ready s)))

/-! ### Temperature and supply (R384) -/

/-- TEMPERATURE_CHANGE: STEMP, and HOT with its event. -/
def execTemperatureChange (home : Nat) (celsius : Nat) (s : State) : Result :=
  let h := s.home home
  let hot := if 85 < celsius then true else if celsius < 80 then false else h.hot
  let s1 := s.setHome home fun x => { x with hot := hot, stemp := BitVec.ofNat 8 celsius }
  let w := s.pageN (homePkg home) 8 8
  .next (if hot = h.hot then s1
         else postEvent home 0x05 0 0 w (w / 2 ^ (4 * (home % 16)) % 16 + flag hot 4) s1)

/-- SUPPLY_DROOP: DROOPS of the die's homes. -/
def execSupplyDroop (pkg die : Nat) (s : State) : Result :=
  .next ((dieHomes pkg die).foldl (fun s h => s.setHome h fun x => { x with droops := x.droops + 1 }) s)

/-- CLOCK_INCREMENT (01 R12). -/
def execClockIncrement (pkg die : Nat) (s : State) : Result := .next (s.setDie pkg die fun x => { x with clock := x.clock + 1 })

end Sys2Proof.Machine
end

