-- ==== Sys2Proof/Machine/CrossLane.lean ====
section
/-! DEFINITION. Cross-lane instructions (spec/11 R185 to R189). A lane outside Active() is never read. -/

namespace Sys2Proof.Machine

/-! ### Shuffles (R186) -/

/-- A shuffle: each lane takes the value of an active source lane, else its own. -/
def shuffle (f : VR) (src : Nat → Nat → Int) (s : State) : Result :=
  if srcOk s false f.a && srcOk s false f.b && regOk s false f.d then
    let r (l : Nat) : Word :=
      let j := src l (src32 s f.b l).toNat
      if 0 ≤ j ∧ j < 32 ∧ s.active.getLsbD j.toNat then src32 s f.a j.toNat else src32 s f.a l
    finish32 f.nwb f.d (fun l => plain (r l)) s
  else illegalOperand s

def execShfl (f : VR) (s : State) : Result := shuffle f (fun _ b => (b % 32 : Nat)) s
def execShflup (f : VR) (s : State) : Result := shuffle f (fun l b => (l : Int) - (b % 64 : Nat)) s
def execShfldn (f : VR) (s : State) : Result := shuffle f (fun l b => (l : Int) + (b % 64 : Nat)) s
def execShflx (f : VR) (s : State) : Result := shuffle f (fun l b => ((l ^^^ (b % 32) : Nat) : Int)) s

/-! ### Votes (R187) -/

/-- The outcome of a vote in lane l: values a over the active lanes. -/
def voteIn (c : VoteCond) (ms : List Nat) (a : Nat → Word) (l : Nat) : Bool :=
  match c with
  | .all => ms.all fun j => a j != 0
  | .any => ms.any fun j => a j != 0
  | .uni => match ms with
    | [] => true
    | m :: rest => rest.all fun j => a j == a m
  | .match_ => ms.any fun j => j != l && a j == a l

def execVote (c : VoteCond) (p : PReg) (a : Src) (s : State) : Result :=
  if srcOk s false a then
    .next (complete (writeP p s.active (laneSetWhere (voteIn c (lanesOf s.active) (src32 s a))) s))
  else illegalOperand s

/-! ### Reductions and scans (R185, R188, R189) -/

/-- One combining step of 11 Table 11.4, with the flags of `.fadd` (R188). -/
def scanStep (op : ScanOp) (x y : Word) : Lane32 :=
  match op with
  | .add => plain (x + y)
  | .min => plain (if y.slt x then y else x)
  | .max => plain (if x.slt y then y else x)
  | .minu => plain (if y.ult x then y else x)
  | .maxu => plain (if x.ult y then y else x)
  | .and => plain (x &&& y)
  | .or => plain (x ||| y)
  | .xor => plain (x ^^^ y)
  | .fadd => addF32 x y

/-- Identity of 11 Table 11.4. -/
def scanIdentity : ScanOp → Word
  | .min => 0x7FFFFFFF
  | .max => 0x80000000
  | .minu | .and => 0xFFFFFFFF
  | _ => 0

/-- The value that a sum over one lane has: a NaN of `.fadd` is made canonical (04 R79). -/
def scanFirst (op : ScanOp) (x : Word) : Lane32 :=
  match op with
  | .fadd => canonF32 x
  | _ => plain x

/-- The combination of lanes in increasing order (R189, 04 R79). -/
def scanFold (op : ScanOp) (a : Nat → Word) : List Nat → Lane32
  | [] => plain (scanIdentity op)
  | l :: ls => ls.foldl (fun r j => let y := scanStep op r.1 (a j); (y.1, r.2 ||| y.2)) (scanFirst op (a l))

def execRedi (f : VR1) (op : ScanOp) (s : State) : Result :=
  if op = .fadd then illegalInstruction s
  else if srcOk s false f.a && regOk s false f.d then
    let r := scanFold op (src32 s f.a) (lanesOf s.active)
    finish32 f.nwb f.d (fun _ => r) s
  else illegalOperand s

/-- One step of REDF (R188). -/
def redfStep (op : RedfOp) (x y : Word) : Lane32 :=
  match op with
  | .add => addF32 x y
  | .min => lane32 (fp32.minmax false x.toNat y.toNat)
  | .max => lane32 (fp32.minmax true x.toNat y.toNat)

/-- A position of the tree of 04 R79: a value or none, with its flags. -/
def treeJoin (op : RedfOp) (x y : Option Word × Word) : Option Word × Word :=
  match x.1, y.1 with
  | some a, some b => let r := redfStep op a b; (some r.1, x.2 ||| y.2 ||| r.2)
  | some a, none => (some a, x.2 ||| y.2)
  | none, b => (b, x.2 ||| y.2)

/-- The tree over 2^k positions from position `base` on (04 R79). -/
def treeReduce (op : RedfOp) (v : Nat → Option Word × Word) : Nat → Nat → Option Word × Word
  | 0, base => v base
  | k + 1, base => treeJoin op (treeReduce op v k base) (treeReduce op v k (base + 2 ^ k))

def execRedf (f : VR1) (op : RedfOp) (s : State) : Result :=
  if srcOk s false f.a && regOk s false f.d then
    let v (l : Nat) : Option Word × Word :=
      if s.active.getLsbD l then (some (canonF32 (src32 s f.a l)).1, (canonF32 (src32 s f.a l)).2) else (none, 0)
    let r := treeReduce op v 5 0
    finish32 f.nwb f.d (fun _ => (r.1.getD 0, r.2)) s
  else illegalOperand s

/-- The flag of a scan's operands: a signalling NaN in any lane of `.fadd` sets NV, one that enters no prefix too (R188, R189). -/
def scanFlags (op : ScanOp) (a : Nat → Word) (ms : List Nat) : Word :=
  match op with
  | .fadd => ms.foldl (fun f l => f ||| (canonF32 (a l)).2) 0
  | _ => 0

def execScan (f : VR1) (excl : Bool) (op : ScanOp) (s : State) : Result :=
  if srcOk s false f.a && regOk s false f.d then
    let ms := lanesOf s.active
    let nv := scanFlags op (src32 s f.a) ms
    finish32 f.nwb f.d (fun l =>
      let r := scanFold op (src32 s f.a) (ms.filter fun j => if excl then j < l else j ≤ l)
      (r.1, r.2 ||| nv)) s
  else illegalOperand s

/-! ### Lane transfers (11 Table 11.3) -/

def execRdlane (f : VR) (s : State) : Result :=
  if srcOk s false f.a && srcOk s false f.b && regOk s false f.d then
    let j := (src32 s f.b (lowestLane s.active)).toNat % 32
    finish32 f.nwb f.d (fun _ => plain (if s.active.getLsbD j then src32 s f.a j else 0)) s
  else illegalOperand s

/-- WRLANE: lane j alone is written; the latch holds d after the instruction in every lane (R187). With NWB = 1, which writes no d,
the latch holds in lane j the value that d would have received (DESIGN CHOICE, log 91). -/
def execWrlane (f : VR) (s : State) : Result :=
  if srcOk s false f.a && srcOk s false f.b && regOk s false f.d then
    let m := lowestLane s.active
    let j := (src32 s f.b m).toNat % 32
    let x := src32 s f.a m
    let hit := s.active &&& laneBit j
    let s1 := s.setSp fun sp =>
      { sp with clause := capture hit (fun _ => x.setWidth 64) (fun l => (s.g.lane f.d.toNat l).setWidth 64) sp.clause }
    .next (complete (if f.nwb then s1 else writeV f.d.toNat hit (fun _ => x) s1))
  else illegalOperand s

def execBcast (last : Bool) (f : VR1) (s : State) : Result :=
  if srcOk s false f.a && regOk s false f.d then
    finish32 f.nwb f.d (fun _ => plain (src32 s f.a (if last then highestLane s.active else lowestLane s.active))) s
  else illegalOperand s

end Sys2Proof.Machine
end

