-- ==== Sys2Proof/Machine/Predict.lean ====
section
/-! DEFINITION. BRP: prediction, resolution, division and the mask predictor (spec/10 R164, R174 to R179, spec/11 R183).
The instructions that the hem buffer holds are counted on the path and carried out when it has resolved (log 18). -/

namespace Sys2Proof.Machine

/-- The predictor entry of a BRP at an address (10 R174). -/
def predIndex (a : DWord) (gid : Word) : Nat := ((a.toNat / 4) ^^^ gid.toNat) % 512

/-- A predicted side (true for taken) with its mask (10 Table 10.4, the rows of HINT 00 with CONF of 2 and more). -/
def entryPrediction (e : PredEntry) (act lanes : LaneSet) : Bool × LaneSet :=
  match e.cls.toNat with
  | 0 => (true, act)
  | 1 => (false, lanes)
  | _ => if e.last &&& act != 0 then (true, e.last &&& act) else (false, lanes)

/-- The prediction at a BRP (10 R175). -/
def prediction (h : Hint) (e : PredEntry) (act lanes : LaneSet) : Option (Bool × LaneSet) :=
  match h with
  | .pred => if 2 ≤ e.conf.toNat then some (entryPrediction e act lanes) else none
  | .taken => some (true, act)
  | .fall => some (false, lanes)
  | .nospec => none

/-- The predictor entry after a resolution with taken set t (10 R178). -/
def updateEntry (e : PredEntry) (t act lanes : LaneSet) : PredEntry :=
  let o : BitVec 2 := if t == act then 0 else if t == 0 then 1 else 2
  let p := entryPrediction e act lanes
  let good := if p.1 then p.2 == t else t == 0
  let e1 := if good then { e with conf := if e.conf = 3 then 3 else e.conf + 1 }
    else if e.conf = 0 then (if e.cls = o then e else { e with cls := o, conf := 1 })
    else { e with conf := e.conf - 1 }
  { e1 with last := t }

/-- The predictor entry of the focused split's instruction. -/
def predEntry (s : State) : PredEntry :=
  Cells.get {} (s.part (s.g.sp.part.getD 0)).pred (predIndex (instrPc s) s.g.gid)

/-- A resolution updates its partition's entry (10 R178). -/
def updatePredictor (t : LaneSet) (s : State) : State :=
  let e := updateEntry (predEntry s) t s.active s.g.sp.lanes
  s.setPart (s.g.sp.part.getD 0) fun p => { p with pred := Cells.set {} p.pred (predIndex (instrPc s) s.g.gid) e }

/-- A branch target at or below the address of the instruction in execution (10 R180). -/
def backward (target : DWord) (s : State) : Bool := target.toNat ≤ (instrPc s).toNat

/-- The split on the taken side of a BRP has passed a back-edge when the target is one (10 R179, R180). -/
def passEdge (target : DWord) (s : State) (sp : Split) : Split := if backward target s then endIteration sp else sp

/-- The division of a BRP with both sets non-empty (10 R164, R165): the split keeps its entry for the fall-through side;
`dt` and `df` count the held instructions that commit on either side. -/
def divideBrp (t : LaneSet) (target : DWord) (dt df : Nat) (s : State) : State :=
  let s1 := complete s
  let enter (sp : Split) : Split := passEdge target s { sp with pc := target, clause := {}, defer := dt, status := .runnable }
  match addSplit t enter (orderDivision s1).g with
  | none => noEntryTrap s
  | some g => { s1 with g := { g with sp := { g.sp with lanes := g.sp.lanes &&& ~~~t, defer := df } } }

/-- The outcome of a BRP with taken set t, once the predicate is known (10 R164, R177, 11 R183). -/
def resolveBrp (t : LaneSet) (target : DWord) (dt df : Nat) (s : State) : State :=
  if t = 0 then (complete (updatePredictor t s)).setSp fun sp => { sp with defer := df }
  else if high8 target then takeTrap (instrTrap 0x05 3 0 target s) s
  else
    let s1 := updatePredictor t s
    if s.g.sp.lanes &&& ~~~t = 0 then (branchTo target s1).setSp fun sp => passEdge target s { sp with defer := dt }
    else divideBrp t target dt df s1

/-- BRP (R183): it resolves at once when nothing is predicted; otherwise a predicted path begins, and BRP_RESOLVE ends it.
Behind an unresolved path of the group it waits (R176). -/
def execBrp (h : Hint) (p : PReg) (neg : Bool) (off : Off) (s : State) : Result :=
  if s.g.path.isSome then .next s
  else
    match prediction h (predEntry s) s.active s.g.sp.lanes with
    | none => .next (resolveBrp (takenLanes p neg s.active s) (branchTarget off s) 0 0 s)
    | some (side, m) =>
      .next { s with g := { s.g with path := some {
        sp := s.g.sp.idx, taken := side, mask := m,
        pc := if side then branchTarget off s else nextHeader s.g.sp } } }

/-- The BRP whose path is unresolved, and its group in focus at its split. -/
def pathSplit (gid : Word) (s : State) : Option (State × Path) :=
  (focusGroup gid s).bind fun s1 => s1.g.path.bind fun p =>
    (focusSplit p.sp s1.g).map fun g => ({ s1 with g := { g with path := none } }, p)

/-- BRP_RESOLVE (R177, R178): the predicate resolves and the BRP takes its effect; the instructions held on the predicted
side are marked as committing late (21 R320). Without an unresolved path nothing happens. -/
def execBrpResolve (gid : Word) (s : State) : Result :=
  match pathSplit gid s with
  | none => .next s
  | some (s1, path) =>
    match decode s1.g.sp.clause.hdr.cls (s1.g.sp.clause.words.drop s1.g.sp.clause.pos) with
    | .ok (.brp _ p neg off) =>
      .next (resolveBrp (takenLanes p neg s1.active s1) (branchTarget off s1)
        (if path.taken then path.count else 0) (if path.taken then 0 else path.count) s1)
    | _ => .next s1

end Sys2Proof.Machine
end

