-- ==== Sys2Proof/Machine/Special.lean ====
section
/-! DEFINITION. Special functions (spec/07 R119 to R123): free results within their stated bounds (log 4). The exact
result is enclosed in a short interval by integer arithmetic on 2^-128; a free candidate stands when the interval does
not show it to lie outside its bound, and the rounded middle of the interval stands otherwise. -/

namespace Sys2Proof.Machine

/-! ### Enclosures -/

/-- A real number (-1)^neg × y with |y - m × 2^e| at most d × 2^e. -/
structure Enclosure where
  neg : Bool := false
  m : Nat
  e : Int
  d : Nat
  deriving DecidableEq, Repr

/-- The bounds of 07 Table 7.1: ulps, absolute 2^-n, relative 2^-n (R122). -/
inductive Bound where
  | ulp (n : Nat)
  | abs (n : Nat)
  | rel (n : Nat)
  deriving DecidableEq, Repr

/-- m × 2^(e - q) for q at most e. -/
def atExp (m : Nat) (e q : Int) : Nat := m * 2 ^ (e - q).toNat

/-- Is a finite value within the bound of every number that the enclosure allows (R122)? -/
def withinBound (f : FFmt) (b : Bound) (x : Enclosure) : FVal → Bool
  | .fin n m e =>
    let be : Int := match b with
      | .ulp _ => (Nat.log2 (x.m - x.d) : Int) + x.e - f.mw
      | .abs k => -(k : Int)
      | .rel k => x.e - k
    let bm := match b with
      | .ulp k => k
      | .abs _ => 1
      | .rel _ => x.m - x.d
    let q := min e (min x.e be)
    let r : Int := if n then -(atExp m e q : Int) else atExp m e q
    let c : Int := if x.neg then -(atExp x.m x.e q : Int) else atExp x.m x.e q
    decide ((r - c).natAbs + atExp x.d x.e q ≤ atExp bm be q)
  | _ => false

/-- A pattern with a subnormal result flushed to zero of its sign (R123). -/
def flushPat (f : FFmt) (x : Nat) : Nat := if x / 2 ^ f.mw % 2 ^ f.ew = 0 then x / 2 ^ (f.ew + f.mw) * 2 ^ (f.ew + f.mw) else x

/-- The result of a special function whose exact result is enclosed: the free candidate of its opcode and operands when it
is within the bound, else the rounded middle (R122). UF where the flush of a subnormal result took place (R123). -/
def boundedResult (f : FFmt) (op : Nat) (b : Bound) (x : Enclosure) (p q : Nat) : Nat × Word :=
  let c := Config.special op p q % 2 ^ f.width
  let c' := if withinBound f b x (f.value (flushPat f c)) then c else (f.round .rne false x.neg x.m x.e).pat
  (flushPat f c', if flushPat f c' = c' then 0 else flagUF ||| flagNX)

/-! ### Integer functions on 2^-128 -/

/-- 2^128. -/
def one128 : Nat := 2 ^ 128
/-- π × 2^128, truncated. -/
def pi128 : Nat := 0x3243F6A8885A308D313198A2E03707344

/-- Square root of a number, rounded down, from bit `b` - 1 on. -/
def isqrt : Nat → Nat → Nat → Nat
  | 0, _, r => r
  | b + 1, n, r => isqrt b n (if (r + 2 ^ b) * (r + 2 ^ b) ≤ n then r + 2 ^ b else r)

/-- The exponential series from term `k` on: `n` further terms. -/
def expSeries (t : Nat) : Nat → Nat → Nat → Nat
  | 0, _, _ => 0
  | n + 1, k, u => u + expSeries t n (k + 1) (u * t / one128 / (k + 1))

/-- The series of the inverse hyperbolic tangent: `u` is z^(2k+1). -/
def atanhSeries (z2 : Nat) : Nat → Nat → Nat → Nat
  | 0, _, _ => 0
  | n + 1, k, u => u / (2 * k + 1) + atanhSeries z2 n (k + 1) (u * z2 / one128)

/-- atanh z for z below 1/2. -/
def atanh128 (z : Nat) : Nat := atanhSeries (z * z / one128) 64 0 z

/-- ln 2 = 2 atanh(1/3). -/
def ln2 : Nat := 2 * atanh128 (one128 / 3)

/-- The sine series: `u` is y^(2k+1) / (2k+1)!. -/
def sinSeries (y2 : Nat) : Nat → Nat → Int → Int
  | 0, _, _ => 0
  | n + 1, k, u => u + sinSeries y2 n (k + 1) (-(u * y2 / one128 / ((2 * k + 2) * (2 * k + 3) : Nat)))

/-- |a| × 2^128, truncated, of a finite value. -/
def fix128 (m : Nat) (e : Int) : Nat := if 0 ≤ e + 128 then m * 2 ^ (e + 128).toNat else m / 2 ^ (-(e + 128)).toNat

/-! ### The functions -/

/-- a / b for positive mantissas. -/
def encDiv (neg : Bool) (m1 : Nat) (e1 : Int) (m2 : Nat) (e2 : Int) : Enclosure :=
  { neg := neg, m := m1 * 2 ^ 200 / m2, e := e1 - e2 - 200, d := 1 }

/-- √(m × 2^e). -/
def encSqrt (m : Nat) (e : Int) : Enclosure :=
  let k : Nat := if e % 2 = 0 then 240 else 241
  { m := isqrt 160 (m * 2 ^ k) 0, e := (e - k) / 2, d := 1 }

/-- 1 / √(m × 2^e). -/
def encRsqrt (m : Nat) (e : Int) : Enclosure :=
  let k : Nat := if e % 2 = 0 then 320 else 321
  { m := isqrt 170 (2 ^ k / m) 0, e := (-e - k) / 2, d := 2 }

/-- 2^a for |a| below 2^-64 and at least 2^-149: 1 + a ln 2 on 2^-400, with the square of a as its error, so that the enclosure lies
on one side of 1. -/
def encExp2Tiny (neg : Bool) (m : Nat) (e : Int) : Enclosure :=
  let a := m * 2 ^ (e + 272).toNat
  let x := a * ln2
  { m := if neg then 2 ^ 400 - x else 2 ^ 400 + x, e := -400, d := a * a / 2 ^ 144 + 256 * a + 1 }

/-- 2^a. -/
def encExp2 (neg : Bool) (m : Nat) (e : Int) : Enclosure :=
  if finLt false m e false 1 (-64) then encExp2Tiny neg m e
  else
    let a : Int := if neg then -(fix128 m e : Int) else fix128 m e
    let n := a / one128
    let f := (a % one128).toNat
    { m := expSeries (f * ln2 / one128) 48 0 one128, e := n - 128, d := 2 ^ 12 }

/-- log2 a. -/
def encLog2 (m : Nat) (e : Int) : Enclosure :=
  let x := m * 2 ^ (128 - Nat.log2 m)
  let l := atanh128 ((x - one128) * one128 / (x + one128)) * one128 / atanh128 (one128 / 3)
  let v : Int := ((Nat.log2 m : Int) + e) * one128 + l
  { neg := v < 0, m := v.natAbs, e := -128, d := 2 ^ 12 }

/-- sin(π r) for r × 2^128 reduced modulo 2. -/
def encSinpi (neg : Bool) (r : Nat) : Enclosure :=
  let r1 := r % (2 * one128)
  let r2 := r1 % one128
  let r3 := if one128 / 2 < r2 then one128 - r2 else r2
  let y := r3 * pi128 / one128
  let s := sinSeries (y * y / one128) 32 0 y
  { neg := neg != decide (one128 ≤ r1), m := s.toNat, e := -128, d := 2 ^ 12 }

/-- tanh a for |a| below 9. -/
def encTanh (neg : Bool) (m : Nat) (e : Int) : Enclosure :=
  let sq (x : Nat) := x * x / one128
  let t := sq (sq (sq (sq (sq (expSeries (fix128 m e / 16) 48 0 one128)))))
  { neg := neg, m := (t - one128) * one128 / (t + one128), e := -128, d := 2 ^ 20 }

/-! ### Operands and special values (R123) -/

/-- An operand: subnormals are flushed to zero of their sign, with DN. -/
def flushOperand (f : FFmt) (x : Nat) : FVal × Word :=
  match f.value x with
  | .fin n m e => if m != 0 && m < 2 ^ f.mw then (.fin n 0 0, flagDN) else (.fin n m e, 0)
  | v => (v, 0)

def cnanOf (f : FFmt) (v : FVal) : Nat × Word := (f.cnan, if v.isSnan then flagNV else 0)

/-- 1.0 with a sign. -/
def onePat (f : FFmt) (neg : Bool) : Nat := f.signBit neg + f.bias * 2 ^ f.mw

/-- Is m a power of 2? -/
def isPow2 (m : Nat) : Bool := m == 2 ^ Nat.log2 m

/-- The exact value m × 2^e as a pattern; it is representable. -/
def exactPat (f : FFmt) (neg : Bool) (m : Nat) (e : Int) : Nat := (f.round .rne false neg m e).pat

/-- The magnitude m × 2^e is below the smallest normal value. -/
def belowNormal (f : FFmt) (m1 : Nat) (e1 : Int) (m2 : Nat) (e2 : Int) : Bool :=
  finLt false m1 e1 false m2 (e2 + 1 - f.bias)

/-- NX when a returned pattern differs from the exact result, which `same` decides on its value. -/
def inexactUnless (same : Nat → Int → Bool) (f : FFmt) (r : Nat × Word) : Nat × Word :=
  match f.value r.1 with
  | .fin _ m e => (r.1, r.2 ||| (if same m e then 0 else flagNX))
  | _ => (r.1, r.2 ||| flagNX)

/-- m1 × 2^e1 = m2 × 2^e2. -/
def sameMag (m1 : Nat) (e1 : Int) (m2 : Nat) (e2 : Int) : Bool :=
  atExp m1 e1 (min e1 e2) == atExp m2 e2 (min e1 e2)

/-- A quotient of finite non-zero values: overflow and underflow of x itself, else the bounded result (R122, R123). -/
def quotient (f : FFmt) (op : Nat) (b : Bound) (exactPow : Bool) (neg : Bool) (m1 : Nat) (e1 : Int) (m2 : Nat) (e2 : Int)
    (p q : Nat) : Nat × Word :=
  let top := (2 ^ (f.mw + 1) - 1)
  if finLt false (m2 * top) (e2 + f.bias - f.mw) false m1 e1 then (f.infPat neg, flagOF ||| flagNX)
  else if belowNormal f m1 e1 m2 e2 then (f.signBit neg, flagUF ||| flagNX)
  else if exactPow && isPow2 m2 then (exactPat f neg m1 (e1 - e2 - Nat.log2 m2), 0)
  else inexactUnless (fun m e => sameMag (m * m2) (e + e2) m1 e1) f (boundedResult f op b (encDiv neg m1 e1 m2 e2) p q)

/-- FRCP and DRCPA (R121 to R123). -/
def recip (f : FFmt) (op : Nat) (b : Bound) (exactPow : Bool) (x : Nat) : Nat × Word :=
  let o := flushOperand f x
  match o.1 with
  | .nan s => cnanOf f (.nan s)
  | .inf n => (f.signBit n, o.2)
  | .fin n m e => if m = 0 then (f.infPat n, o.2 ||| flagDZ)
                  else let r := quotient f op b exactPow n 1 0 m e x 0; (r.1, r.2 ||| o.2)

/-- FRSQ and DRSQA. -/
def rsqrt (f : FFmt) (op : Nat) (b : Bound) (exactPow : Bool) (x : Nat) : Nat × Word :=
  let o := flushOperand f x
  match o.1 with
  | .nan s => cnanOf f (.nan s)
  | .inf n => if n then (f.cnan, flagNV) else (0, 0)
  | .fin n m e =>
    if m = 0 then (f.infPat n, o.2 ||| flagDZ)
    else if n then (f.cnan, flagNV)
    else if exactPow && isPow2 m && (e + Nat.log2 m) % 2 == 0 then (exactPat f false 1 (-((e + Nat.log2 m) / 2)), 0)
    else inexactUnless (fun r k => sameMag (r * r * m) (2 * k + e) 1 0) f (boundedResult f op b (encRsqrt m e) x 0)

/-- FSQRT. -/
def sqrtF (x : Nat) : Nat × Word :=
  let o := flushOperand fp32 x
  match o.1 with
  | .nan s => cnanOf fp32 (.nan s)
  | .inf n => if n then (fp32.cnan, flagNV) else (fp32.infPat false, 0)
  | .fin n m e =>
    if m = 0 then (fp32.signBit n, o.2)
    else if n then (fp32.cnan, flagNV)
    else if isPow2 m && (e + Nat.log2 m) % 2 == 0 then (exactPat fp32 false 1 ((e + Nat.log2 m) / 2), 0)
    else inexactUnless (fun r k => sameMag (r * r) (2 * k) m e) fp32 (boundedResult fp32 2 (.ulp 1) (encSqrt m e) x 0)

/-- FDIV, with the special values of IEEE 754 division (R123). -/
def divF (x y : Nat) : Nat × Word :=
  let o := flushOperand fp32 x
  let u := flushOperand fp32 y
  let dn := o.2 ||| u.2
  match o.1, u.1 with
  | .nan s, v => (fp32.cnan, dn ||| snanFlag [.nan s, v])
  | v, .nan s => (fp32.cnan, dn ||| snanFlag [.nan s, v])
  | .inf _, .inf _ => (fp32.cnan, flagNV)
  | .inf n, .fin k _ _ => (fp32.infPat (n != k), dn)
  | .fin n _ _, .inf k => (fp32.signBit (n != k), dn)
  | .fin n m1 e1, .fin k m2 e2 =>
    if m2 = 0 then (if m1 = 0 then (fp32.cnan, dn ||| flagNV) else (fp32.infPat (n != k), dn ||| flagDZ))
    else if m1 = 0 then (fp32.signBit (n != k), dn)
    else let r := quotient fp32 3 (.ulp 2) false (n != k) m1 e1 m2 e2 x y; (r.1, r.2 ||| dn)

/-- The integer that a finite value is, if it is one. -/
def intVal (m : Nat) (e : Int) : Option Nat :=
  if 0 ≤ e then some (m * 2 ^ e.toNat) else if m % 2 ^ (-e).toNat = 0 then some (m / 2 ^ (-e).toNat) else none

/-- FEXP2. -/
def exp2F (x : Nat) : Nat × Word :=
  let o := flushOperand fp32 x
  match o.1 with
  | .nan s => cnanOf fp32 (.nan s)
  | .inf n => (if n then 0 else fp32.infPat false, 0)
  | .fin n m e =>
    if m = 0 then (onePat fp32 false, o.2)
    else if !n && !finLt false m e false 1 7 then (fp32.infPat false, flagOF ||| flagNX)
    else if n && finLt false 126 0 false m e then (0, flagUF ||| flagNX)
    else match intVal m e with
      | some k => (exactPat fp32 false 1 (if n then -(k : Int) else k), 0)
      | none => let r := boundedResult fp32 4 (.ulp 2) (encExp2 n m e) x 0; (r.1, r.2 ||| flagNX)

/-- FLOG2. Of 1.0 it is +0 with no flag (log 90). -/
def log2F (x : Nat) : Nat × Word :=
  let o := flushOperand fp32 x
  match o.1 with
  | .nan s => cnanOf fp32 (.nan s)
  | .inf n => if n then (fp32.cnan, flagNV) else (fp32.infPat false, 0)
  | .fin n m e =>
    if m = 0 then (fp32.infPat true, o.2 ||| flagDZ)
    else if n then (fp32.cnan, flagNV)
    else if isPow2 m then
      let k := e + Nat.log2 m
      (exactPat fp32 (k < 0) k.natAbs 0, 0)
    else
      let near := !finLt false m e false 1 (-1) && !finLt false 1 1 false m e
      let r := boundedResult fp32 5 (if near then .abs 22 else .ulp 2) (encLog2 m e) x 0
      (r.1, r.2 ||| flagNX)

/-- FSINPI (`cos` for FCOSPI). -/
def sinpiF (cos : Bool) (op x : Nat) : Nat × Word :=
  let o := flushOperand fp32 x
  match o.1 with
  | .nan s => cnanOf fp32 (.nan s)
  | .inf _ => (fp32.cnan, flagNV)
  | .fin n m e =>
    if m = 0 then (if cos then onePat fp32 false else fp32.signBit n, o.2)
    else match intVal m (e + 1) with
      | some k =>
        if k % 2 = 0 then (if cos then onePat fp32 (k % 4 == 2) else 0, 0)
        else (if cos then 0 else onePat fp32 (n != (k % 4 == 3)), 0)
      | none =>
        let r := fix128 m e
        let c := if cos then encSinpi false (r + one128 / 2) else encSinpi n r
        let y := boundedResult fp32 op (.abs 22) c x 0
        (y.1, y.2 ||| flagNX)

/-- FTANH. From |a| = 9.0 on the result is ±1.0 and counts as exact (R122; DEDUCED, log 19). -/
def tanhF (x : Nat) : Nat × Word :=
  let o := flushOperand fp32 x
  match o.1 with
  | .nan s => cnanOf fp32 (.nan s)
  | .inf n => (onePat fp32 n, 0)
  | .fin n m e =>
    if m = 0 then (fp32.signBit n, o.2)
    else if !finLt false m e false 9 0 then (onePat fp32 n, 0)
    else if sameMag m e 1 (-126) then (fp32.signBit n, flagUF ||| flagNX)
    else let r := boundedResult fp32 8 (.abs 21) (encTanh n m e) x 0; (r.1, r.2 ||| flagNX)

/-! ### The instructions (R121) -/

/-- An FP64 special function. -/
def vr1wide (f : VR1) (op : DWord → Lane64) (s : State) : Result :=
  if srcOk s true f.a && regOk s true f.d then finish64 f.nwb f.d (fun l => op (srcF64 s f.a l)) s else illegalOperand s

def execFrcp (f : VR1) (s : State) : Result := vr1 f (fun a => lane32 (recip fp32 0 (.ulp 1) true a.toNat)) s
def execFrsq (f : VR1) (s : State) : Result := vr1 f (fun a => lane32 (rsqrt fp32 1 (.ulp 2) true a.toNat)) s
def execFsqrt (f : VR1) (s : State) : Result := vr1 f (fun a => lane32 (sqrtF a.toNat)) s
def execFdiv (f : VR) (s : State) : Result := vr32 f (fun a b _ => lane32 (divF a.toNat b.toNat)) s
def execFexp2 (f : VR1) (s : State) : Result := vr1 f (fun a => lane32 (exp2F a.toNat)) s
def execFlog2 (f : VR1) (s : State) : Result := vr1 f (fun a => lane32 (log2F a.toNat)) s
def execFsinpi (f : VR1) (s : State) : Result := vr1 f (fun a => lane32 (sinpiF false 6 a.toNat)) s
def execFcospi (f : VR1) (s : State) : Result := vr1 f (fun a => lane32 (sinpiF true 7 a.toNat)) s
def execFtanh (f : VR1) (s : State) : Result := vr1 f (fun a => lane32 (tanhF a.toNat)) s
def execDrcpa (f : VR1) (s : State) : Result := vr1wide f (fun a => lane64 (recip fp64 9 (.rel 23) false a.toNat)) s
def execDrsqa (f : VR1) (s : State) : Result := vr1wide f (fun a => lane64 (rsqrt fp64 10 (.rel 23) false a.toNat)) s

end Sys2Proof.Machine
end

