-- ==== Sys2Proof/Machine/Dispatch.lean ====
section
/-! DEFINITION. The meaning of every instruction and step: one arm per constructor, one call of its meaning. -/

namespace Sys2Proof.Machine

def exec (i : Instr) (s : State) : Host.Outcome State Fault Refusal :=
  match i with
  | .snop => Sys2Proof.Machine.execSnop s
  | .smov d a => Sys2Proof.Machine.execSmov d a s
  | .smovi d imm => Sys2Proof.Machine.execSmovi d imm s
  | .slit d l => Sys2Proof.Machine.execSlit d l s
  | .slith d a l => Sys2Proof.Machine.execSlith d a l s
  | .sadd d a b => Sys2Proof.Machine.execSadd d a b s
  | .saddi d a imm => Sys2Proof.Machine.execSaddi d a imm s
  | .ssub d a b => Sys2Proof.Machine.execSsub d a b s
  | .smul d a b => Sys2Proof.Machine.execSmul d a b s
  | .smulh sgn d a b => Sys2Proof.Machine.execSmulh sgn d a b s
  | .sand d a b => Sys2Proof.Machine.execSand d a b s
  | .sandi d a imm => Sys2Proof.Machine.execSandi d a imm s
  | .sor d a b => Sys2Proof.Machine.execSor d a b s
  | .sori d a imm => Sys2Proof.Machine.execSori d a imm s
  | .sxor d a b => Sys2Proof.Machine.execSxor d a b s
  | .sxori d a imm => Sys2Proof.Machine.execSxori d a imm s
  | .sshl d a b => Sys2Proof.Machine.execSshl d a b s
  | .sshli d a n => Sys2Proof.Machine.execSshli d a n s
  | .sshr d a b => Sys2Proof.Machine.execSshr d a b s
  | .sshri d a n => Sys2Proof.Machine.execSshri d a n s
  | .ssra d a b => Sys2Proof.Machine.execSsra d a b s
  | .ssrai d a n => Sys2Proof.Machine.execSsrai d a n s
  | .smin sgn d a b => Sys2Proof.Machine.execSmin sgn d a b s
  | .smax sgn d a b => Sys2Proof.Machine.execSmax sgn d a b s
  | .scmp c d a b => Sys2Proof.Machine.execScmp c d a b s
  | .spopc d a => Sys2Proof.Machine.execSpopc d a s
  | .sclz d a => Sys2Proof.Machine.execSclz d a s
  | .scmov z d a b => Sys2Proof.Machine.execScmov z d a b s
  | .bra p neg off => Sys2Proof.Machine.execBra p neg off s
  | .brp h p neg off => Sys2Proof.Machine.execBrp h p neg off s
  | .brz n off => Sys2Proof.Machine.execBrz n off s
  | .brnz n off => Sys2Proof.Machine.execBrnz n off s
  | .call n off => Sys2Proof.Machine.execCall n off s
  | .jmpr d a => Sys2Proof.Machine.execJmpr d a s
  | .loop n off => Sys2Proof.Machine.execLoop n off s
  | .exit => Sys2Proof.Machine.execExit s
  | .yield => Sys2Proof.Machine.execYield s
  | .plog d a b tt => Sys2Proof.Machine.execPlog d a b tt s
  | .pmovToPredicate d a => Sys2Proof.Machine.execPmovToPredicate d a s
  | .pmovToScalar d a => Sys2Proof.Machine.execPmovToScalar d a s
  | .emrd d lanes => Sys2Proof.Machine.execEmrd d lanes s
  | .emwr a => Sys2Proof.Machine.execEmwr a s
  | .emwrPredicate f a => Sys2Proof.Machine.execEmwrPredicate f a s
  | .pcnt d a lanes => Sys2Proof.Machine.execPcnt d a lanes s
  | .pfirst d a last => Sys2Proof.Machine.execPfirst d a last s
  | .sread d n => Sys2Proof.Machine.execSread d n s
  | .swrite n a => Sys2Proof.Machine.execSwrite n a s
  | .vmov f => Sys2Proof.Machine.execVmov f s
  | .vadd f => Sys2Proof.Machine.execVadd f s
  | .vsub f => Sys2Proof.Machine.execVsub f s
  | .vmul f => Sys2Proof.Machine.execVmul f s
  | .vmulh sgn f => Sys2Proof.Machine.execVmulh sgn f s
  | .vmad f => Sys2Proof.Machine.execVmad f s
  | .vand f => Sys2Proof.Machine.execVand f s
  | .vor f => Sys2Proof.Machine.execVor f s
  | .vxor f => Sys2Proof.Machine.execVxor f s
  | .vandn f => Sys2Proof.Machine.execVandn f s
  | .vshl f => Sys2Proof.Machine.execVshl f s
  | .vshr f => Sys2Proof.Machine.execVshr f s
  | .vsra f => Sys2Proof.Machine.execVsra f s
  | .vmin sgn f => Sys2Proof.Machine.execVmin sgn f s
  | .vmax sgn f => Sys2Proof.Machine.execVmax sgn f s
  | .vabs sat f => Sys2Proof.Machine.execVabs sat f s
  | .vadds sgn f => Sys2Proof.Machine.execVadds sgn f s
  | .vsubs sgn f => Sys2Proof.Machine.execVsubs sgn f s
  | .vadd64 f => Sys2Proof.Machine.execVadd64 f s
  | .vsub64 f => Sys2Proof.Machine.execVsub64 f s
  | .vmulw sgn f => Sys2Proof.Machine.execVmulw sgn f s
  | .vsel m f => Sys2Proof.Machine.execVsel m f s
  | .fadd rm f => Sys2Proof.Machine.execFadd rm f s
  | .fsub rm f => Sys2Proof.Machine.execFsub rm f s
  | .fmul rm f => Sys2Proof.Machine.execFmul rm f s
  | .ffma rm f => Sys2Proof.Machine.execFfma rm f s
  | .ffms rm f => Sys2Proof.Machine.execFfms rm f s
  | .fmin f => Sys2Proof.Machine.execFmin f s
  | .fmax f => Sys2Proof.Machine.execFmax f s
  | .dadd rm f => Sys2Proof.Machine.execDadd rm f s
  | .dsub rm f => Sys2Proof.Machine.execDsub rm f s
  | .dmul rm f => Sys2Proof.Machine.execDmul rm f s
  | .dfma rm f => Sys2Proof.Machine.execDfma rm f s
  | .dmin f => Sys2Proof.Machine.execDmin f s
  | .dmax f => Sys2Proof.Machine.execDmax f s
  | .hadd2 rm f => Sys2Proof.Machine.execHadd2 rm f s
  | .hmul2 rm f => Sys2Proof.Machine.execHmul2 rm f s
  | .hfma2 rm f => Sys2Proof.Machine.execHfma2 rm f s
  | .bfma2 rm f => Sys2Proof.Machine.execBfma2 rm f s
  | .dot4 sgn f => Sys2Proof.Machine.execDot4 sgn f s
  | .dot2h rm f => Sys2Proof.Machine.execDot2h rm f s
  | .vcmp c f => Sys2Proof.Machine.execVcmp c f s
  | .vcmpu c f => Sys2Proof.Machine.execVcmpu c f s
  | .fcmp c f => Sys2Proof.Machine.execFcmp c f s
  | .dcmp c f => Sys2Proof.Machine.execDcmp c f s
  | .cvt rm f dst src => Sys2Proof.Machine.execCvt rm f dst src s
  | .cvtf rm f partner fromSlot fs => Sys2Proof.Machine.execCvtf rm f partner fromSlot fs s
  | .pack rm f => Sys2Proof.Machine.execPack rm f s
  | .unpk f => Sys2Proof.Machine.execUnpk f s
  | .frcp f => Sys2Proof.Machine.execFrcp f s
  | .frsq f => Sys2Proof.Machine.execFrsq f s
  | .fsqrt f => Sys2Proof.Machine.execFsqrt f s
  | .fdiv f => Sys2Proof.Machine.execFdiv f s
  | .fexp2 f => Sys2Proof.Machine.execFexp2 f s
  | .flog2 f => Sys2Proof.Machine.execFlog2 f s
  | .fsinpi f => Sys2Proof.Machine.execFsinpi f s
  | .fcospi f => Sys2Proof.Machine.execFcospi f s
  | .ftanh f => Sys2Proof.Machine.execFtanh f s
  | .drcpa f => Sys2Proof.Machine.execDrcpa f s
  | .drsqa f => Sys2Proof.Machine.execDrsqa f s
  | .popc f => Sys2Proof.Machine.execPopc f s
  | .clz f => Sys2Proof.Machine.execClz f s
  | .brev f => Sys2Proof.Machine.execBrev f s
  | .bfe sgn f => Sys2Proof.Machine.execBfe sgn f s
  | .bfi f => Sys2Proof.Machine.execBfi f s
  | .funsh f => Sys2Proof.Machine.execFunsh f s
  | .bsinit a => Sys2Proof.Machine.execBsinit a s
  | .bsrd f => Sys2Proof.Machine.execBsrd f s
  | .bsfill f => Sys2Proof.Machine.execBsfill f s
  | .bspeek f => Sys2Proof.Machine.execBspeek f s
  | .shfl f => Sys2Proof.Machine.execShfl f s
  | .shflup f => Sys2Proof.Machine.execShflup f s
  | .shfldn f => Sys2Proof.Machine.execShfldn f s
  | .shflx f => Sys2Proof.Machine.execShflx f s
  | .vote c p a => Sys2Proof.Machine.execVote c p a s
  | .redi f op => Sys2Proof.Machine.execRedi f op s
  | .redf f op => Sys2Proof.Machine.execRedf f op s
  | .scan f excl op => Sys2Proof.Machine.execScan f excl op s
  | .rdlane f => Sys2Proof.Machine.execRdlane f s
  | .wrlane f => Sys2Proof.Machine.execWrlane f s
  | .bcast last f => Sys2Proof.Machine.execBcast last f s
  | .ldb m => Sys2Proof.Machine.execLdb m s
  | .ldbs m => Sys2Proof.Machine.execLdbs m s
  | .ldh m => Sys2Proof.Machine.execLdh m s
  | .ldhs m => Sys2Proof.Machine.execLdhs m s
  | .ldw m => Sys2Proof.Machine.execLdw m s
  | .ldd m => Sys2Proof.Machine.execLdd m s
  | .ldq m => Sys2Proof.Machine.execLdq m s
  | .ldaw m scope order => Sys2Proof.Machine.execLdaw m scope order s
  | .ldad m scope order => Sys2Proof.Machine.execLdad m scope order s
  | .stb m => Sys2Proof.Machine.execStb m s
  | .sth m => Sys2Proof.Machine.execSth m s
  | .stw m => Sys2Proof.Machine.execStw m s
  | .std m => Sys2Proof.Machine.execStd m s
  | .stq m => Sys2Proof.Machine.execStq m s
  | .strw m => Sys2Proof.Machine.execStrw m s
  | .strd m => Sys2Proof.Machine.execStrd m s
  | .ldpw m => Sys2Proof.Machine.execLdpw m s
  | .ldpd m => Sys2Proof.Machine.execLdpd m s
  | .stpw m => Sys2Proof.Machine.execStpw m s
  | .stpd m => Sys2Proof.Machine.execStpd m s
  | .ldsw m => Sys2Proof.Machine.execLdsw m s
  | .ldsd m => Sys2Proof.Machine.execLdsd m s
  | .ldsq m => Sys2Proof.Machine.execLdsq m s
  | .stsw m => Sys2Proof.Machine.execStsw m s
  | .stsd m => Sys2Proof.Machine.execStsd m s
  | .stsq m => Sys2Proof.Machine.execStsq m s
  | .migrate ls va sb => Sys2Proof.Machine.execMigrate ls va sb s
  | .homeof m => Sys2Proof.Machine.execHomeof m s
  | .fence scope order => Sys2Proof.Machine.execFence scope order s
  | .mma m => Sys2Proof.Machine.execMma m s
  | .mmaz m => Sys2Proof.Machine.execMmaz m s
  | .mmnp m => Sys2Proof.Machine.execMmnp m s
  | .mctr m => Sys2Proof.Machine.execMctr m s
  | .tldv m => Sys2Proof.Machine.execTldv m s
  | .tstv m => Sys2Proof.Machine.execTstv m s
  | .tzero m => Sys2Proof.Machine.execTzero m s
  | .tepi m => Sys2Proof.Machine.execTepi m s
  | .taddst m => Sys2Proof.Machine.execTaddst m s
  | .tstore m => Sys2Proof.Machine.execTstore m s
  | .mrel => Sys2Proof.Machine.execMrel s
  | .itld q p evw out => Sys2Proof.Machine.execItld q p evw out s
  | .cpin rec p evw => Sys2Proof.Machine.execCpin rec p evw s
  | .cpga rec l p evw => Sys2Proof.Machine.execCpga rec l p evw s
  | .cpout rec p evw => Sys2Proof.Machine.execCpout rec p evw s
  | .cpsc rec l p evw => Sys2Proof.Machine.execCpsc rec l p evw s
  | .cpsig a x evw => Sys2Proof.Machine.execCpsig a x evw s
  | .sweep rec x p evw op out fs => Sys2Proof.Machine.execSweep rec x p evw op out fs s
  | .cpfill x p evw => Sys2Proof.Machine.execCpfill x p evw s
  | .atadd m => Sys2Proof.Machine.execAtadd m s
  | .atmin m => Sys2Proof.Machine.execAtmin m s
  | .atmax m => Sys2Proof.Machine.execAtmax m s
  | .atminu m => Sys2Proof.Machine.execAtminu m s
  | .atmaxu m => Sys2Proof.Machine.execAtmaxu m s
  | .atand m => Sys2Proof.Machine.execAtand m s
  | .ator m => Sys2Proof.Machine.execAtor m s
  | .atxor m => Sys2Proof.Machine.execAtxor m s
  | .atxch m => Sys2Proof.Machine.execAtxch m s
  | .atcas m => Sys2Proof.Machine.execAtcas m s
  | .atfadd m => Sys2Proof.Machine.execAtfadd m s
  | .rdadd m => Sys2Proof.Machine.execRdadd m s
  | .rdmin m => Sys2Proof.Machine.execRdmin m s
  | .rdmax m => Sys2Proof.Machine.execRdmax m s
  | .rdand m => Sys2Proof.Machine.execRdand m s
  | .rdor m => Sys2Proof.Machine.execRdor m s
  | .rdxor m => Sys2Proof.Machine.execRdxor m s
  | .rdfadd m => Sys2Proof.Machine.execRdfadd m s
  | .rddadd m => Sys2Proof.Machine.execRddadd m s
  | .dqpush m => Sys2Proof.Machine.execDqpush m s
  | .dqpop m => Sys2Proof.Machine.execDqpop m s
  | .dqsteal m => Sys2Proof.Machine.execDqsteal m s
  | .tjoin a => Sys2Proof.Machine.execTjoin a s
  | .tleave => Sys2Proof.Machine.execTleave s
  | .barrive => Sys2Proof.Machine.execBarrive s
  | .barwait ls => Sys2Proof.Machine.execBarwait ls s
  | .barsync ls => Sys2Proof.Machine.execBarsync ls s
  | .genwait ls a b => Sys2Proof.Machine.execGenwait ls a b s
  | .sigdec a b => Sys2Proof.Machine.execSigdec a b s
  | .sigwait ls a b => Sys2Proof.Machine.execSigwait ls a b s
  | .seam ls mode k => Sys2Proof.Machine.execSeam ls mode k s
  | .waitc c n => Sys2Proof.Machine.execWaitc c n s
  | .lease a => Sys2Proof.Machine.execLease a s
  | .unlease => Sys2Proof.Machine.execUnlease s
  | .trap n => Sys2Proof.Machine.execTrap n s
  | .eret => Sys2Proof.Machine.execEret s
  | .brk => Sys2Proof.Machine.execBrk s
  | .rdsys d n => Sys2Proof.Machine.execRdsys d n s
  | .wrsys n a => Sys2Proof.Machine.execWrsys n a s
  | .iregion ls => Sys2Proof.Machine.execIregion ls s
  | .irend => Sys2Proof.Machine.execIrend s
  | .safept ls => Sys2Proof.Machine.execSafept ls s
  | .ckbegin ls a => Sys2Proof.Machine.execCkbegin ls a s
  | .ckcommit ls a => Sys2Proof.Machine.execCkcommit ls a s
  | .rpget d a => Sys2Proof.Machine.execRpget d a s
  | .tlbinv a n => Sys2Proof.Machine.execTlbinv a n s
  | .icinv a n => Sys2Proof.Machine.execIcinv a n s
  | .halt => Sys2Proof.Machine.execHalt s
  | .preempt k a => Sys2Proof.Machine.execPreempt k a s
  | .clauseFetch gid sp => Sys2Proof.Machine.execClauseFetch gid sp s
  | .clauseIssue gid sp => Sys2Proof.Machine.execClauseIssue gid sp s
  | .issueDueLevel part level => Sys2Proof.Machine.execIssueDueLevel part level s
  | .counterRoom gid sp => Sys2Proof.Machine.execCounterRoom gid sp s
  | .safePointOverrunTrap gid sp => Sys2Proof.Machine.execSafePointOverrunTrap gid sp s
  | .translationWalkDone home ctx va => Sys2Proof.Machine.execTranslationWalkDone home ctx va s
  | .inPlaceAccessComplete gid access => Sys2Proof.Machine.execInPlaceAccessComplete gid access s
  | .packetAccept src dst => Sys2Proof.Machine.execPacketAccept src dst s
  | .hotLineRunClose home pa => Sys2Proof.Machine.execHotLineRunClose home pa s
  | .arrivalAcknowledge gid => Sys2Proof.Machine.execArrivalAcknowledge gid s
  | .hierarchicalArrival src dst => Sys2Proof.Machine.execHierarchicalArrival src dst s
  | .orderingHoldEnd gid sp => Sys2Proof.Machine.execOrderingHoldEnd gid sp s
  | .jacketDepart gid sp => Sys2Proof.Machine.execJacketDepart gid sp s
  | .jacketArrive gid sp => Sys2Proof.Machine.execJacketArrive gid sp s
  | .admitItem home => Sys2Proof.Machine.execAdmitItem home s
  | .waitWake gid sp => Sys2Proof.Machine.execWaitWake gid sp s
  | .spinDetectorFire gid sp => Sys2Proof.Machine.execSpinDetectorFire gid sp s
  | .spinWaitTimeout gid sp => Sys2Proof.Machine.execSpinWaitTimeout gid sp s
  | .brpResolve gid => Sys2Proof.Machine.execBrpResolve gid s
  | .matrixOperandsConsumed gid => Sys2Proof.Machine.execMatrixOperandsConsumed gid s
  | .matrixComplete gid mismatch => Sys2Proof.Machine.execMatrixComplete gid mismatch s
  | .copyStart gid => Sys2Proof.Machine.execCopyStart gid s
  | .copyFinish gid cmd => Sys2Proof.Machine.execCopyFinish gid cmd s
  | .copyFaultReport gid => Sys2Proof.Machine.execCopyFaultReport gid s
  | .waitCounterSatisfied gid sp => Sys2Proof.Machine.execWaitCounterSatisfied gid sp s
  | .trapEntry gid sp => Sys2Proof.Machine.execTrapEntry gid sp s
  | .handlerStart gid => Sys2Proof.Machine.execHandlerStart gid s
  | .regionRestart gid sp => Sys2Proof.Machine.execRegionRestart gid sp s
  | .teamRollback gid => Sys2Proof.Machine.execTeamRollback gid s
  | .preemptSave gid => Sys2Proof.Machine.execPreemptSave gid s
  | .teamSave gid => Sys2Proof.Machine.execTeamSave gid s
  | .groupRetire gid => Sys2Proof.Machine.execGroupRetire gid s
  | .append core values => Sys2Proof.Machine.execAppend core values s
  | .cardTake home queue => Sys2Proof.Machine.execCardTake home queue s
  | .chunkDeal home => Sys2Proof.Machine.execChunkDeal home s
  | .steal home => Sys2Proof.Machine.execSteal home s
  | .balancerMove card src dst count => Sys2Proof.Machine.execBalancerMove card src dst count s
  | .mirrorCopyAccept home => Sys2Proof.Machine.execMirrorCopyAccept home s
  | .dieReset pkg die => Sys2Proof.Machine.execDieReset pkg die s
  | .flitReceive src dst ok => Sys2Proof.Machine.execFlitReceive src dst ok s
  | .linkDown pkg port => Sys2Proof.Machine.execLinkDown pkg port s
  | .linkRetrained pkg port => Sys2Proof.Machine.execLinkRetrained pkg port s
  | .reorderWindowRoom src dst cls => Sys2Proof.Machine.execReorderWindowRoom src dst cls s
  | .packageLost pkg => Sys2Proof.Machine.execPackageLost pkg s
  | .pageMoveStart home => Sys2Proof.Machine.execPageMoveStart home s
  | .cutover home => Sys2Proof.Machine.execCutover home s
  | .redirect src dst => Sys2Proof.Machine.execRedirect src dst s
  | .pageMoveEnd home => Sys2Proof.Machine.execPageMoveEnd home s
  | .autoPageMove home entry => Sys2Proof.Machine.execAutoPageMove home entry s
  | .partnerWrite home value => Sys2Proof.Machine.execPartnerWrite home value s
  | .registerWrite home offset value => Sys2Proof.Machine.execRegisterWrite home offset value s
  | .rdmaWrite qp va bytes => Sys2Proof.Machine.execRdmaWrite qp va bytes s
  | .rdmaRead qp va len => Sys2Proof.Machine.execRdmaRead qp va len s
  | .rdmaSend qp bytes => Sys2Proof.Machine.execRdmaSend qp bytes s
  | .atomicFetchAdd qp va x => Sys2Proof.Machine.execAtomicFetchAdd qp va x s
  | .atomicCompareSwap qp va cmp x => Sys2Proof.Machine.execAtomicCompareSwap qp va cmp x s
  | .invalidRequest qp => Sys2Proof.Machine.execInvalidRequest qp s
  | .regq c => Sys2Proof.Machine.execRegq c s
  | .unregq c => Sys2Proof.Machine.execUnregq c s
  | .preemptCommand c => Sys2Proof.Machine.execPreemptCommand c s
  | .resume c => Sys2Proof.Machine.execResume c s
  | .kill c => Sys2Proof.Machine.execKill c s
  | .replay c => Sys2Proof.Machine.execReplay c s
  | .drain c => Sys2Proof.Machine.execDrain c s
  | .update c signatureOk calibrationOk => Sys2Proof.Machine.execUpdate c signatureOk calibrationOk s
  | .homeReturn c => Sys2Proof.Machine.execHomeReturn c s
  | .route c => Sys2Proof.Machine.execRoute c s
  | .movlist c => Sys2Proof.Machine.execMovlist c s
  | .hwin c => Sys2Proof.Machine.execHwin c s
  | .attest c => Sys2Proof.Machine.execAttest c s
  | .move c => Sys2Proof.Machine.execMove c s
  | .partner c => Sys2Proof.Machine.execPartner c s
  | .tlbinvCommand c => Sys2Proof.Machine.execTlbinvCommand c s
  | .icinvCommand c => Sys2Proof.Machine.execIcinvCommand c s
  | .unknownCommand c => Sys2Proof.Machine.execUnknownCommand c s
  | .homeDrained home => Sys2Proof.Machine.execHomeDrained home s
  | .powerOn pins => Sys2Proof.Machine.execPowerOn pins s
  | .bootImageVerify pkg die ok image => Sys2Proof.Machine.execBootImageVerify pkg die ok image s
  | .dieIdentity pkg die ok => Sys2Proof.Machine.execDieIdentity pkg die ok s
  | .calibration pkg die ok => Sys2Proof.Machine.execCalibration pkg die ok s
  | .homeReady home => Sys2Proof.Machine.execHomeReady home s
  | .temperatureChange home celsius => Sys2Proof.Machine.execTemperatureChange home celsius s
  | .supplyDroop pkg die => Sys2Proof.Machine.execSupplyDroop pkg die s
  | .portStateChange pkg fabric port up => Sys2Proof.Machine.execPortStateChange pkg fabric port up s
  | .coreResetComplete core => Sys2Proof.Machine.execCoreResetComplete core s
  | .uncorrectableEccError site => Sys2Proof.Machine.execUncorrectableEccError site s
  | .invalidationComplete req => Sys2Proof.Machine.execInvalidationComplete req s
  | .checkpointCrcComplete gid => Sys2Proof.Machine.execCheckpointCrcComplete gid s
  | .roceAcknowledgement home => Sys2Proof.Machine.execRoceAcknowledgement home s
  | .clockIncrement pkg die => Sys2Proof.Machine.execClockIncrement pkg die s

end Sys2Proof.Machine
end

