-- ==== Sys2Proof/Machine/Uses.lean ====
section
/-! DEFINITION. Which registers an instruction reads and writes (spec/02 R36, spec/06 R100, spec/22 R334, R339), and the
classes of instructions that the spin detector (spec/10 R180) and an open region (spec/22 R334) name. -/

namespace Sys2Proof.Machine

/-- Registers of an instruction: vector registers read for active lanes, written, and otherwise touched (the old value that a
latch captures, and matrix operands, which the engine reads); scalars and predicates read and written; whether a
predicate is written in every lane of the split, and the writes of EM, BCUR and FPSTAT. -/
structure Uses where
  vr : List Nat := []
  vw : List Nat := []
  vt : List Nat := []
  sr : List Nat := []
  sw : List Nat := []
  pr : List Nat := []
  pw : List Nat := []
  em : Bool := false
  bcur : Bool := false
  fps : Bool := false
  deriving DecidableEq, Repr

/-- Both lists of registers. -/
def Uses.and (x y : Uses) : Uses :=
  { vr := x.vr ++ y.vr, vw := x.vw ++ y.vw, vt := x.vt ++ y.vt, sr := x.sr ++ y.sr, sw := x.sw ++ y.sw, pr := x.pr ++ y.pr,
    pw := x.pw ++ y.pw, em := x.em || y.em, bcur := x.bcur || y.bcur, fps := x.fps || y.fps }

/-- A vector register or pair. -/
def vecRegs (wide : Bool) (n : VReg) : List Nat := if wide then [n.toNat, n.toNat + 1] else [n.toNat]

/-- What a source operand reads. -/
def srcUses (wide : Bool) : Src → Uses
  | .v n => { vr := vecRegs wide n }
  | .s n => { sr := [n.toNat] }
  | _ => {}

/-- A vector result: with NWB the register is only captured (02 R36, R37). -/
def dstUses (nwb wide : Bool) (d : VReg) : Uses :=
  { vw := if nwb then [] else vecRegs wide d, vt := vecRegs wide d }

/-- A VR instruction; `acc` reads the destination too. -/
def vrUses (wide acc : Bool) (f : VR) : Uses :=
  ((srcUses wide f.a).and (srcUses wide f.b)).and
    ((dstUses f.nwb wide f.d).and { vr := if acc then vecRegs wide f.d else [] })

def vr1Uses (wideSrc wideDst : Bool) (f : VR1) : Uses := (srcUses wideSrc f.a).and (dstUses f.nwb wideDst f.d)
def vcUses (wide : Bool) (f : VC) : Uses := ((srcUses wide f.a).and (srcUses wide f.b)).and { pw := [f.p.toNat] }

def sUses (d : SReg) (rs : List SReg) : Uses := { sw := [d.toNat], sr := rs.map (·.toNat) }
def sReads (rs : List SReg) : Uses := { sr := rs.map (·.toNat) }

/-- Address registers. -/
def addrUses (va : VReg) (sb : SReg) : Uses := { vr := addrRegs va sb, sr := [sb.toNat] }
def loadUses (n : Nat) (m : MML) : Uses := (addrUses m.va m.sb).and { vw := dataRegs n m.vd }
def storeUses (n : Nat) (m : MMS) : Uses := (addrUses m.va m.sb).and { vr := dataRegs n m.vd }
def scratchUses (m : MMX) : Uses := { vr := [m.va.toNat], sr := [m.sb.toNat] }
def scratchLoadUses (n : Nat) (m : MMX) : Uses := (scratchUses m).and { vw := dataRegs n m.vd }
def scratchStoreUses (n : Nat) (m : MMX) : Uses := (scratchUses m).and { vr := dataRegs n m.vd }

/-- An SA instruction that takes an element and gives one. -/
def atomicUses (cas : Bool) (m : SA) : Uses :=
  (addrUses m.va m.sb).and { vr := elemRegs m.w64 m.vx ++ if cas then elemRegs m.w64 m.vc else [], vw := elemRegs m.w64 m.vd }
def pushUses (m : SA) : Uses := (addrUses m.va m.sb).and { vr := elemRegs m.w64 m.vx, vw := [m.vd.toNat] }
def takeUses (m : SA) : Uses := (addrUses m.va m.sb).and { vw := elemRegs m.w64 m.vd ++ [m.vc.toNat] }

/-- n registers from one. -/
def regRun (a : VReg) (n : Nat) : List Nat := (List.range n).map (a.toNat + ·)

/-- A matrix instruction: the descriptor, and the scale with it (19 R293, R294). -/
def mxUses (s : State) (m : MX) (scaled : Bool) (n : Nat) : Uses :=
  { vt := regRun m.a n
    sr := m.desc.toNat :: if scaled && (slotAt s m.fs).scale == 1 then [m.desc.toNat + 1] else [] }

/-- The registers of MMA's and MMAZ's A operand. -/
def shapeRegs (m : MX) : Nat := match shapeOf m.shape with
  | some h => h.regs
  | none => 0

/-- The types of a CVTF: destination and source (06 R116). -/
def cvtfWide (s : State) (partner : CvtType) (fromSlot : Bool) (fs : BitVec 3) : Bool × Bool :=
  match cvtOfEfmt (slotAt s fs).efmt with
  | none => (false, false)
  | some t => if fromSlot then (cvtIs64 partner, cvtIs64 t) else (cvtIs64 t, cvtIs64 partner)

/-- The registers that an instruction reads and writes. -/
def uses (s : State) : Instr → Uses
  | .snop | .exit | .yield | .fence .. | .mrel | .tleave | .barrive | .barwait _ | .barsync _ | .seam .. | .waitc .. | .unlease
  | .trap _ | .eret | .brk | .iregion _ | .irend | .safept _ | .halt => {}
  | .smov d a | .saddi d a _ | .sandi d a _ | .sori d a _ | .sxori d a _ | .sshli d a _ | .sshri d a _ | .ssrai d a _ | .spopc d a
  | .sclz d a | .slith d a _ | .jmpr d a | .rpget d a => sUses d [a]
  | .smovi d _ | .slit d _ | .call d _ | .sread d _ | .rdsys d _ => sUses d []
  | .emrd d _ => sUses d []
  | .sadd d a b | .ssub d a b | .smul d a b | .smulh _ d a b | .sand d a b | .sor d a b | .sxor d a b | .sshl d a b | .sshr d a b
  | .ssra d a b | .smin _ d a b | .smax _ d a b | .scmp _ d a b => sUses d [a, b]
  | .scmov z d a b => if (readS s b == 0) = z then sUses d [a, b] else sReads [a, b]
  | .bra p neg _ => if p == 0 && !neg then {} else { pr := [p.toNat] }
  | .brp _ p _ _ => { pr := [p.toNat] }
  | .brz n _ | .brnz n _ => sReads [n]
  | .loop n _ => sUses n [n]
  | .plog d a b _ => { pr := [a.toNat, b.toNat], pw := [d.toNat] }
  | .pmovToPredicate d a => { sr := [a.toNat], pw := [d.toNat] }
  | .pmovToScalar d a | .pcnt d a _ | .pfirst d a _ => { sw := [d.toNat], pr := [a.toNat] }
  | .emwr a => { sr := [a.toNat], em := true }
  | .emwrPredicate _ a => { pr := [a.toNat], em := true }
  | .swrite n a => { sr := [a.toNat], fps := n == .fpstat }
  | .vmov f | .vabs _ f | .frcp f | .frsq f | .fsqrt f | .fexp2 f | .flog2 f | .fsinpi f | .fcospi f | .ftanh f | .popc f | .clz f
  | .brev f | .redi f _ | .redf f _ | .scan f _ _ | .bcast _ f => vr1Uses false false f
  | .vadd f | .vsub f | .vmul f | .vmulh _ f | .vand f | .vor f | .vxor f | .vandn f | .vshl f | .vshr f | .vsra f | .vmin _ f
  | .vmax _ f | .vadds _ f | .vsubs _ f | .fadd _ f | .fsub _ f | .fmul _ f | .fmin f | .fmax f | .hadd2 _ f | .hmul2 _ f
  | .pack _ f | .unpk f | .fdiv f | .bfe _ f | .shfl f | .shflup f | .shfldn f | .shflx f | .rdlane f | .wrlane f =>
    vrUses false false f
  | .vmad f | .ffma _ f | .ffms _ f | .hfma2 _ f | .bfma2 _ f | .dot4 _ f | .dot2h _ f | .bfi f | .funsh f => vrUses false true f
  | .vadd64 f | .vsub64 f | .dadd _ f | .dsub _ f | .dmul _ f | .dmin f | .dmax f => vrUses true false f
  | .dfma _ f => vrUses true true f
  | .vmulw _ f => ((srcUses false f.a).and (srcUses false f.b)).and (dstUses f.nwb true f.d)
  | .vsel m f => (vrUses false false f).and { pr := [m.toNat + 4] }
  | .vcmp _ f | .vcmpu _ f | .fcmp _ f => vcUses false f
  | .dcmp _ f => vcUses true f
  | .cvt _ f dst src => vr1Uses (cvtIs64 src) (cvtIs64 dst) f
  | .cvtf _ f t fromSlot fs => vr1Uses (cvtfWide s t fromSlot fs).2 (cvtfWide s t fromSlot fs).1 f
  | .drcpa f | .drsqa f => vr1Uses true true f
  | .bsinit a => (srcUses false a).and { bcur := true }
  | .bsrd f => ((srcUses true f.a).and (srcUses false f.b)).and ((dstUses f.nwb false f.d).and { bcur := true })
  | .bspeek f => ((srcUses true f.a).and (srcUses false f.b)).and (dstUses f.nwb false f.d)
  | .bsfill f => ((srcUses true f.a).and (srcUses false f.b)).and ((dstUses f.nwb true f.d).and { bcur := true })
  | .vote _ p a => (srcUses false a).and { pw := [p.toNat] }
  | .ldb m | .ldbs m => loadUses 1 m
  | .ldh m | .ldhs m => loadUses 2 m
  | .ldw m | .ldpw m | .ldaw m _ _ => loadUses 4 m
  | .ldd m | .ldpd m | .ldad m _ _ => loadUses 8 m
  | .ldq m => loadUses 16 m
  | .stb m => storeUses 1 m
  | .sth m => storeUses 2 m
  | .stw m | .strw m | .stpw m | .rdadd m | .rdmin m | .rdmax m | .rdand m | .rdor m | .rdxor m | .rdfadd m => storeUses 4 m
  | .std m | .strd m | .stpd m | .rddadd m => storeUses 8 m
  | .stq m => storeUses 16 m
  | .ldsw m => scratchLoadUses 4 m
  | .ldsd m => scratchLoadUses 8 m
  | .ldsq m => scratchLoadUses 16 m
  | .stsw m => scratchStoreUses 4 m
  | .stsd m => scratchStoreUses 8 m
  | .stsq m => scratchStoreUses 16 m
  | .migrate _ va sb => addrUses va sb
  | .homeof m => (addrUses m.va m.sb).and { vw := [m.vd.toNat] }
  | .mma m | .mmaz m => mxUses s m true (shapeRegs m)
  | .mmnp m => mxUses s m false (slotAt s m.fs).planes
  | .mctr m | .tzero m => mxUses s m false 0
  | .tldv m => (mxUses s m false 0).and { vw := regRun m.a (shapeCount m) }
  | .tstv m => mxUses s m false (shapeCount m)
  | .tepi m => mxUses s m true 0
  | .taddst m | .tstore m => (mxUses s m false 2).and { vr := regRun m.a 2 }
  | .itld a b _ _ | .cpin a b _ | .cpout a b _ | .cpfill a b _ => sReads [a, b]
  | .cpga a b c _ | .cpsc a b c _ | .sweep a b c _ _ _ _ => sReads [a, b, c]
  | .cpsig a x _ => sReads [a, x]
  | .atadd m | .atmin m | .atmax m | .atminu m | .atmaxu m | .atand m | .ator m | .atxor m | .atxch m | .atfadd m =>
    atomicUses false m
  | .atcas m => atomicUses true m
  | .dqpush m => pushUses m
  | .dqpop m | .dqsteal m => takeUses m
  | .tjoin a | .lease a | .wrsys _ a | .ckbegin _ a | .ckcommit _ a | .tlbinv a _ | .icinv a _ | .preempt _ a => sReads [a]
  | .genwait _ a b | .sigwait _ a b | .sigdec a b => sReads [a, b]
  | _ => {}

/-! ### Lanes that a lane-transfer instruction reads and writes (11 Table 11.3) -/

/-- Keys of the vector words that an instruction reads: for the lane transfers, only those of the lanes that they name. -/
def readKeys (s : State) (i : Instr) : List Nat :=
  let act := lanesOf s.active
  let low := lowestLane s.active
  let one (x : Src) (l : Nat) : List Nat := match x with
    | .v n => [vkey n.toNat l]
    | _ => []
  match i with
  | .rdlane f => (one f.b low ++ one f.a ((src32 s f.b low).toNat % 32)).filter fun k => s.active.getLsbD (k % 32)
  | .wrlane f => (one f.b low ++ one f.a low).filter fun k => s.active.getLsbD (k % 32)
  | .bcast last f => (one f.a (if last then highestLane s.active else low)).filter fun k => s.active.getLsbD (k % 32)
  | i => (uses s i).vr.flatMap fun r => act.map fun l => vkey r l

/-- The lanes in which an instruction writes vector registers. -/
def writtenLanes (s : State) (i : Instr) : LaneSet :=
  match i with
  | .wrlane f => s.active &&& laneBit ((src32 s f.b (lowestLane s.active)).toNat % 32)
  | _ => s.active

/-- The lanes in which an instruction writes a predicate (11 R184, 06 R112). -/
def predicateLanes (s : State) (i : Instr) : LaneSet :=
  match i with
  | .plog .. | .pmovToPredicate .. => s.g.sp.lanes
  | _ => s.active

/-! ### Instructions that the rules name -/

/-- An instruction that makes an iteration no spin: a store, posted operation, atomic, reduction, deque operation, copy or
matrix instruction, or one of class 7 (10 R180). TJOIN and TLEAVE, whose updates of a record are ordered as atomics, are not counted among
these (DESIGN CHOICE, log 118). -/
def actsOutside (c : EngineClass) : Instr → Bool
  | .stb _ | .sth _ | .stw _ | .std _ | .stq _ | .strw _ | .strd _ | .stpw _ | .stpd _ | .stsw _ | .stsd _ | .stsq _
  | .atadd _ | .atmin _ | .atmax _ | .atminu _ | .atmaxu _ | .atand _ | .ator _ | .atxor _ | .atxch _ | .atcas _ | .atfadd _
  | .rdadd _ | .rdmin _ | .rdmax _ | .rdand _ | .rdor _ | .rdxor _ | .rdfadd _ | .rddadd _ | .dqpush _ | .dqpop _ | .dqsteal _
  | .barrive | .barsync _ | .sigdec .. => true
  | _ => c == .mtx || c == .copy || c == .sys

/-- An instruction that closes an open region whatever it writes (22 R334); a second IREGION opens its own. -/
def closesAlways (c : EngineClass) : Instr → Bool
  | .atadd _ | .atmin _ | .atmax _ | .atminu _ | .atmaxu _ | .atand _ | .ator _ | .atxor _ | .atxch _ | .atcas _ | .atfadd _
  | .rdadd _ | .rdmin _ | .rdmax _ | .rdand _ | .rdor _ | .rdxor _ | .rdfadd _ | .rddadd _ | .dqpush _ | .dqpop _ | .dqsteal _
  | .barrive | .barsync _ | .sigdec .. | .taddst _ | .tjoin _ | .tleave | .lease _ | .unlease | .mrel | .ckbegin .. | .ckcommit ..
  | .emwr _ | .emwrPredicate .. | .irend | .exit | .iregion _ => true
  | _ => c == .copy

/-- An instruction that reads EM, or counts as reading it: SREAD of LANEID and those of 11 Tables 11.1 to 11.3 (10 R176, 11 R184,
R185). -/
def readsEM : Instr → Bool
  | .plog .. | .pmovToPredicate .. | .pmovToScalar .. | .emrd .. | .emwr _ | .emwrPredicate .. | .pcnt .. | .pfirst ..
  | .sread _ .laneid | .shfl _ | .shflup _ | .shfldn _ | .shflx _ | .redi .. | .redf .. | .scan .. | .rdlane _ | .wrlane _
  | .bcast .. => true
  | _ => false

/-- An instruction whose NWB keeps it from writing back (02 R36, 10 R180). -/
def unwritten : Instr → Bool
  | .bsrd f | .bsfill f => f.nwb
  | _ => false

/-- The target of a branch of class 0. -/
def branchOf (s : State) : Instr → Option DWord
  | .bra _ _ off | .brp _ _ _ off | .brz _ off | .brnz _ off | .call _ off | .loop _ off => some (branchTarget off s)
  | .jmpr _ a => some (readS s a)
  | _ => none

/-- A branch of class 0 whose target is at or below its own address, if it is taken (10 R180). -/
def isBackEdge (s : State) (i : Instr) : Bool := match branchOf s i with
  | some a => backward a s
  | none => false

/-- The branch of a back-edge was taken: the split stands at its target. A BRP counts its own when it resolves (10 R179). -/
def tookBackEdge (s : State) (i : Instr) (sp : Split) : Bool :=
  match i with
  | .brp .. => false
  | i => isBackEdge s i && sp.clause.stage == .idle && branchOf s i == some sp.pc

end Sys2Proof.Machine
end

