-- ==== Sys2Proof/Machine/Run.lean ====
section
/-! DEFINITION. One turn of the machine: which step comes next, and the issue of one instruction of a split's clause, with what
surrounds every instruction: the waits for registers and for MATRIX, checking, poison, regions, the spin detector, predicted
paths (spec/01 R13, spec/06 R100, spec/10 R176, R180, spec/22 R329 to R340, spec/95). -/

namespace Sys2Proof.Machine

/-- The words left in the clause of a split, from the instruction in execution. -/
def wordsLeft (sp : Split) : List Word := sp.clause.words.drop sp.clause.pos

/-- The instruction that a split executes next. -/
def nextInstr (sp : Split) : Except Reject Instr := decode sp.clause.hdr.cls (wordsLeft sp)

/-- The words of the instruction are counted. -/
def withLength (s : State) : State :=
  s.setSp fun sp => { sp with clause := { sp.clause with len := wordCount sp.clause.hdr.cls (lit0 (wordsLeft sp)) } }

/-! ### Before the instruction -/

/-- Registers that the split's issued loads and TLDVs are still to write (06 R100). -/
def pendingRegs (g : Group) : List Nat :=
  ((g.accs.filter fun a => a.owners.contains g.sp.idx).flatMap fun a => match a.kind with
    | .load n _ => (List.range (max 1 (n / 4))).map (a.vd + ·)
    | _ => [])
  ++ (g.mtx.filter fun o => o.op == 4 && g.sp.ops.any fun x => x.id == o.id).flatMap fun o => regRun o.m.a (shapeCount o.m)

/-- The instruction touches a register that is still to be written: it waits (06 R100). -/
def hazard (u : Uses) (g : Group) : Bool := (pendingRegs g).any fun r => u.vr.contains r || u.vw.contains r || u.vt.contains r

/-- The instruction writes a protected register (22 R334). -/
def writesProtected (s : State) (i : Instr) (u : Uses) (ls : LiveSet) : Bool :=
  (writtenLanes s i != 0 && u.vw.any (inMask ls.v)) || u.sw.any (fun k => k != 0 && inMask ls.s k)
    || (predicateLanes s i != 0 && u.pw.any fun k => k != 0 && inMask ls.p k) || (s.active != 0 && u.bcur && ls.b)

/-- The instruction closes the split's open region when it takes effect (22 R334). -/
def closes (s : State) (i : Instr) (u : Uses) : Bool :=
  match protectedSet s with
  | none => false
  | some ls => closesAlways s.g.sp.clause.hdr.cls i || writesProtected s i u ls

/-- A copy fault of a command of the split was reported, and the instruction waits for COPY: the fault is raised there (18 R290, 19
R308); behind another split's handler it is held there (21 R314; DEDUCED, log 40). -/
def faultInWait (i : Instr) (s : State) : Option TrapRec :=
  match i with
  | .waitc .copy n => if n.toNat < counter .copy s.g.sp && ownFault s.g && !s.g.sup then s.g.copyFault else none
  | _ => none

/-! ### After the instruction -/

/-- The instruction trapped, or an error of its own was taken, or its group is gone. -/
def trapped (s t : State) : Bool :=
  t.g.gid != s.g.gid || t.g.life != .live || (t.g.handler != s.g.handler && t.g.handler != .none) || t.g.sp.trap.isSome
    || t.g.sp.restart.isSome || t.g.rollback

/-- The instruction took effect: the split stands behind it, or has done what is not to be done again. -/
def tookEffect (s t : State) : Bool :=
  t.g.sp.idx == s.g.sp.idx
    && (t.g.sp.pc != s.g.sp.pc || t.g.sp.clause.stage != .issued || t.g.sp.clause.pos != s.g.sp.clause.pos
        || t.g.sp.wonly != s.g.sp.wonly)

/-- Classes 1 and 2, whose instructions read nothing where no lane is active (06 R98, 07 R119). -/
def perLane (c : EngineClass) : Bool := c == .valu || c == .vspc

/-- The poison that an instruction consumes: the lane, 0 for a scalar or predicate (22 R339, Table 22.4). The operands of a
moved instruction were read where it came from. -/
def poisonRead (s : State) (i : Instr) : Option Nat :=
  let u := uses s i
  if s.g.sp.tail.isSome || (perLane s.g.sp.clause.hdr.cls && s.active == 0) then none
  else
    if u.sr.any (fun k => Cells.get false s.g.sp.poisonS k) || u.pr.any (fun k => Cells.get false s.g.sp.poisonP k) then some 0
    else match ((readKeys s i).filter fun k => Cells.get false s.g.poisonV k).map (· % 32) with
      | [] => none
      | l :: ls => some (ls.foldl min l)

/-- Instructions that the checkers of 22 R329 guard: the scalar, vector, special-function and bit-stream datapaths, address generation
and the coalescer, through which TADDST and TSTORE store too (19 R300); of class 7 those that write a scalar. -/
def guarded (c : EngineClass) : Instr → Bool
  | .taddst _ | .tstore _ | .rdsys .. | .rpget .. => true
  | _ => c == .sctl || c == .valu || c == .vspc || c == .mem || c == .sync

/-- The lowest lane that an instruction works on: 0 for one of the scalar unit, and where no lane is active (22 R336). -/
def lowestAt (s : State) : Nat :=
  if s.g.sp.clause.hdr.cls == .sctl || s.g.sp.clause.hdr.cls == .sys || s.active == 0 then 0 else lowestLane s.active

/-- The instruction is an eligible event of KIND 1 (22 Table 22.1). -/
def countsAsOne (s : State) : Bool := s.g.sp.clause.hdr.cls == .valu && s.active != 0

/-- The values that an instruction wrote, in its destination registers, in the order of their numbers (10 R180): kind, key
and value. A load's are filled in when it is performed. -/
def writesOf (s : State) (i : Instr) (u : Uses) (t : State) : List (Nat × Nat × Nat) :=
  let pl := predicateLanes s i
  let loads := (t.g.accs.filter fun a => s.fresh ≤ a.id).map fun a => (9, a.id, 0)
  (if loads.isEmpty then
      u.vw.flatMap fun r => (lanesOf (writtenLanes s i)).map fun l => (0, vkey r l, (t.g.lane r l).toNat)
    else loads)
    ++ (u.sw.filter (· != 0)).map (fun k => (1, k, (Cells.get 0 t.g.sp.s k).toNat))
    ++ (u.pw.filter (· != 0)).map (fun k => (2, k, pl.toNat * 2 ^ 32 + (Cells.get 0 t.g.p k &&& pl).toNat))
    ++ (if u.em then [(3, s.g.sp.lanes.toNat, (t.g.em &&& s.g.sp.lanes).toNat)] else [])
    ++ (if u.bcur && !unwritten i then (lanesOf s.active).map fun l => (4, l, (Cells.get 0 t.g.bcur l).toNat) else [])
    ++ if u.fps then [(5, 0, t.g.sp.fpstat.toNat)] else []

/-- The spin detector sees an instruction that took effect (10 R180). -/
def watchSpin (s : State) (i : Instr) (u : Uses) (t : State) : State :=
  t.setSp fun sp =>
    let sp1 := { sp with trace := sp.trace ++ writesOf s i u t, dirty := sp.dirty || actsOutside s.g.sp.clause.hdr.cls i }
    if tookBackEdge s i sp then endIteration sp1 else sp1

/-- Writes of the registers that a reuse latch holds empty it (18 R283); where no lane is written there is none. -/
def watchReuse (s : State) (i : Instr) (u : Uses) (t : State) : State :=
  if writtenLanes s i == 0 then t else dropTagged s.g.gid u.vw t

/-- A split that waits in WAITC stops there behind a pre-emption request (21 R324). -/
def stopInWait (i : Instr) (s t : State) : State :=
  match i with
  | .waitc .. => if !tookEffect s t && wantsStop t.g then t.setSp fun sp => { sp with stopped := true } else t
  | _ => t

/-- IREGION closes a region by opening its own (22 R333). -/
def opensRegion : Instr → Bool
  | .iregion _ => true
  | _ => false

/-- What follows an instruction that did not trap: its region closes, and the detector and the reuse latch see it. -/
def afterEffect (s : State) (i : Instr) (u : Uses) (t : State) : State :=
  if tookEffect s t then
    let t1 := if closes s i u && !opensRegion i then t.setSp fun sp => { sp with region := none } else t
    watchReuse s i u (watchSpin s i u t1)
  else stopInWait i s t

/-- The instruction's outcome with checking around it: a trap of its own comes first, then poison that it reads, then a mismatch
of a checker, injected or real; each leaves the instruction without effect (22 R329, R332, R339). -/
def checkInstr (i : Instr) (mismatch : Bool) (s : State) (r : Result) : Result :=
  match r with
  | .next t =>
    if trapped s t then .next t
    else match poisonRead s i with
      | some l => .next (consumePoison l 0 s)
      | none =>
        let s1 := if countsAsOne s then countInjection 1 s else s
        if (mismatch && guarded s.g.sp.clause.hdr.cls i) || (countsAsOne s && injFires 1 s.g.diaginj) then
          .next (takeError (instrTrap 0x20 3 (lowestAt s) 0 s) s1)
        else .next (afterEffect s i (uses s i) (if countsAsOne s then countInjection 1 t else t))
  | r => r

/-- An instruction that closes a region waits until MATRIX is 0; an error reported meanwhile comes first (22 R335). -/
def drainRegion (s : State) : Option State :=
  match s.g.sp.err with
  | some t => some (takeError t (s.setSp fun sp => { sp with err := none }))
  | none => if counter .matrix s.g.sp ≠ 0 then some s else none

/-- A back-edge at which the detector may fire waits for the loads whose values it compares (10 R180; log 41). -/
def awaitsLoads (s : State) (i : Instr) : Bool := isBackEdge s i && spinAwaits s.g.sp

/-- The instruction executes, once nothing makes it wait. -/
def executeInstr (i : Instr) (mismatch : Bool) (s : State) : Result :=
  match faultInWait i s with
  | some t => .next (raiseCopyFault t (instrPc s) s)
  | none =>
    let u := uses s i
    if hazard u s.g || awaitsLoads s i then .next s
    else match (if closes s i u then drainRegion s else none) with
      | some t => .next t
      | none => checkInstr i mismatch s (exec i s)

/-- The outcome is an illegal-instruction or an illegal-operand trap of the instruction. -/
def encodingTrap (s : State) (r : Result) : Bool :=
  match r with
  | .next t => decide (t = takeTrap (instrTrap 0x02 3 0 0 s) s) || decide (t = takeTrap (instrTrap 0x03 3 0 0 s) s)
  | _ => false

/-- The instruction of a split's clause executes. The safe-point overrun comes before it, but behind its encoding traps (21 R323, 02
R44, log 72). -/
def runInstr (mismatch : Bool) (s0 : State) : Result :=
  let s := withLength s0
  match nextInstr s.g.sp with
  | .error _ => illegalInstruction s
  | .ok i =>
    if overruns s.g then (if encodingTrap s (exec i s) then exec i s else trapAt 0x11 3 0 0 s)
    else executeInstr i mismatch s

/-! ### Predicted paths (10 R176) -/

/-- The path after an instruction that issued into the hem buffer. -/
def Path.advance (p : Path) (h : Header) (n : Nat) : Path :=
  if p.pos + n < h.n then { p with pos := p.pos + n, count := p.count + 1 }
  else { p with pc := p.pc + BitVec.ofNat 64 (4 * (h.n + 1)), pos := 0, count := p.count + 1 }

/-- One more instruction issues on the predicted side, unless issue stops before it. One that qualifies for a trap issues too,
and nothing after it; so does a header that fails its check (10 R176, R179). -/
def holdOne (s : State) (p : Path) : Path :=
  if p.shut then p
  else match fetchClause s p.pc with
    | .error _ => { p with shut := true, count := p.count + 1 }
    | .ok (h, ws) =>
      let w := ws.drop p.pos
      if !h.s || !(h.cls == .sctl || h.cls == .valu || h.cls == .vspc) || 12 ≤ p.count then { p with shut := true }
      else if !clauseReady { s.g.sp with clause := { hdr := h } } then p
      else match decode h.cls w with
        | .error _ => { p with shut := true, count := p.count + 1 }
        | .ok i =>
          if readsEM i || (h.cls == .sctl && endsClause h.cls (lit0 w)) then { p with shut := true }
          else p.advance h (wordCount h.cls (lit0 w))

/-! ### Turns -/

/-- A turn of a split: its next instruction executes, or one more issues on its predicted path. A split that cannot go on
changes nothing. -/
def runTurn (gid : Word) (sp : Nat) (mismatch : Bool) (s : State) : Result :=
  match focus gid sp s with
  | none => .next s
  | some s1 =>
    if !(mayGo s1.g && s1.g.sp.clause.stage == .issued) then .next s1
    else match onPath s1.g with
      | some p => .next { s1 with g := { s1.g with path := some (holdOne s1 p) } }
      | none => runInstr mismatch s1

/-- Bytes of the image that an UPDATE names. -/
def updateImage (s : State) (c : CmdArgs) : List Byte := Cells.getMany 0 s.mem c.a1.toNat c.a2.toNat

/-- The next command of a package's ring (26 R380). -/
def takeCommand (pkg : Nat) (s : State) : Result :=
  let c := cmdArgs s pkg
  match cmdCode s pkg with
  | 0x01 => execRegq c s
  | 0x02 => execUnregq c s
  | 0x03 => execPreemptCommand c s
  | 0x04 => execResume c s
  | 0x05 => execKill c s
  | 0x06 => execReplay c s
  | 0x07 => execDrain c s
  | 0x08 => execUpdate c (Config.updateSigned (updateImage s c)) (Config.calibrates s.free) s.spend
  | 0x09 => execHomeReturn c s
  | 0x0A => execRoute c s
  | 0x0B => execMovlist c s
  | 0x0C => execHwin c s
  | 0x0D => execAttest c s
  | 0x0E => execMove c s
  | 0x0F => execPartner c s
  | 0x10 => execTlbinvCommand c s
  | 0x11 => execIcinvCommand c s
  | _ => execUnknownCommand c s

/-- One turn. A turn of something that is not due changes nothing. -/
def performTurn (t : Turn) (s : State) : Result :=
  match t with
  | .run gid sp => runTurn gid sp false s
  | .runMismatch gid sp => runTurn gid sp true s
  | .event i => exec i s
  | .eccError site => execUncorrectableEccError site s
  | .packetFail src dst => .next (failPacket src dst 0 s)
  | .arrivalFail src dst => .next (failPacket src dst 3 s)
  | .accessFail gid id => .next (failAccess gid id s)
  | .copyFail gid cmd => .next (failCopy gid cmd s)
  | .clauseFetch gid sp => execClauseFetch gid sp s
  | .clauseIssue gid sp => execClauseIssue gid sp s
  | .trapEntry gid sp => execTrapEntry gid sp s
  | .handlerStart gid => execHandlerStart gid s
  | .regionRestart gid sp => execRegionRestart gid sp s
  | .teamRollback gid => execTeamRollback gid s
  | .accessComplete gid id => execInPlaceAccessComplete gid id s
  | .packetAccept src dst => execPacketAccept src dst s
  | .hierarchicalArrival src dst => execHierarchicalArrival src dst s
  | .mirrorAccept home => execMirrorCopyAccept home s
  | .runClose home pa => execHotLineRunClose home pa s
  | .roceAck home => execRoceAcknowledgement home s
  | .arrivalAck gid => execArrivalAcknowledge gid s
  | .holdEnd gid sp => execOrderingHoldEnd gid sp s
  | .jacketDepart gid sp => execJacketDepart gid sp s
  | .cross src dst cls => .next (crossPacket src dst cls s)
  | .copyCross src dst => .next (crossMirror src dst s)
  | .release src dst cls => .next (releaseItem src dst cls s)
  | .hostStep pkg id home => .next (hostStep pkg id home s)
  | .jacketArrive gid sp => execJacketArrive gid sp s
  | .admission home => execAdmitItem home s
  | .waitWake gid sp => execWaitWake gid sp s
  | .spinFire gid sp => execSpinDetectorFire gid sp s
  | .spinTimeout gid sp => execSpinWaitTimeout gid sp s
  | .brpResolve gid => execBrpResolve gid s
  | .operandsConsumed gid => execMatrixOperandsConsumed gid s
  | .matrixComplete gid => execMatrixComplete gid false s
  | .copyStart gid => execCopyStart gid s
  | .copyFinish gid cmd => execCopyFinish gid cmd s
  | .copyFault gid => execCopyFaultReport gid s
  | .preemptSave gid => execPreemptSave gid s
  | .teamSave gid => execTeamSave gid s
  | .groupRetire gid => execGroupRetire gid s
  | .cardTake home queue => execCardTake home queue s
  | .chunkDeal home => execChunkDeal home s
  | .steal home => execSteal home s
  | .partnerWrite home value => execPartnerWrite home value s
  | .registerWrite home offset value => execRegisterWrite home offset value s
  | .pageMoveStart home => execPageMoveStart home s
  | .pageCopy home => execPageCopy home s
  | .mirrorRepair pa => .next (repairMirrored pa s)
  | .rewriteFail pa => .next (failRewrite pa s)
  | .mirrorUnreachable pa => .next (loseUnreachable pa s)
  | .cutover home => execCutover home s
  | .redirect src dst => execRedirect src dst s
  | .pageMoveEnd home => execPageMoveEnd home s
  | .invalidated id => execInvalidationComplete id s
  | .crcComplete gid => execCheckpointCrcComplete gid s
  | .command pkg => takeCommand pkg s
  | .homeDrained home => execHomeDrained home s
  | .clock pkg die => execClockIncrement pkg die s

/-! ### The default agenda (log 1) -/

/-- Turns of one split. -/
def splitTurns (g : Group) (sp : Split) : List Turn :=
  [.run g.gid sp.idx, .clauseFetch g.gid sp.idx, .clauseIssue g.gid sp.idx, .trapEntry g.gid sp.idx, .regionRestart g.gid sp.idx,
   .holdEnd g.gid sp.idx, .jacketDepart g.gid sp.idx]
    ++ (match sp.sent with
      | some (h, _) => if homePkg h = homePkg sp.home then [] else [.release (homePkg h) (homePkg sp.home) 1]
      | none => [])
    ++ [.jacketArrive g.gid sp.idx, .waitWake g.gid sp.idx, .spinFire g.gid sp.idx, .spinTimeout g.gid sp.idx]

/-- Turns of one group. -/
def groupTurns (g : Group) : List Turn :=
  if g.life == .vacant then []
  else
    g.accs.map (fun a => .accessComplete g.gid a.id) ++ g.splits.flatMap (splitTurns g)
      ++ [.brpResolve g.gid, .handlerStart g.gid, .teamRollback g.gid, .operandsConsumed g.gid, .matrixComplete g.gid,
          .copyStart g.gid, .copyFault g.gid, .arrivalAck g.gid, .crcComplete g.gid, .preemptSave g.gid, .teamSave g.gid,
          .groupRetire g.gid]
      ++ g.copies.map fun c => .copyFinish g.gid c.id

/-- Turns of one home. -/
def homeTurns (e : Nat × Home) : List Turn :=
  e.2.queues.map (fun q => .cardTake e.1 q.id) ++ [.chunkDeal e.1, .steal e.1, .chunkDeal e.1, .admission e.1] ++ e.2.runs.map (fun r => .runClose e.1 r.pa)
    ++ [.pageMoveStart e.1] ++ List.replicate 64 (.pageCopy e.1) ++ [.cutover e.1, .pageMoveEnd e.1, .homeDrained e.1]

/-- Turns of one request of the host: one of each of its steps, and its end. -/
def requestTurns (p : Nat) (r : HostReq) : List Turn := match r.op with
  | .send hdr _ _ => List.replicate 4 (.hostStep p r.id (homeOfPa hdr)) ++ r.lines.map fun l => .hostStep p r.id (homeOfPa l.pa)
  | _ => r.lines.map (fun l => .hostStep p r.id (homeOfPa l.pa)) ++ [.hostStep p r.id 0]

/-- Turns of one package. -/
def packageTurns (e : Nat × Pkg) : List Turn :=
  [.command e.1] ++ e.2.reqs.flatMap (requestTurns e.1) ++ e.2.dies.map fun d => .clock e.1 d.1

/-- Turns of one packet: it crosses to another package, its window releases it, and its home accepts it; a held one whose group is gone
may go on. -/
def packetTurns (s : State) (p : Packet) : List Turn :=
  (if p.held then match p.gid with
      | some g => if s.groups.any fun x => x.life != .vacant && x.gid == g then [] else [.holdEnd g 0]
      | none => []
    else [])
  ++ (if homePkg p.src = homePkg p.dst then [] else [.cross p.src p.dst p.cls, .release (homePkg p.src) (homePkg p.dst) p.cls])
  ++ [if p.cls = 3 then .hierarchicalArrival p.src p.dst else .packetAccept p.src p.dst]

/-- Turns of one copy for a mirror. -/
def mirrorTurns (m : Nat × Packet) : List Turn :=
  (if homePkg m.2.src = homePkg m.1 then [] else [.copyCross m.2.src m.1, .release (homePkg m.2.src) (homePkg m.1) 0]) ++ [.mirrorAccept m.1]

/-- One round over everything that may take a step. -/
def roundTurns (s : State) : List Turn :=
  groupTurns s.g ++ s.others.flatMap groupTurns ++ s.packets.flatMap (packetTurns s) ++ s.mirrors.flatMap mirrorTurns
    ++ s.roce.map (fun r => .roceAck r.home) ++ s.invals.map (fun v => .invalidated v.id)
    ++ s.homes.flatMap homeTurns ++ s.pkgs.flatMap packageTurns

/-- The turn that comes next, and the agenda without it: its head; an empty agenda is filled with a round, in a machine without work with the
clock of die 0 (log 1). -/
def takeTurn (s : State) : Turn × State :=
  match s.agenda with
  | t :: rest => (t, { s with agenda := rest })
  | [] => match roundTurns s with
    | t :: rest => (t, { s with agenda := rest })
    | [] => (.clock 0 0, s)

/-- The next turn, and the state that it meets: levels that have lost their last candidate have lost their counts (12 R203). -/
def nextTurn (s : State) : Turn × State := ((takeTurn s).1, settleLevels (takeTurn s).2)

/-! ### A word as the next instruction (log 7, 8) -/

/-- One instruction, in the clause of one word or two that holds it, stands issued on the focused split of a live group that
nothing stops. -/
def placeWord (c : EngineClass) (ws : List Word) (s : State) : State :=
  { s with
    agenda := [.run s.g.gid s.g.sp.idx]
    g := { s.g with
      life := .live
      rollback := false
      path := none
      copyFault := none
      accs := s.g.accs.filter fun a => !a.owners.contains s.g.sp.idx
      sibs := s.g.sibs.filter fun x => x.joins != some s.g.sp.idx
      sp := { s.g.sp with
        status := .runnable
        part := some (s.g.sp.part.getD 0)
        stopped := false
        move := none
        sent := none
        cross := none
        jacket := none
        await := none
        crc := 0
        restart := none
        trap := none
        inval := none
        region := none
        tail := none
        safe := 0
        clause := { stage := .issued, words := ws, hdr := { n := ws.length, cls := c, s := false, y := false, wcopy := 15,
                                                             wmtx := 15, wpost := 15, wsync := 15 } } } } }

/-- The words of a table word that its instruction occupies, in its class. -/
def placeTableWord (nbits w : Nat) (s : State) : State :=
  let ws := tableWords (w % 2 ^ nbits)
  match tableInstr nbits w with
  | none => placeWord .sctl (ws.take 1) s
  | some (c, _) => placeWord c (ws.take (wordCount c (lit0 ws))) s

end Sys2Proof.Machine
end

