-- ==== Sys2Proof/Machine/Step.lean ====
section
/-! DEFINITION. The step of the machine. -/

namespace Sys2Proof.Machine

/-- One step: the next turn is taken (log 1). -/
def step (s : State) : Host.Outcome State Fault Refusal :=
  performTurn (nextTurn s).1 (nextTurn s).2

/-- The state in which the next step runs the instruction of a table word (log 7, 8). -/
def State.withFetchWord (s : State) (nbits w : Nat) : State := placeTableWord nbits w s

end Sys2Proof.Machine
end

