-- ==== Sys2Proof/Safety.lean ====
section
/-! DEFINITION. What a safe run of the machine is, in the terms that claims use. -/

namespace Sys2Proof.Machine

/-- Memory stands in its canonical form: addresses rise strictly and no listed byte is 0. -/
abbrev Memory.wf (m : Bytes) : Bool := Cells.wf 0 m

/-- The two memories: the device's, and the host's behind the host windows. -/
abbrev State.mems (s : State) : Bytes × Bytes := (s.mem, s.hostMem)

/-- Both stand in their canonical form. -/
def Mems.wf (m : Bytes × Bytes) : Bool := Memory.wf m.1 && Memory.wf m.2

/-- The machine goes on: the step answers a next state. -/
def goesOn (s : State) : Prop := ∃ t, step s = .next t

end Sys2Proof.Machine
end

