-- ==== Sys2Proof/Certificates/Slice0/Obligations.lean ====
section
/-! DEFINITION. The statements for the provers. Every statement is about `exec`, `step`, `decode`, `encode` or a shared operation of
the model; the tables of the spec stand in `Rules` as functions from instructions to what they write. -/

open Sys2Proof Sys2Proof.Machine

namespace Sys2Proof.Rules
open Sys2Proof Sys2Proof.Machine

/-! ### What the frames compare -/

/-- Nothing outside the group whose turn it is has changed, and every byte of memory reads as before. -/
def OutsideGroup (s t : State) : Prop := { t with g := s.g } = s ∧ ∀ a, Bytes.read t.mem a = Bytes.read s.mem a

/-- Of the group's own fields only these may differ: general registers and their poison, predicates, EM, BCUR, and its
splits. -/
def OutsideRegisters (s t : State) : Prop :=
  { t.g with v := s.g.v, poisonV := s.g.poisonV, p := s.g.p, em := s.g.em, bcur := s.g.bcur, sp := s.g.sp } = s.g

/-- Of the split's own fields only these may differ: scalars and their poison, the poison of predicates, FPSTAT, and what
the end of an instruction writes (the PC, the clause with its latches, the moved operands, the count of committed
instructions, the deferral of a prediction and the turn given up). -/
def OutsideSplit (s t : State) : Prop :=
  { t.g.sp with s := s.g.sp.s, poisonS := s.g.sp.poisonS, poisonP := s.g.sp.poisonP, fpstat := s.g.sp.fpstat, pc := s.g.sp.pc,
                clause := s.g.sp.clause, tail := s.g.sp.tail, safe := s.g.sp.safe, defer := s.g.sp.defer,
                yielded := s.g.sp.yielded } = s.g.sp

/-- The sum, difference or product that an unsigned or signed reading of a word gives. -/
def asInt (sgn : Bool) {w : Nat} (a : BitVec w) : Int := if sgn then a.toInt else a.toNat

/-! ### Class 0: values (spec/05 R83 to R86, R94, spec/11 R184) -/

/-- SCMP's conditions as comparisons of integers (Table 5.3). -/
def scmpTrue (c : SCond) (a b : DWord) : Prop :=
  match c with
  | .eq => a = b
  | .ne => a ≠ b
  | .lt => a.toInt < b.toInt
  | .le => a.toInt ≤ b.toInt
  | .gt => b.toInt < a.toInt
  | .ge => b.toInt ≤ a.toInt
  | .ltu => a.toNat < b.toNat
  | .leu => a.toNat ≤ b.toNat
  | .gtu => b.toNat < a.toNat
  | .geu => b.toNat ≤ a.toNat

/-- The destination of a class-0 instruction and the exact number whose low 64 bits it receives (Tables 5.1, 5.2, R86). -/
def scalar (s : State) : Instr → Option (SReg × Int)
  | .smov d a => some (d, (readS s a).toNat)
  | .smovi d i => some (d, i.toInt)
  | .slit d l => some (d, l.toInt)
  | .slith d a l => some (d, l.toNat * 2 ^ 32 + (readS s a).toNat % 2 ^ 32)
  | .sadd d a b => some (d, (readS s a).toNat + (readS s b).toNat)
  | .saddi d a i => some (d, (readS s a).toNat + i.toInt)
  | .ssub d a b => some (d, (readS s a).toNat - (readS s b).toNat)
  | .smul d a b => some (d, (readS s a).toNat * (readS s b).toNat)
  | .smulh g d a b => some (d, asInt g (readS s a) * asInt g (readS s b) / 2 ^ 64)
  | .sand d a b => some (d, (readS s a &&& readS s b).toNat)
  | .sandi d a i => some (d, (readS s a &&& BitVec.ofInt 64 i.toInt).toNat)
  | .sor d a b => some (d, (readS s a ||| readS s b).toNat)
  | .sori d a i => some (d, (readS s a ||| BitVec.ofInt 64 i.toInt).toNat)
  | .sxor d a b => some (d, (readS s a ^^^ readS s b).toNat)
  | .sxori d a i => some (d, (readS s a ^^^ BitVec.ofInt 64 i.toInt).toNat)
  | .sshl d a b => some (d, (readS s a).toNat * 2 ^ (readS s b).toNat)
  | .sshli d a n => some (d, (readS s a).toNat * 2 ^ n.toNat)
  | .sshr d a b => some (d, (readS s a).toNat / 2 ^ (readS s b).toNat)
  | .sshri d a n => some (d, (readS s a).toNat / 2 ^ n.toNat)
  | .ssra d a b => some (d, (readS s a).toInt / 2 ^ (readS s b).toNat)
  | .ssrai d a n => some (d, (readS s a).toInt / 2 ^ n.toNat)
  | .smin g d a b => some (d, min (asInt g (readS s a)) (asInt g (readS s b)))
  | .smax g d a b => some (d, max (asInt g (readS s a)) (asInt g (readS s b)))
  | .spopc d a => some (d, ((List.range 64).filter fun k => (readS s a).getLsbD k).length)
  | .sclz d a => some (d, ((List.range 64).takeWhile fun k => !(readS s a).getLsbD (63 - k)).length)
  | .scmov z d a b => if (readS s b = 0) ↔ z = true then some (d, (readS s a).toNat) else none
  | .pmovToScalar d a => some (d, (readP s a &&& s.g.sp.lanes).toNat)
  | .emrd d lanes => some (d, (if lanes then s.g.sp.lanes else s.g.sp.lanes &&& s.g.em).toNat)
  | .pcnt d a lanes =>
    some (d, (lanesOf (readP s a &&& (if lanes then s.g.sp.lanes else s.g.sp.lanes &&& s.g.em))).length)
  | .pfirst d a last =>
    let m := lanesOf (readP s a &&& s.g.sp.lanes &&& s.g.em)
    some (d, ((if last then m.getLast? else m.head?).getD 32 : Nat))
  | .sread d .laneid => some (d, ((lanesOf (s.g.sp.lanes &&& s.g.em)).head?.getD 32 : Nat))
  | .sread d .grpid => some (d, s.g.gid.toNat)
  | .sread d .teamid => some (d, s.g.teamId.toNat)
  | .sread d .splitid => some (d, s.g.sp.idx)
  | .sread d .homeid => some (d, s.g.sp.home)
  | .sread d .basehome => some (d, s.g.baseHome)
  | .sread d .coreslot => some (d, (s.g.sp.part.getD 0 % 4096 : Nat))
  | .sread d .resgen => some (d, s.g.sp.resgen.toNat)
  | .sread d .clock => some (d, (clockOf s (s.g.sp.part.getD 0)).toNat)
  | .sread d .fpstat => some (d, s.g.sp.fpstat.toNat)
  | .sread d .recidx => some (d, s.g.recIdx.toNat)
  | .sread d .grpinrec => some (d, s.g.grpInRec.toNat)
  | _ => none

/-! ### Classes 1 and 2: values per lane (spec/06, spec/07, spec/11) -/

/-- A vector instruction with a register result: NWB, the destination and whether it is a pair, the sources with whether
they are read as pairs, the number whose low bits a lane receives, and the flags that a lane raises. -/
structure VecRule where
  nwb : Bool
  d : VReg
  wide : Bool := false
  srcs : List (Bool × Src)
  r : Nat → Int
  fl : Nat → Word := fun _ => 0

/-- Every register that the instruction names is legal (R7, R32, R44). -/
def VecRule.legal (q : VecRule) (s : State) : Bool := q.srcs.all (fun x => srcOk s x.1 x.2) && regOk s q.wide q.d

/-- The state after the instruction: the register and latch, the flags of the active lanes, the next instruction. -/
def VecRule.after (q : VecRule) (s : State) : State :=
  complete (raiseFlags (flagsOf s.active q.fl)
    (if q.wide then result64 q.nwb q.d (fun l => BitVec.ofInt 64 (q.r l)) s
     else result32 q.nwb q.d (fun l => BitVec.ofInt 32 (q.r l)) s))

/-- A VR instruction of 32-bit operands a and b and the old destination d. -/
def three (s : State) (f : VR) (r : Word → Word → Word → Int) (fl : Word → Word → Word → Word := fun _ _ _ => 0) : VecRule :=
  { nwb := f.nwb, d := f.d, srcs := [(false, f.a), (false, f.b)]
    r := fun l => r (src32 s f.a l) (src32 s f.b l) (s.g.lane f.d.toNat l)
    fl := fun l => fl (src32 s f.a l) (src32 s f.b l) (s.g.lane f.d.toNat l) }

/-- A VR instruction of one 32-bit operand. -/
def one (s : State) (f : VR1) (r : Word → Int) (fl : Word → Word := fun _ => 0) : VecRule :=
  { nwb := f.nwb, d := f.d, srcs := [(false, f.a)], r := fun l => r (src32 s f.a l), fl := fun l => fl (src32 s f.a l) }

/-- An exact number clamped to 32 bits, and SAT when it was (R104). -/
def clamped (sgn : Bool) (x : Int) : Int := if sgn then max (-2 ^ 31) (min (2 ^ 31 - 1) x) else max 0 (min (2 ^ 32 - 1) x)
def clampFlag (sgn : Bool) (x : Int) : Word := if clamped sgn x = x then 0 else flagSAT

/-- The integer instructions of class 1 (Tables 6.1 and 6.2, R103 to R106, R110), UNPK, and the bit-field instructions of
class 2 (R124 to R126). -/
def intVec (s : State) : Instr → Option VecRule
  | .vmov f => some (one s f fun a => a.toNat)
  | .vadd f => some (three s f fun a b _ => a.toNat + b.toNat)
  | .vsub f => some (three s f fun a b _ => a.toNat - b.toNat)
  | .vmul f => some (three s f fun a b _ => a.toNat * b.toNat)
  | .vmulh g f => some (three s f fun a b _ => asInt g a * asInt g b / 2 ^ 32)
  | .vmad f => some (three s f fun a b d => a.toNat * b.toNat + d.toNat)
  | .vand f => some (three s f fun a b _ => (a &&& b).toNat)
  | .vor f => some (three s f fun a b _ => (a ||| b).toNat)
  | .vxor f => some (three s f fun a b _ => (a ^^^ b).toNat)
  | .vandn f => some (three s f fun a b _ => (a &&& ~~~b).toNat)
  | .vshl f => some (three s f fun a b _ => a.toNat * 2 ^ b.toNat)
  | .vshr f => some (three s f fun a b _ => a.toNat / 2 ^ b.toNat)
  | .vsra f => some (three s f fun a b _ => a.toInt / 2 ^ b.toNat)
  | .vmin g f => some (three s f fun a b _ => min (asInt g a) (asInt g b))
  | .vmax g f => some (three s f fun a b _ => max (asInt g a) (asInt g b))
  | .vabs sat f => some (one s f (fun a => if sat then min (2 ^ 31 - 1) a.toInt.natAbs else a.toInt.natAbs)
      (fun a => if sat ∧ a.toInt = -2 ^ 31 then flagSAT else 0))
  | .vadds g f => some (three s f (fun a b _ => clamped g (asInt g a + asInt g b)) (fun a b _ => clampFlag g (asInt g a + asInt g b)))
  | .vsubs g f => some (three s f (fun a b _ => clamped g (asInt g a - asInt g b)) (fun a b _ => clampFlag g (asInt g a - asInt g b)))
  | .vadd64 f => some { nwb := f.nwb, d := f.d, wide := true, srcs := [(true, f.a), (true, f.b)]
                        r := fun l => (src64 s f.a l).toNat + (src64 s f.b l).toNat }
  | .vsub64 f => some { nwb := f.nwb, d := f.d, wide := true, srcs := [(true, f.a), (true, f.b)]
                        r := fun l => (src64 s f.a l).toNat - (src64 s f.b l).toNat }
  | .vmulw g f => some { nwb := f.nwb, d := f.d, wide := true, srcs := [(false, f.a), (false, f.b)]
                         r := fun l => asInt g (src32 s f.a l) * asInt g (src32 s f.b l) }
  | .vsel m f => some { nwb := f.nwb, d := f.d, srcs := [(false, f.a), (false, f.b)]
                        r := fun l => if (readP s (BitVec.ofNat 3 (m.toNat + 4))).getLsbD l then (src32 s f.a l).toNat
                                      else (src32 s f.b l).toNat }
  | .dot4 g f => some (three s f fun a b d =>
      d.toNat + ((List.range 4).map fun k => asInt g (a.extractLsb' (8 * k) 8) * asInt g (b.extractLsb' (8 * k) 8)).sum)
  | .unpk f => some (three s f fun a b _ => if b.toNat % 2 = 1 then a.toNat / 2 ^ 16 * 2 ^ 16 else a.toNat * 2 ^ 16)
  | .popc f => some (one s f fun a => ((List.range 32).filter fun k => a.getLsbD k).length)
  | .clz f => some (one s f fun a => ((List.range 32).takeWhile fun k => !a.getLsbD (31 - k)).length)
  | .brev f => some (one s f fun a => ((List.range 32).map fun k => if a.getLsbD (31 - k) then (2 ^ k : Int) else 0).sum)
  | .bfe g f => some (three s f fun a b _ =>
      let o := b.toNat % 256
      let n := if o < 32 then min (b.toNat / 256 % 256) (32 - o) else 0
      let x := a.toNat / 2 ^ o % 2 ^ n
      if g ∧ 0 < n ∧ 2 ^ (n - 1) ≤ x then (x : Int) - 2 ^ n else x)
  | .bfi f => some (three s f fun a b d =>
      let o := b.toNat % 256
      let n := if o < 32 then min (b.toNat / 256 % 256) (32 - o) else 0
      d.toNat - d.toNat / 2 ^ o % 2 ^ n * 2 ^ o + a.toNat % 2 ^ n * 2 ^ o)
  | .funsh f => some (three s f fun a b d => (a.toNat * 2 ^ 32 + d.toNat) / 2 ^ (b.toNat % 32))
  | _ => none

/-- A pattern and its flags, of 32 or 64 bits. -/
def fp (nwb : Bool) (d : VReg) (wide : Bool) (srcs : List (Bool × Src)) (r : Nat → Nat × Word) : VecRule :=
  { nwb := nwb, d := d, wide := wide, srcs := srcs, r := fun l => (r l).1, fl := fun l => (r l).2 }

/-- Both halves of a packed pair, with the flags of both (R109). -/
def halves (f : Nat → Nat × Word) : Nat × Word := ((f 0).1 + (f 1).1 * 2 ^ 16, (f 0).2 ||| (f 1).2)

/-- An FP32 instruction of three operands. -/
def fp3 (s : State) (f : VR) (r : Nat → Nat → Nat → Nat × Word) : VecRule :=
  fp f.nwb f.d false [(false, f.a), (false, f.b)]
    fun l => r (src32 s f.a l).toNat (src32 s f.b l).toNat (s.g.lane f.d.toNat l).toNat

/-- An FP32 instruction of one operand. -/
def fp1 (s : State) (f : VR1) (r : Nat → Nat × Word) : VecRule :=
  fp f.nwb f.d false [(false, f.a)] fun l => r (src32 s f.a l).toNat

/-- An FP64 instruction. -/
def dp3 (s : State) (f : VR) (r : Nat → Nat → Nat → Nat × Word) : VecRule :=
  fp f.nwb f.d true [(true, f.a), (true, f.b)]
    fun l => r (srcF64 s f.a l).toNat (srcF64 s f.b l).toNat (s.g.lane64 f.d.toNat l).toNat
def dp1 (s : State) (f : VR1) (r : Nat → Nat × Word) : VecRule :=
  fp f.nwb f.d true [(true, f.a)] fun l => r (srcF64 s f.a l).toNat

/-- A packed instruction of a 16-bit format. -/
def hp3 (s : State) (t : FFmt) (f : VR) (r : Nat → Nat → Nat → Nat × Word) : VecRule :=
  fp f.nwb f.d false [(false, f.a), (false, f.b)] fun l => halves fun e =>
    r ((src16 s t f.a l).toNat / 2 ^ (16 * e) % 2 ^ 16) ((src16 s t f.b l).toNat / 2 ^ (16 * e) % 2 ^ 16)
      ((s.g.lane f.d.toNat l).toNat / 2 ^ (16 * e) % 2 ^ 16)

/-- A conversion between two types (R114 to R116). -/
def conversion (s : State) (rm : RM) (sat : Bool) (f : VR1) (dst src : CvtType) : VecRule :=
  fp f.nwb f.d (cvtIs64 dst) [(cvtIs64 src, f.a)] fun l => convert src dst rm sat (cvtSource s src f.a l)

/-- The floating-point instructions of classes 1 and 2 (R107 to R111, R115 to R117, R121 to R123). -/
def floatVec (s : State) : Instr → Option VecRule
  | .fadd rm f => some (fp3 s f fun a b _ => fp32.add rm a b)
  | .fsub rm f => some (fp3 s f fun a b _ => fp32.sub rm a b)
  | .fmul rm f => some (fp3 s f fun a b _ => fp32.mul rm a b)
  | .ffma rm f => some (fp3 s f fun a b d => fp32.fma rm false a b d)
  | .ffms rm f => some (fp3 s f fun a b d => fp32.fma rm true a b d)
  | .fmin f => some (fp3 s f fun a b _ => fp32.minmax false a b)
  | .fmax f => some (fp3 s f fun a b _ => fp32.minmax true a b)
  | .dadd rm f => some (dp3 s f fun a b _ => fp64.add rm a b)
  | .dsub rm f => some (dp3 s f fun a b _ => fp64.sub rm a b)
  | .dmul rm f => some (dp3 s f fun a b _ => fp64.mul rm a b)
  | .dfma rm f => some (dp3 s f fun a b d => fp64.fma rm false a b d)
  | .dmin f => some (dp3 s f fun a b _ => fp64.minmax false a b)
  | .dmax f => some (dp3 s f fun a b _ => fp64.minmax true a b)
  | .hadd2 rm f => some (hp3 s fp16 f fun a b _ => fp16.add rm a b)
  | .hmul2 rm f => some (hp3 s fp16 f fun a b _ => fp16.mul rm a b)
  | .hfma2 rm f => some (hp3 s fp16 f fun a b d => fp16.fma rm false a b d)
  | .bfma2 rm f => some (hp3 s bf16 f fun a b d => bf16.fma rm false a b d)
  | .dot2h rm f => some (fp f.nwb f.d false [(false, f.a), (false, f.b)] fun l =>
      dot2h rm (src16 s fp16 f.a l).toNat (src16 s fp16 f.b l).toNat (s.g.lane f.d.toNat l).toNat)
  | .cvt rm f dst src => if noConversion dst src then none else some (conversion s rm false f dst src)
  | .cvtf rm f partner fromSlot k =>
    let x := slotOf (Cells.get 0 s.g.fs k.toNat)
    match cvtOfEfmt x.efmt with
    | none => none
    | some t =>
      let dst := if fromSlot then partner else t
      let src := if fromSlot then t else partner
      if x.generalOk = true ∧ noConversion dst src = false then some (conversion s rm x.csat f dst src) else none
  | .pack rm f => some (fp3 s f fun a b _ => halves fun e => packElement rm (if e = 0 then a else b))
  | .frcp f => some (fp1 s f fun a => recip fp32 0 (.ulp 1) true a)
  | .frsq f => some (fp1 s f fun a => rsqrt fp32 1 (.ulp 2) true a)
  | .fsqrt f => some (fp1 s f sqrtF)
  | .fdiv f => some (fp3 s f fun a b _ => divF a b)
  | .fexp2 f => some (fp1 s f exp2F)
  | .flog2 f => some (fp1 s f log2F)
  | .fsinpi f => some (fp1 s f (sinpiF false 6))
  | .fcospi f => some (fp1 s f (sinpiF true 7))
  | .ftanh f => some (fp1 s f tanhF)
  | .drcpa f => some (dp1 s f fun a => recip fp64 9 (.rel 23) false a)
  | .drsqa f => some (dp1 s f fun a => rsqrt fp64 10 (.rel 23) false a)
  | _ => none

/-- The lane that a shuffle reads, when it lies in the group (R186). -/
def shuffleFrom (s : State) : Instr → Option (VR × (Nat → Int))
  | .shfl f => some (f, fun l => (src32 s f.b l).toNat % 32)
  | .shflup f => some (f, fun l => (l : Int) - (src32 s f.b l).toNat % 64)
  | .shfldn f => some (f, fun l => (l : Int) + (src32 s f.b l).toNat % 64)
  | .shflx f => some (f, fun l => ((l ^^^ ((src32 s f.b l).toNat % 32) : Nat) : Int))
  | _ => none

/-- The cross-lane instructions with a register result in every active lane (R185 to R189). Lanes outside Active() are
never read. -/
def crossVec (s : State) (i : Instr) : Option VecRule :=
  let ms := lanesOf (s.g.sp.lanes &&& s.g.em)
  match i with
  | .redi f op => if op = .fadd then none else some
      { nwb := f.nwb, d := f.d, srcs := [(false, f.a)], r := fun _ => (scanFold op (src32 s f.a) ms).1.toNat }
  | .redf f op =>
    let x := treeReduce op (fun l => if ms.contains l then (some (canonF32 (src32 s f.a l)).1, (canonF32 (src32 s f.a l)).2)
                                     else (none, 0)) 5 0
    some { nwb := f.nwb, d := f.d, srcs := [(false, f.a)], r := fun _ => (x.1.getD 0).toNat, fl := fun _ => x.2 }
  | .scan f excl op =>
    let x (l : Nat) := scanFold op (src32 s f.a) (ms.filter fun j => if excl then j < l else j ≤ l)
    some { nwb := f.nwb, d := f.d, srcs := [(false, f.a)], r := fun l => (x l).1.toNat
           fl := fun l => (x l).2 ||| (if op = .fadd then ms.foldl (fun w j => w ||| (canonF32 (src32 s f.a j)).2) 0 else 0) }
  | .rdlane f => some
      { nwb := f.nwb, d := f.d, srcs := [(false, f.a), (false, f.b)]
        r := fun _ => let j := (src32 s f.b (ms.head?.getD 32)).toNat % 32
                      if ms.contains j then (src32 s f.a j).toNat else 0 }
  | .bcast last f => some
      { nwb := f.nwb, d := f.d, srcs := [(false, f.a)]
        r := fun _ => (src32 s f.a ((if last then ms.getLast? else ms.head?).getD 32)).toNat }
  | i => match shuffleFrom s i with
    | some (f, from_) => some
        { nwb := f.nwb, d := f.d, srcs := [(false, f.a), (false, f.b)]
          r := fun l => if 0 ≤ from_ l ∧ ms.contains (from_ l).toNat then (src32 s f.a (from_ l).toNat).toNat
                        else (src32 s f.a l).toNat }
    | none => none

/-- A vector instruction of classes 1 and 2 whose whole effect is a register result with its flags. -/
def vec (s : State) (i : Instr) : Option VecRule := ((intVec s i).orElse fun _ => floatVec s i).orElse fun _ => crossVec s i

/-- A compare: its predicate, its sources, and the condition with its flags in a lane (R112, Table 6.6). -/
def compare (s : State) : Instr → Option (PReg × List (Bool × Src) × (Nat → Bool × Word))
  | .vcmp c f => if c = .ord ∨ c = .uno then none else some
      (f.p, [(false, f.a), (false, f.b)], fun l => (intHolds c (src32 s f.a l).toInt (src32 s f.b l).toInt, 0))
  | .vcmpu c f => if c = .ord ∨ c = .uno then none else some
      (f.p, [(false, f.a), (false, f.b)], fun l => (intHolds c (src32 s f.a l).toNat (src32 s f.b l).toNat, 0))
  | .fcmp c f => some (f.p, [(false, f.a), (false, f.b)], fun l => fp32.cmp c (src32 s f.a l).toNat (src32 s f.b l).toNat)
  | .dcmp c f => some (f.p, [(true, f.a), (true, f.b)], fun l => fp64.cmp c (srcF64 s f.a l).toNat (srcF64 s f.b l).toNat)
  | .vote c p a =>
    let ms := lanesOf (s.g.sp.lanes &&& s.g.em)
    some (p, [(false, a)], fun l => (match c with
      | .all => ms.all fun j => src32 s a j != 0
      | .any => ms.any fun j => src32 s a j != 0
      | .uni => ms.all fun j => ms.all fun k => src32 s a j == src32 s a k
      | .match_ => ms.any fun j => j != l && src32 s a j == src32 s a l, 0))
  | _ => none
where
  /-- A condition between two integers. -/
  intHolds (c : Cond) (a b : Int) : Bool :=
    match c with
    | .eq => a = b
    | .ne => a ≠ b
    | .lt => a < b
    | .le => a ≤ b
    | .gt => b < a
    | .ge => b ≤ a
    | .ord | .uno => false

/-- The target of a branch word: its address plus four times the offset (R31). -/
def target (s : State) (off : Off) : DWord := BitVec.ofInt 64 ((instrPc s).toNat + 4 * off.toInt)

/-- The return address: the header after the clause (R90). -/
def returnAddress (s : State) : DWord := BitVec.ofNat 64 (s.g.sp.pc.toNat + 4 * (s.g.sp.clause.hdr.n + 1))

/-- An address that a branch may take: bits [63:56] are zero (R31). -/
def inRange (a : DWord) : Prop := a.toNat < 2 ^ 56

/-- A taken branch: the PC is the target and the clause is over. -/
def branched (a : DWord) (s : State) : State := branchTo a s

/-- The trap of an instruction, precise at it: the state that the trap leaves. -/
def trapsAt (code acc lane : Nat) (addr : DWord) (s : State) : State := takeTrap (instrTrap code acc lane addr s) s

/-- The conditional branches: their offset, and when they are taken (R87, R88). -/
def branchTaken (s : State) : Instr → Option (Off × Prop)
  | .bra p neg off => some (off, (p = 0 ∧ neg = false) ∨ ∃ l < 32, s.g.sp.lanes.getLsbD l = true ∧ (readP s p).getLsbD l ≠ neg)
  | .brz n off => some (off, readS s n = 0)
  | .brnz n off => some (off, readS s n ≠ 0)
  | _ => none

/-- The bit-stream instructions: the sources' and destination's legality, and per active lane the value and BCUR
(R128 to R130). CUR is the low 7 bits of BCUR and OVR its bit 7. -/
def curs (s : State) (l : Nat) : Nat × Bool := ((Cells.get 0 s.g.bcur l).toNat % 128, 128 ≤ (Cells.get 0 s.g.bcur l).toNat)

/-- BCUR of a cursor that would pass 64 stands at 64 with OVR set. -/
def cursor (ovr : Bool) (c : Nat) : Byte := if 64 < c then 192 else BitVec.ofNat 8 ((if ovr then 128 else 0) + c)

/-- Width of a bit-stream read. -/
def width (s : State) (b : Src) (l : Nat) : Nat := min ((src32 s b l).toNat % 64) 32

end Sys2Proof.Rules

open Sys2Proof Sys2Proof.Machine

/-! ### Class 0 -/

/-- SMOV to SCMOV, PMOV to a scalar, EMRD, PCNT, PFIRST and SREAD: the destination receives the low 64 bits of the number that
the rule gives, and the split goes on. SNOP, and SCMOV whose condition fails, change nothing but the place in the clause and the
count. The instructions of ScalarResults leave everything but their destination, the count of committed instructions and the
place in the clause: every other scalar, every vector register and predicate, EM, BCUR, FPSTAT, memory, every other group and
split. A write to s0 is discarded and s0 reads zero. -/
def Obligations.ScalarResults : Prop :=
  (∀ (s : State) (i : Instr) (d : SReg) (x : Int),
      Rules.scalar s i = some (d, x) → exec i s = .next (complete (writeS d (BitVec.ofInt 64 x) s)))
    ∧ (∀ (s : State) (z : Bool) (d a b : SReg),
      exec .snop s = .next (complete s)
        ∧ (¬(readS s b = 0 ↔ z = true) → exec (.scmov z d a b) s = .next (complete s)))
    ∧ (∀ (s : State) (i : Instr) (d : SReg) (x : Int), Rules.scalar s i = some (d, x) →
      ∃ t, exec i s = .next t ∧ Rules.OutsideGroup s t ∧ Rules.OutsideRegisters s t ∧ Rules.OutsideSplit s t
        ∧ t.g.v = s.g.v ∧ t.g.p = s.g.p ∧ t.g.em = s.g.em ∧ t.g.bcur = s.g.bcur ∧ t.g.sp.fpstat = s.g.sp.fpstat
        ∧ t.g.poisonV = s.g.poisonV ∧ t.g.sp.poisonP = s.g.sp.poisonP
        ∧ ∀ k, readS t k = if k = 0 then 0 else if k = d then BitVec.ofInt 64 x else readS s k)

/-- R85: SCMP writes 1 when the condition of its FN holds between a and b, and 0 when it does not; a word of any other FN raises
the illegal-instruction trap. -/
def Obligations.ScmpWritesCondition : Prop :=
  (∀ (s : State) (c : SCond) (d a b : SReg),
    (Rules.scmpTrue c (readS s a) (readS s b) → exec (.scmp c d a b) s = .next (complete (writeS d 1 s)))
      ∧ (¬Rules.scmpTrue c (readS s a) (readS s b) → exec (.scmp c d a b) s = .next (complete (writeS d 0 s))))
    ∧ ∀ (s : State) (d a b : SReg) (fn : Nat) (rest : List Word), 10 ≤ fn → fn < 256 → s.g.sp.clause.hdr.cls = .sctl →
        s.g.sp.clause.words.drop s.g.sp.clause.pos
          = BitVec.ofNat 32 (0x18 * 2 ^ 26 + d.toNat * 2 ^ 20 + a.toNat * 2 ^ 14 + b.toNat * 2 ^ 8 + fn) :: rest →
        runInstr false s = .next (Rules.trapsAt 0x02 3 0 0 (withLength s))

/-- The predicate instructions write the bits of the split's lanes: PLOG by its table, PMOV from a scalar, EMWR in its four
forms to EM; SWRITE replaces FPSTAT, whose bits [31:7] do not exist, and is illegal for every other register. A write of some
lanes of a predicate or of EM changes those lanes alone; p0 reads all ones and discards writes (R7). -/
def Obligations.PredicateAndStatusResults : Prop :=
  (∀ (s : State) (d a b : PReg) (tt : BitVec 4) (n : SReg) (f : EmOp) (r : SpecialReg),
      let m := s.g.sp.lanes
      exec (.plog d a b tt) s = .next (complete (writeP d m (laneSetWhere fun l =>
          tt.getLsbD (2 * (if (readP s a).getLsbD l then 1 else 0) + if (readP s b).getLsbD l then 1 else 0)) s))
        ∧ exec (.pmovToPredicate d n) s = .next (complete (writeP d m (BitVec.ofNat 32 (readS s n).toNat) s))
        ∧ exec (.emwr n) s = .next (complete (writeEM m (BitVec.ofNat 32 (readS s n).toNat) s))
        ∧ exec (.emwrPredicate f a) s = .next (complete (writeEM m (match f with
            | .set => readP s a
            | .and => s.g.em &&& readP s a
            | .andn => s.g.em &&& ~~~readP s a) s))
        ∧ exec (.swrite .fpstat n) s
            = .next (complete (s.setSp fun sp => { sp with fpstat := BitVec.ofNat 32 ((readS s n).toNat % 2 ^ 7) }))
        ∧ (r ≠ .fpstat → exec (.swrite r n) s = .next (Rules.trapsAt 0x02 3 0 0 s)))
    ∧ (∀ (s : State) (d k : PReg) (m x : LaneSet) (l : Nat), l < 32 →
      (readP (writeP d m x s) k).getLsbD l
          = (if k = 0 then true else if k = d ∧ m.getLsbD l = true then x.getLsbD l else (readP s k).getLsbD l)
        ∧ (writeEM m x s).g.em.getLsbD l = (if m.getLsbD l = true then x.getLsbD l else s.g.em.getLsbD l)
        ∧ (writeP d m x s).g.em = s.g.em ∧ (writeEM m x s).g.p = s.g.p)

/-- R89: LOOP writes sn - 1 and branches when that is not zero; its address fault is raised only when it would branch, and
leaves sn; a LOOP of s0 is an illegal instruction. That TRAPADDR of the fault is the target and its ACC is 3 is the model's
choice (log 48). -/
def Obligations.LoopCountsAndBranches : Prop :=
  ∀ (s : State) (n : SReg) (off : Off),
    (n = 0 → exec (.loop n off) s = .next (Rules.trapsAt 0x02 3 0 0 s))
      ∧ (n ≠ 0 → readS s n = 1 → exec (.loop n off) s = .next (complete (writeS n 0 s)))
      ∧ (n ≠ 0 → readS s n = 0 → Rules.inRange (Rules.target s off) →
          exec (.loop n off) s = .next (Rules.branched (Rules.target s off) (writeS n 0xFFFFFFFFFFFFFFFF s)))
      ∧ (n ≠ 0 → readS s n ≠ 1 → Rules.inRange (Rules.target s off) →
          exec (.loop n off) s = .next (Rules.branched (Rules.target s off) (writeS n (readS s n - 1) s)))
      ∧ (n ≠ 0 → readS s n ≠ 1 → ¬Rules.inRange (Rules.target s off) →
          exec (.loop n off) s = .next (Rules.trapsAt 0x05 3 0 (Rules.target s off) s))

/-- R88: BRZ is taken when the full 64-bit value of its scalar is zero, BRNZ when it is not; with s0, BRZ always and BRNZ never.
A target at or above 2^56 is the address fault of R31; that its TRAPADDR is the target and its ACC is 3 is the model's choice
(log 48). -/
def Obligations.BrzAndBrnzTestTheScalar : Prop :=
  ∀ (s : State) (n : SReg) (off : Off),
    let goes (i : Instr) : Prop :=
      exec i s = if (Rules.target s off).toNat < 2 ^ 56 then .next (Rules.branched (Rules.target s off) s)
                 else .next (Rules.trapsAt 0x05 3 0 (Rules.target s off) s)
    (readS s n = 0 → goes (.brz n off) ∧ exec (.brnz n off) s = .next (complete s))
      ∧ (readS s n ≠ 0 → goes (.brnz n off) ∧ exec (.brz n off) s = .next (complete s))
      ∧ goes (.brz 0 off) ∧ exec (.brnz 0 off) s = .next (complete s)

/-- BRA, BRZ and BRNZ: not taken, the split goes on at the next header; taken to an address in range, its PC is the target; else
it raises the address fault. That TRAPADDR is then the target and ACC is 3 is the model's choice (log 48). CALL and JMPR write
the return address and branch; a target out of range is the address fault, and nothing is written. Of CALL's fault, TRAPADDR =
target and ACC = 3 is the model's choice (log 48). -/
def Obligations.BranchesAndCalls : Prop :=
  (∀ (s : State) (i : Instr) (off : Off) (P : Prop), Rules.branchTaken s i = some (off, P) →
      (¬P → exec i s = .next (complete s))
        ∧ (P → Rules.inRange (Rules.target s off) → exec i s = .next (Rules.branched (Rules.target s off) s))
        ∧ (P → ¬Rules.inRange (Rules.target s off) →
            exec i s = .next (Rules.trapsAt 0x05 3 0 (Rules.target s off) s)))
    ∧ (∀ (s : State) (d a : SReg) (off : Off),
      (Rules.inRange (Rules.target s off) →
          exec (.call d off) s = .next (Rules.branched (Rules.target s off) (writeS d (Rules.returnAddress s) s)))
        ∧ (¬Rules.inRange (Rules.target s off) → exec (.call d off) s = .next (Rules.trapsAt 0x05 3 0 (Rules.target s off) s))
        ∧ (Rules.inRange (readS s a) →
            exec (.jmpr d a) s = .next (Rules.branched (readS s a) (writeS d (Rules.returnAddress s) s)))
        ∧ (¬Rules.inRange (readS s a) → exec (.jmpr d a) s = .next (Rules.trapsAt 0x05 3 0 (readS s a) s)))

/-- BRP that nothing predicts resolves at once: an empty taken set falls through, a full one branches, and any other divides the
split: the new entry takes the taken lanes at the target, the old one keeps the rest at the next header, and the two share no
lane. EXIT ends the split with all its lanes, and the last one's group waits to retire. YIELD gives up one turn. BRP with a
prediction starts a path of its group and stays in place: hint 01 on the taken side with Active(), hint 10 on the fall-through
side with every lane, hint 00 by its predictor entry from confidence 2 on; below that it resolves as without prediction (Table
10.4). Behind an unresolved path it waits. A resolved BRP that takes a target out of range is the address fault, whose TRAPADDR
and ACC of 3 are the model's choice (log 48). One in a handler that finds no free entry is a double trap, whose cause is a free
value (log 16). -/
def Obligations.DivergenceAndEnd : Prop :=
  (∀ (s : State) (p : PReg) (neg : Bool) (off : Off),
      let taken := (if neg then ~~~readP s p else readP s p) &&& s.active
      let left := s.g.sp.lanes &&& ~~~taken
      (s.g.path = none → taken = 0 → ∃ t, exec (.brp .nospec p neg off) s = .next t
          ∧ t.g.sp.pc = (complete s).g.sp.pc ∧ t.g.sp.lanes = s.g.sp.lanes ∧ t.g.sibs = s.g.sibs)
        ∧ (s.g.path = none → taken ≠ 0 → left = 0 → Rules.inRange (Rules.target s off) →
            ∃ t, exec (.brp .nospec p neg off) s = .next t
              ∧ t.g.sp.pc = Rules.target s off ∧ t.g.sp.lanes = s.g.sp.lanes ∧ t.g.sibs = s.g.sibs)
        ∧ (s.g.path = none → taken ≠ 0 → left ≠ 0 → Rules.inRange (Rules.target s off) → (freeEntry s.g).isSome = true →
            ∃ t n, exec (.brp .nospec p neg off) s = .next t ∧ t.g.sibs = s.g.sibs ++ [n]
              ∧ n.lanes = taken ∧ n.pc = Rules.target s off ∧ some n.idx = freeEntry s.g ∧ n.s = s.g.sp.s
              ∧ t.g.sp.lanes = left ∧ t.g.sp.idx = s.g.sp.idx ∧ t.g.sp.pc = (complete s).g.sp.pc
              ∧ t.g.sp.lanes &&& n.lanes = 0 ∧ t.g.sp.lanes ||| n.lanes = s.g.sp.lanes)
        ∧ ((s.g.sp.region = none ∨ counter .matrix s.g.sp = 0) → s.g.sibs = [] → ∃ t, exec .exit s = .next t ∧ t.g.life = .ending ∧ t.g.sp.lanes = 0
              ∧ t.g.v = s.g.v ∧ t.mem = s.mem ∧ t.g.sp.ops = s.g.sp.ops)
        ∧ (∀ x, (s.g.sp.region = none ∨ counter .matrix s.g.sp = 0) → s.g.sibs = [x] → s.g.handler = .none → s.g.seams = [] → s.g.seamSv = [] →
              ∃ t, exec .exit s = .next t ∧ t.g.splits = [x] ∧ t.g.life = s.g.life ∧ t.mem = s.mem)
        ∧ exec .yield s = .next ((complete s).setSp fun sp => { sp with yielded := true }))
    ∧ (∀ (s : State) (h : Hint) (p : PReg) (neg : Bool) (off : Off),
      let taken := (if neg then ~~~readP s p else readP s p) &&& s.active
      let e : PredEntry := Cells.get {} (s.part (s.g.sp.part.getD 0)).pred (((instrPc s).toNat / 4 ^^^ s.g.gid.toNat) % 512)
      let begins (side : Bool) (m : LaneSet) : Prop := ∃ k, exec (.brp h p neg off) s = .next { s with g := { s.g with path := some k } }
        ∧ k.sp = s.g.sp.idx ∧ k.taken = side ∧ k.mask = m ∧ k.count = 0
        ∧ k.pc = if side then Rules.target s off else Rules.returnAddress s
      (s.g.path.isSome = true → exec (.brp h p neg off) s = .next s)
        ∧ (s.g.path = none → h = .taken → begins true s.active)
        ∧ (s.g.path = none → h = .fall → begins false s.g.sp.lanes)
        ∧ (s.g.path = none → h = .pred → 2 ≤ e.conf.toNat →
            (e.cls = 0 → begins true s.active) ∧ (e.cls = 1 → begins false s.g.sp.lanes)
              ∧ (2 ≤ e.cls.toNat → e.last &&& s.active ≠ 0 → begins true (e.last &&& s.active))
              ∧ (2 ≤ e.cls.toNat → e.last &&& s.active = 0 → begins false s.g.sp.lanes))
        ∧ (s.g.path = none → h = .pred → e.conf.toNat < 2 → exec (.brp h p neg off) s = exec (.brp .nospec p neg off) s)
        ∧ (s.g.path = none → h = .nospec → taken ≠ 0 → ¬Rules.inRange (Rules.target s off) →
            exec (.brp h p neg off) s = .next (Rules.trapsAt 0x05 3 0 (Rules.target s off) s))
        ∧ (s.g.path = none → h = .nospec → taken ≠ 0 → s.g.sp.lanes &&& ~~~taken ≠ 0 → Rules.inRange (Rules.target s off) →
            freeEntry s.g = none → ∃ u, { u with parts := s.parts } = s ∧ exec (.brp h p neg off) s
              = .next (doubleTrap { code := Config.noEntryCause, pc := instrPc s, hdr := s.g.sp.pc, mask := s.active } u)))

/-! ### Classes 1 and 2 -/

/-- Every vector instruction of the tables whose registers are legal writes, in the active lanes, the low bits of the number
that its rule gives, raises the flags of those lanes, captures the result into the latch, and goes on. A vector instruction that
names a register at or past W, an odd pair or an illegal source code raises the illegal-operand trap and has no effect. -/
def Obligations.VectorResults : Prop :=
  (∀ (s : State) (i : Instr) (q : Rules.VecRule), Rules.vec s i = some q → q.legal s = true → exec i s = .next (q.after s))
    ∧ (∀ (s : State) (i : Instr) (q : Rules.VecRule), Rules.vec s i = some q → q.legal s = false →
      exec i s = .next (Rules.trapsAt 0x03 3 0 0 s))

/-- What a vector instruction leaves: lanes outside Active() of its destination, every lane of every other register, scalars,
predicates, EM, BCUR, the bits of FPSTAT that it does not raise, memory, and everything outside the group. A result is captured
into latch k mod 4 of the clause, in every lane: the new value in the active lanes, the register's old one in the others (R37),
and the latches of other numbers keep theirs while the clause goes on. -/
def Obligations.VectorFrameAndLatch : Prop :=
  (∀ (s : State) (i : Instr) (q : Rules.VecRule), Rules.vec s i = some q → q.legal s = true →
      ∃ t, exec i s = .next t ∧ Rules.OutsideGroup s t ∧ Rules.OutsideRegisters s t ∧ Rules.OutsideSplit s t
        ∧ t.g.sp.s = s.g.sp.s ∧ t.g.p = s.g.p ∧ t.g.em = s.g.em ∧ t.g.bcur = s.g.bcur
        ∧ t.g.sp.fpstat = s.g.sp.fpstat ||| flagsOf s.active q.fl
        ∧ ∀ r l, l < 32 → t.g.lane r l
            = if s.active.getLsbD l = true ∧ q.nwb = false ∧ r = q.d.toNat then BitVec.ofInt 32 (q.r l)
              else if s.active.getLsbD l = true ∧ q.nwb = false ∧ q.wide = true ∧ r = q.d.toNat + 1 then
                BitVec.ofInt 32 (q.r l / 2 ^ 32)
              else s.g.lane r l)
    ∧ (∀ (s : State) (nwb : Bool) (d : VReg) (r : Nat → Word) (k l : Nat), l < 32 → k < 4 →
      latch (result32 nwb d r s) (BitVec.ofNat 2 k) l
        = if k = s.g.sp.clause.k % 4 then
            (if s.active.getLsbD l = true then BitVec.ofNat 64 (r l).toNat else BitVec.ofNat 64 (s.g.lane d.toNat l).toNat)
          else latch s (BitVec.ofNat 2 k) l)

/-- R126: FUNSH concatenates a above d and shifts the result right by b[4:0], in the active lanes of a destination that is
written; the bits of b above bit 4 are ignored, and every other lane and register keeps its value. -/
def Obligations.FunshShiftsTheConcatenation : Prop :=
  ∀ (s : State) (f : VR) (q : Rules.VecRule), Rules.vec s (.funsh f) = some q → q.legal s = true →
    ∃ t, exec (.funsh f) s = .next t ∧ ∀ r l, l < 32 → t.g.lane r l
      = if s.active.getLsbD l = true ∧ f.nwb = false ∧ r = f.d.toNat then
          ((src32 s f.a l ++ s.g.lane r l : BitVec 64) >>> ((src32 s f.b l).toNat % 2 ^ 5)).setWidth 32
        else s.g.lane r l

/-- VCMP, VCMPU, FCMP, DCMP and VOTE write bit l of their predicate for each active lane l; a compare of integers has no
conditions .ord and .uno; an illegal source is the illegal-operand trap. -/
def Obligations.CompareResults : Prop :=
  (∀ (s : State) (i : Instr) (p : PReg) (srcs : List (Bool × Src)) (r : Nat → Bool × Word),
    Rules.compare s i = some (p, srcs, r) →
      (srcs.all (fun x => srcOk s x.1 x.2) = true →
        exec i s = .next (complete (raiseFlags (flagsOf s.active fun l => (r l).2)
          (writeP p s.active (laneSetWhere fun l => (r l).1) s))))
      ∧ (srcs.all (fun x => srcOk s x.1 x.2) = false → exec i s = .next (Rules.trapsAt 0x03 3 0 0 s)))
    ∧ ∀ (s : State) (f : VC),
        exec (.vcmp .ord f) s = .next (Rules.trapsAt 0x02 3 0 0 s) ∧ exec (.vcmp .uno f) s = .next (Rules.trapsAt 0x02 3 0 0 s)
          ∧ exec (.vcmpu .ord f) s = .next (Rules.trapsAt 0x02 3 0 0 s)
          ∧ exec (.vcmpu .uno f) s = .next (Rules.trapsAt 0x02 3 0 0 s)

/-- The bit-stream reader: BSINIT sets BCUR, BSRD reads and advances, BSPEEK reads or gives BCUR, BSFILL shifts the window down
once 32 bits are used. WRLANE writes the value of the lowest active lane into one active lane of the destination, and no lane
when the named one is not active. -/
def Obligations.BitStreamAndWrlaneResults : Prop :=
  (∀ (s : State) (a : Src) (f : VR) (n : VReg),
      let w (l : Nat) : Nat := (s.g.lane64 n.toNat l).toNat
      let read (l : Nat) : Word := BitVec.ofNat 32 (w l / 2 ^ (Rules.curs s l).1 % 2 ^ Rules.width s f.b l)
      (srcOk s false a = true → exec (.bsinit a) s = .next (complete (writeBcur (fun l =>
          Rules.cursor ((src32 s a l).getLsbD 7) ((src32 s a l).toNat % 128)) s)))
        ∧ (f.a = .v n → regOk s true n = true → srcOk s false f.b = true → regOk s false f.d = true →
            exec (.bsrd f) s = .next (complete (writeBcur (fun l =>
                Rules.cursor (Rules.curs s l).2 ((Rules.curs s l).1 + Rules.width s f.b l)) (result32 f.nwb f.d read s)))
              ∧ exec (.bspeek f) s = .next (complete (raiseFlags (flagsOf s.active fun _ => 0) (result32 f.nwb f.d (fun l =>
                  if Rules.width s f.b l = 0 then BitVec.ofNat 32 (Cells.get 0 s.g.bcur l).toNat else read l) s))))
        ∧ (f.a = .v n → regOk s true n = true → srcOk s false f.b = true → regOk s true f.d = true →
            exec (.bsfill f) s = .next (complete (writeBcur (fun l =>
                if 32 ≤ (Rules.curs s l).1 then BitVec.ofNat 8 ((Cells.get 0 s.g.bcur l).toNat - 32) else Cells.get 0 s.g.bcur l)
              (result64 f.nwb f.d (fun l =>
                if 32 ≤ (Rules.curs s l).1 then BitVec.ofNat 64 (w l / 2 ^ 32 + (src32 s f.b l).toNat * 2 ^ 32)
                else BitVec.ofNat 64 (w l)) s)))))
    ∧ (∀ (s : State) (f : VR), srcOk s false f.a = true → srcOk s false f.b = true → regOk s false f.d = true →
      f.nwb = false →
      let first := (lanesOf s.active).head?.getD 32
      let j := (src32 s f.b first).toNat % 32
      ∃ t, exec (.wrlane f) s = .next t ∧ Rules.OutsideGroup s t ∧ t.g.p = s.g.p ∧ t.g.sp.s = s.g.sp.s
        ∧ t.g.sp.fpstat = s.g.sp.fpstat
        ∧ ∀ r l, l < 32 → t.g.lane r l
            = if r = f.d.toNat ∧ l = j ∧ s.active.getLsbD j = true then src32 s f.a first else s.g.lane r l)

/-! ### Number formats (spec/04, spec/06, spec/07) -/

namespace Sys2Proof.Rules
open Sys2Proof Sys2Proof.Machine

/-- What a pattern stands for (R60): a NaN, an infinity with its sign, or a sign and a magnitude. -/
inductive Num where
  | nan
  | inf (neg : Bool)
  | num (neg : Bool) (q : ℚ)
  deriving DecidableEq

/-- The magnitude of exponent and fraction bits, as if exponents had no largest value (R60, R63). -/
def mag (f : FFmt) (b : Nat) : ℚ :=
  if b / 2 ^ f.mw = 0 then (b : ℚ) * 2 ^ (1 - (f.bias : ℤ) - (f.mw : ℤ))
  else (2 ^ f.mw + ((b % 2 ^ f.mw : Nat) : ℚ)) * 2 ^ (((b / 2 ^ f.mw : Nat) : ℤ) - (f.bias : ℤ) - (f.mw : ℤ))

/-- Exponent and fraction bits of the largest finite value, of infinity, and of a pattern; its sign (Table 4.1). -/
def topBody (f : FFmt) : Nat := if f.e4m3 then 2 ^ (f.ew + f.mw) - 2 else (2 ^ f.ew - 1) * 2 ^ f.mw - 1
def infBody (f : FFmt) : Nat := (2 ^ f.ew - 1) * 2 ^ f.mw
def body (f : FFmt) (x : Nat) : Nat := x % 2 ^ (f.ew + f.mw)
def negative (f : FFmt) (x : Nat) : Bool := x / 2 ^ (f.ew + f.mw) % 2 == 1
def pattern (f : FFmt) (neg : Bool) (b : Nat) : Nat := (if neg then 2 ^ (f.ew + f.mw) else 0) + b

/-- The number of a pattern (R60, Table 4.1). -/
def num (f : FFmt) (x : Nat) : Num :=
  if body f x ≤ topBody f then .num (negative f x) (mag f (body f x))
  else if f.e4m3 = false ∧ body f x = infBody f then .inf (negative f x) else .nan

/-- A signalling NaN: its highest fraction bit is 0, in a format that makes the distinction (R60). -/
def signalling (f : FFmt) (x : Nat) : Bool := f.signals && num f x == .nan && decide (body f x < infBody f + 2 ^ (f.mw - 1))

/-- Which of the neighbours `lo` and `lo + 1` of a magnitude a mode takes; of two equally near ones RNE takes the even (R63). -/
def chosen (f : FFmt) (rm : RM) (neg : Bool) (q : ℚ) (lo : Nat) : Nat :=
  match rm with
  | .rne => if q - mag f lo < mag f (lo + 1) - q then lo else if mag f (lo + 1) - q < q - mag f lo then lo + 1 else lo + lo % 2
  | .rtz => lo
  | .rup => if neg = false ∧ mag f lo < q then lo + 1 else lo
  | .rdn => if neg = true ∧ mag f lo < q then lo + 1 else lo

/-- One rounding of a non-zero number of magnitude q: its pattern and its flags (R63, R70). -/
def Rounds (f : FFmt) (rm : RM) (sat neg : Bool) (q : ℚ) (p : Nat) (fl : Word) : Prop :=
  ∃ lo, mag f lo ≤ q ∧ q < mag f (lo + 1) ∧
    let b := chosen f rm neg q lo
    if b ≤ topBody f then
      p = pattern f neg b ∧ fl = (if mag f b = q then 0 else if q < mag f (2 ^ f.mw) then flagUF ||| flagNX else flagNX)
    else if sat = true then p = pattern f neg (topBody f) ∧ fl = flagSAT ||| flagNX
    else if rm = .rne ∨ (rm = .rup ∧ neg = false) ∨ (rm = .rdn ∧ neg = true) then
      p = (if f.e4m3 then f.cnan else pattern f neg (infBody f)) ∧ fl = flagOF ||| flagNX ||| (if f.e4m3 then flagNV else 0)
    else p = pattern f neg (topBody f) ∧ fl = flagOF ||| flagNX

/-- What an operation writes for its exact result, with the flags of the rounding (R61, R63). -/
def Gives (f : FFmt) (rm : RM) (x : Num) (p : Nat) (fl : Word) : Prop :=
  match x with
  | .nan => p = f.cnan ∧ fl = 0
  | .inf n => p = pattern f n (infBody f) ∧ fl = 0
  | .num n q => if q = 0 then p = pattern f n 0 ∧ fl = 0 else Rounds f rm false n q p fl

def signed (n : Bool) (q : ℚ) : ℚ := if n then -q else q

/-- The exact sum of some terms, and the sign that it has when it is zero (R63, R76, Table 6.3). -/
def total (zero : Bool) (ts : List Num) : Num :=
  if .nan ∈ ts ∨ (.inf true ∈ ts ∧ .inf false ∈ ts) then .nan
  else if .inf false ∈ ts then .inf false
  else if .inf true ∈ ts then .inf true
  else
    let z : ℚ := (ts.map fun t => match t with
      | .num n q => signed n q
      | _ => 0).sum
    if z = 0 then .num zero 0 else .num (decide (z < 0)) |z|

/-- The sign of a term; of a NaN it does not matter. -/
def Num.neg : Num → Bool
  | .num n _ => n
  | .inf n => n
  | .nan => false

/-- A number with its sign reversed. -/
def Num.minus : Num → Num
  | .num n q => .num (!n) q
  | .inf n => .inf (!n)
  | .nan => .nan

/-- A sum: an exact zero of terms with one sign has that sign, of others it is −0 in RDN alone (R63). -/
def plus (rm : RM) (ts : List Num) : Num :=
  total (if ts.all Num.neg then true else if ts.all fun t => !t.neg then false else rm == .rdn) ts

/-- A product: the signs combine; 0 × ∞ is a NaN (Table 6.3). -/
def times : Num → Num → Num
  | .num n a, .num m b => .num (n != m) (a * b)
  | .inf n, .inf m => .inf (n != m)
  | .inf n, .num m b => if b = 0 then .nan else .inf (n != m)
  | .num n a, .inf m => if a = 0 then .nan else .inf (n != m)
  | _, _ => .nan

/-- NV: a signalling NaN among the operands, or a NaN from operands that are none (R62, Table 6.3). -/
def nv (b : Bool) : Word := if b then flagNV else 0
def made (ops : List Num) (r : Num) : Bool := r == .nan && !ops.contains .nan

/-- One number lies below another; infinities lie at the ends (R112). -/
def below : Num → Num → Prop
  | .num n a, .num m b => signed n a < signed m b
  | .inf n, .num _ _ => n = true
  | .num _ _, .inf m => m = false
  | .inf n, .inf m => n = true ∧ m = false
  | _, _ => False

/-- A real number of a sign and a magnitude, rounded to an integer in a mode (R67). -/
def toInteger (rm : RM) (z : ℚ) : ℤ :=
  match rm with
  | .rtz => if z < 0 then ⌈z⌉ else ⌊z⌋
  | .rup => ⌈z⌉
  | .rdn => ⌊z⌋
  | .rne => if z - ⌊z⌋ < ⌈z⌉ - z then ⌊z⌋ else if ⌈z⌉ - z < z - ⌊z⌋ then ⌈z⌉ else if ⌊z⌋ % 2 = 0 then ⌊z⌋ else ⌈z⌉

/-- A normal number of a sign and a magnitude that a pattern stands for. -/
def normal (f : FFmt) (x : Nat) (n : Bool) (q : ℚ) : Prop := num f x = .num n q ∧ mag f (2 ^ f.mw) ≤ q

/-- A result of a special function: a finite value within k ulps of the exact magnitude X, with its sign (R122); NX when it differs. -/
def WithinUlps (f : FFmt) (k : Nat) (n : Bool) (X : ℝ) (r : Nat × Word) : Prop :=
  ∃ (m : Bool) (q : ℚ) (e : ℤ), num f r.1 = .num m q ∧ (2 : ℝ) ^ e ≤ X ∧ X < 2 ^ (e + 1)
    ∧ |(signed m q : ℝ) - (if n then -X else X)| ≤ k * 2 ^ (e - f.mw) ∧ ((signed m q : ℝ) ≠ (if n then -X else X) → r.2.getLsbD 4 = true)

/-- A result within an absolute bound of the exact result x (R122). -/
def Within (f : FFmt) (b x : ℝ) (r : Nat × Word) : Prop :=
  ∃ (m : Bool) (q : ℚ), num f r.1 = .num m q ∧ |(signed m q : ℝ) - x| ≤ b ∧ ((signed m q : ℝ) ≠ x → r.2.getLsbD 4 = true)

/-- A magnitude that the bounds of R122 cover: normal in the format. -/
def inBounds (f : FFmt) (X : ℝ) : Prop := (2 : ℝ) ^ (1 - (f.bias : ℤ)) ≤ X ∧ X < 2 ^ ((f.bias : ℤ) + 1)

end Sys2Proof.Rules

/-- The arithmetic of R59 to R65 and R79, R80, R107 to R113 in exact numbers, for FP64, FP32, FP16 and BF16: addition,
subtraction, multiplication, the fused forms and DOT2H give the one rounding of the exact result, or the canonical NaN, an
infinity or the signed zero, with OF, UF and NX of that rounding and NV for signalling NaNs and invalid operations; minimum,
maximum and compares go by the exact values. -/
def Obligations.ArithmeticRoundsOnce : Prop :=
  (fp64 = ⟨11, 52, 1023, false, true, 0x7FF8000000000000⟩ ∧ fp32 = ⟨8, 23, 127, false, true, 0x7FC00000⟩
      ∧ fp16 = ⟨5, 10, 15, false, true, 0x7E00⟩ ∧ bf16 = ⟨8, 7, 127, false, true, 0x7FC0⟩
      ∧ e4m3 = ⟨4, 3, 7, true, false, 0x7F⟩ ∧ e5m2 = ⟨5, 2, 15, false, false, 0x7E⟩)
    ∧ (∀ (f : FFmt) (rm : RM) (a b c : Nat), f ∈ [fp64, fp32, fp16, bf16] →
        let x := Rules.num f a
        let y := Rules.num f b
        let z := Rules.num f c
        let sn := Rules.signalling f
        let is (p : Nat × Word) (r : Rules.Num) (inv : Bool) : Prop :=
          ∃ fl, Rules.Gives f rm r p.1 fl ∧ p.2 = fl ||| Rules.nv inv
        (is (f.add rm a b) (Rules.plus rm [x, y]) (sn a || sn b || Rules.made [x, y] (Rules.plus rm [x, y])))
          ∧ (is (f.sub rm a b) (Rules.plus rm [x, y.minus]) (sn a || sn b || Rules.made [x, y] (Rules.plus rm [x, y.minus])))
          ∧ (is (f.mul rm a b) (Rules.times x y) (sn a || sn b || Rules.made [x, y] (Rules.times x y)))
          ∧ (∀ neg, let w := if neg then z.minus else z
              is (f.fma rm neg a b c) (Rules.plus rm [Rules.times x y, w]) (sn a || sn b || sn c || Rules.made [x, y] (Rules.times x y)
                || Rules.made [Rules.times x y, z] (Rules.plus rm [Rules.times x y, w])))
          ∧ (∀ cond, let un := x = .nan ∨ y = .nan
              let same := ¬un ∧ ¬Rules.below x y ∧ ¬Rules.below y x
              ((f.cmp cond a b).1 = true ↔ match cond with
                | .eq => same
                | .ne => ¬same
                | .lt => Rules.below x y
                | .le => Rules.below x y ∨ same
                | .gt => Rules.below y x
                | .ge => Rules.below y x ∨ same
                | .ord => ¬un
                | .uno => un)
              ∧ ((f.cmp cond a b).2 = flagNV ∨ (f.cmp cond a b).2 = 0)
              ∧ ((f.cmp cond a b).2 = flagNV ↔ sn a = true ∨ sn b = true ∨ (un ∧ (cond = .lt ∨ cond = .le ∨ cond = .gt ∨ cond = .ge))))
          ∧ ∀ most, let p := f.minmax most a b
              p.2 = Rules.nv (sn a || sn b)
              ∧ (x = .nan → y = .nan → p.1 = f.cnan) ∧ (x = .nan → y ≠ .nan → p.1 = b) ∧ (x ≠ .nan → y = .nan → p.1 = a)
              ∧ (Rules.below x y → p.1 = if most then b else a) ∧ (Rules.below y x → p.1 = if most then a else b)
              ∧ (x ≠ .nan → y ≠ .nan → ¬Rules.below x y → ¬Rules.below y x → (p.1 = a ∨ p.1 = b)
                  ∧ (x = .num x.neg 0 → (Rules.negative f p.1 = true
                      ↔ if most then x.neg = true ∧ y.neg = true else x.neg = true ∨ y.neg = true))))
    ∧ ∀ (rm : RM) (a b d : Nat),
        let el (v e : Nat) : Nat := v / 2 ^ (16 * e) % 2 ^ 16
        let p (e : Nat) : Rules.Num := Rules.times (Rules.num fp16 (el a e)) (Rules.num fp16 (el b e))
        let ts := [Rules.num fp32 d, p 0, p 1]
        ∃ fl, Rules.Gives fp32 rm (Rules.plus rm ts) (dot2h rm a b d).1 fl
          ∧ (dot2h rm a b d).2 = fl ||| Rules.nv (Rules.signalling fp32 d || (List.range 2).any (fun e =>
              Rules.signalling fp16 (el a e) || Rules.signalling fp16 (el b e)
                || Rules.made [Rules.num fp16 (el a e), Rules.num fp16 (el b e)] (p e))
              || (ts.contains (.inf true) && ts.contains (.inf false)))

/-- The conversions of R66 to R70 in exact numbers: between floating-point formats one rounding, saturating when asked; to
integers the rounded integer or the nearest end of the range; from integers one rounding; FP32 sources widen to FP64 exactly
(R34); PACK rounds numbers to BF16 and moves the upper half of a NaN (R117). -/
def Obligations.ConversionsRoundOnce : Prop :=
  (∀ (src dst : CvtType) (f : FFmt) (rm : RM) (sat : Bool) (v : Nat), cvtFmt src = some f →
      let x := Rules.num f v
      let r := convert src dst rm sat v
      (∀ g, cvtFmt dst = some g →
        (x = .nan → r = (g.cnan, Rules.nv (Rules.signalling f v)))
          ∧ (∀ n, x = .inf n → r = if sat then (Rules.pattern g n (Rules.topBody g), flagSAT ||| flagNX)
              else if g.e4m3 then (g.cnan, flagNV) else (Rules.pattern g n (Rules.infBody g), 0))
          ∧ (∀ n, x = .num n 0 → r = (Rules.pattern g n 0, 0))
          ∧ ∀ n q, x = .num n q → q ≠ 0 → Rules.Rounds g rm sat n q r.1 r.2)
        ∧ (cvtFmt dst = none →
          let w := cvtWidth dst
          let lo : ℤ := if cvtSigned dst then -2 ^ (w - 1) else 0
          let hi : ℤ := if cvtSigned dst then 2 ^ (w - 1) - 1 else 2 ^ w - 1
          let put (k : ℤ) : Nat := (k % 2 ^ (if w = 64 then 64 else 32)).toNat
          (x = .nan → r = (0, flagNV))
            ∧ (∀ n, x = .inf n → r = (put (if n then lo else hi), flagNV ||| flagSAT))
            ∧ ∀ n q, x = .num n q →
                let k := Rules.toInteger rm (Rules.signed n q)
                r = if k < lo then (put lo, flagNV ||| flagSAT) else if hi < k then (put hi, flagNV ||| flagSAT)
                    else (put k, if (k : ℚ) = Rules.signed n q then 0 else flagNX)))
    ∧ (∀ (src dst : CvtType) (g : FFmt) (rm : RM) (sat : Bool) (v : Nat), cvtFmt src = none → cvtFmt dst = some g →
        let w := cvtWidth src
        let k : ℤ := if cvtSigned src ∧ 2 ^ (w - 1) ≤ v % 2 ^ w then (v % 2 ^ w : Nat) - 2 ^ w else (v % 2 ^ w : Nat)
        (k = 0 → convert src dst rm sat v = (0, 0))
          ∧ (k ≠ 0 → Rules.Rounds g rm sat (decide (k < 0)) |(k : ℚ)| (convert src dst rm sat v).1 (convert src dst rm sat v).2))
    ∧ (∀ v, Rules.num fp32 v ≠ .nan → Rules.num fp64 (widenF32 v) = Rules.num fp32 v)
    ∧ ∀ (rm : RM) (v : Nat), v < 2 ^ 32 →
        (Rules.num fp32 v = .nan → packElement rm v = (if v / 2 ^ 16 % 2 ^ 7 = 0 then v / 2 ^ 16 + 2 ^ 6 else v / 2 ^ 16, 0))
          ∧ (∀ n, Rules.num fp32 v = .inf n → packElement rm v = (Rules.pattern bf16 n (Rules.infBody bf16), 0))
          ∧ (∀ n, Rules.num fp32 v = .num n 0 → packElement rm v = (Rules.pattern bf16 n 0, 0))
          ∧ ∀ n q, Rules.num fp32 v = .num n q → q ≠ 0 → Rules.Rounds bf16 rm false n q (packElement rm v).1 (packElement rm v).2

/-- Reciprocals, roots and quotients of R121 to R123: for normal operands whose exact result is normal the value lies within its
bound, and is exact for powers; an exact result below the normal values gives zero of its sign with UF and NX, one beyond them
an infinity with OF and NX; zeros, infinities, NaNs and negative operands give the rows of Table 7.2, and a subnormal operand is
a zero with DN. -/
def Obligations.QuotientsAndRootsKeepTheirBounds : Prop :=
  (∀ (a : Nat) (n : Bool) (q : ℚ), Rules.normal fp32 a n q →
      (Rules.inBounds fp32 ((1 / q : ℚ) : ℝ) → Rules.WithinUlps fp32 1 n ((1 / q : ℚ) : ℝ) (recip fp32 0 (.ulp 1) true a))
        ∧ ((1 / q : ℚ) < Rules.mag fp32 (2 ^ 23) → recip fp32 0 (.ulp 1) true a = (Rules.pattern fp32 n 0, flagUF ||| flagNX))
        ∧ (n = false → Rules.WithinUlps fp32 2 false (1 / Real.sqrt q) (rsqrt fp32 1 (.ulp 2) true a)
            ∧ Rules.WithinUlps fp32 1 false (Real.sqrt q) (sqrtF a))
        ∧ (n = true → rsqrt fp32 1 (.ulp 2) true a = (fp32.cnan, flagNV) ∧ sqrtF a = (fp32.cnan, flagNV))
        ∧ (∀ k : ℤ, q = 2 ^ k → Rules.inBounds fp32 ((1 / q : ℚ) : ℝ) → Rules.num fp32 (recip fp32 0 (.ulp 1) true a).1 = .num n (1 / q))
        ∧ (∀ k : ℤ, n = false → q = 4 ^ k → Rules.num fp32 (rsqrt fp32 1 (.ulp 2) true a).1 = .num false (2 ^ (-k))
            ∧ Rules.num fp32 (sqrtF a).1 = .num false (2 ^ k)))
    ∧ (∀ (a b : Nat) (n m : Bool) (q r : ℚ), Rules.normal fp32 a n q → Rules.normal fp32 b m r →
        (Rules.inBounds fp32 ((q / r : ℚ) : ℝ) → q / r ≤ Rules.mag fp32 (Rules.topBody fp32) →
            Rules.WithinUlps fp32 2 (n != m) ((q / r : ℚ) : ℝ) (divF a b))
          ∧ (q / r < Rules.mag fp32 (2 ^ 23) → divF a b = (Rules.pattern fp32 (n != m) 0, flagUF ||| flagNX))
          ∧ (Rules.mag fp32 (Rules.topBody fp32) < q / r → divF a b = (Rules.pattern fp32 (n != m) (Rules.infBody fp32), flagOF ||| flagNX)))
    ∧ (∀ (a : Nat) (n : Bool) (q : ℚ), Rules.normal fp64 a n q →
        (Rules.inBounds fp64 ((1 / q : ℚ) : ℝ) →
            Rules.Within fp64 (((1 / q : ℚ) : ℝ) / 2 ^ 23) (Rules.signed n (1 / q) : ℚ) (recip fp64 9 (.rel 23) false a))
          ∧ (n = false → Rules.Within fp64 (1 / Real.sqrt q / 2 ^ 23) (1 / Real.sqrt q) (rsqrt fp64 10 (.rel 23) false a)))
    ∧ ∀ (f : FFmt) (a : Nat) (n : Bool) (op : Nat) (b : Bound) (pow : Bool), f = fp32 ∨ f = fp64 →
        (∀ q, Rules.num f a = .num n q → q < Rules.mag f (2 ^ f.mw) →
          let dn : Word := if q = 0 then 0 else flagDN
          recip f op b pow a = (Rules.pattern f n (Rules.infBody f), dn ||| flagDZ)
            ∧ rsqrt f op b pow a = (Rules.pattern f n (Rules.infBody f), dn ||| flagDZ)
            ∧ (f = fp32 → sqrtF a = (Rules.pattern fp32 n 0, dn)))
          ∧ (Rules.num f a = .inf n →
              recip f op b pow a = (Rules.pattern f n 0, 0)
                ∧ rsqrt f op b pow a = (if n then (f.cnan, flagNV) else (0, 0))
                ∧ (f = fp32 → sqrtF a = (if n then (f.cnan, flagNV) else (Rules.infBody fp32, 0))))
          ∧ (Rules.num f a = .nan →
              recip f op b pow a = (f.cnan, Rules.nv (Rules.signalling f a))
                ∧ rsqrt f op b pow a = (f.cnan, Rules.nv (Rules.signalling f a))
                ∧ (f = fp32 → sqrtF a = (f.cnan, Rules.nv (Rules.signalling f a))))

/-- The transcendental functions of R121 to R123 as real functions: for normal operands whose exact result is normal, FEXP2 and
FLOG2 lie within 2 ulps, FLOG2 from 0.5 to 2 within 2^-22, FSINPI and FCOSPI within 2^-22, FTANH within 2^-21; integers, powers
of two, half-integers and |a| of 9.0 and more give exact results (that FTANH counts as exact there is log 19, that FLOG2 of 1.0
is +0 is log 90). -/
def Obligations.TranscendentalsKeepTheirBounds : Prop :=
  ∀ (a : Nat) (n : Bool) (q : ℚ), Rules.normal fp32 a n q →
    let x : ℝ := ((Rules.signed n q : ℚ) : ℝ)
    (Rules.inBounds fp32 ((2 : ℝ) ^ x) → Rules.WithinUlps fp32 2 false ((2 : ℝ) ^ x) (exp2F a))
      ∧ (∀ k : ℤ, Rules.signed n q = k → -126 ≤ k → k ≤ 127 → Rules.num fp32 (exp2F a).1 = .num false (2 ^ k) ∧ (exp2F a).2 = 0)
      ∧ (128 ≤ Rules.signed n q → exp2F a = (Rules.infBody fp32, flagOF ||| flagNX))
      ∧ (Rules.signed n q < -126 → exp2F a = (0, flagUF ||| flagNX))
      ∧ (n = false → 1 / 2 ≤ q → q ≤ 2 → Rules.Within fp32 (1 / 2 ^ 22) (Real.logb 2 x) (log2F a))
      ∧ (n = false → q < 1 / 2 ∨ 2 < q → Rules.WithinUlps fp32 2 (decide (q < 1)) |Real.logb 2 x| (log2F a))
      ∧ (n = true → log2F a = (fp32.cnan, flagNV))
      ∧ (∀ k : ℤ, n = false → q = 2 ^ k → Rules.num fp32 (log2F a).1 = .num (decide (k < 0)) |(k : ℚ)| ∧ (log2F a).2 = 0)
      ∧ Rules.Within fp32 (1 / 2 ^ 22) (Real.sin (Real.pi * x)) (sinpiF false 6 a)
      ∧ Rules.Within fp32 (1 / 2 ^ 22) (Real.cos (Real.pi * x)) (sinpiF true 7 a)
      ∧ (∀ k : ℤ, Rules.signed n q = k → sinpiF false 6 a = (0, 0)
          ∧ sinpiF true 7 a = (Rules.pattern fp32 (decide (k % 2 = 1)) (127 * 2 ^ 23), 0))
      ∧ (∀ k : ℤ, Rules.signed n q = k + 1 / 2 → sinpiF true 7 a = (0, 0)
          ∧ sinpiF false 6 a = (Rules.pattern fp32 (decide (k % 2 = 1)) (127 * 2 ^ 23), 0))
      ∧ (9 ≤ q → tanhF a = (Rules.pattern fp32 n (127 * 2 ^ 23), 0))
      ∧ (q < 9 → Rules.mag fp32 (2 ^ 23) < q → Rules.Within fp32 (1 / 2 ^ 21) (Real.tanh x) (tanhF a))

/-! ### Class 3 -/

namespace Sys2Proof.Rules
open Sys2Proof Sys2Proof.Machine

/-- The scratchpad instructions: whether one stores, its bytes and its fields (R131). -/
def scratch : Instr → Option (Bool × Nat × MMX)
  | .ldsw m => some (false, 4, m)
  | .ldsd m => some (false, 8, m)
  | .ldsq m => some (false, 16, m)
  | .stsw m => some (true, 4, m)
  | .stsd m => some (true, 8, m)
  | .stsq m => some (true, 16, m)
  | _ => none

/-- The homed and private loads: bytes, sign, private or not, acquire and release scopes, fields (R248, R249). -/
def load : Instr → Option (Nat × Bool × Bool × Option Scope × Option Scope × MML)
  | .ldb m => some (1, false, false, none, none, m)
  | .ldbs m => some (1, true, false, none, none, m)
  | .ldh m => some (2, false, false, none, none, m)
  | .ldhs m => some (2, true, false, none, none, m)
  | .ldw m => some (4, false, false, none, none, m)
  | .ldd m => some (8, false, false, none, none, m)
  | .ldq m => some (16, false, false, none, none, m)
  | .ldpw m => some (4, false, true, none, none, m)
  | .ldpd m => some (8, false, true, none, none, m)
  | .ldaw m sc .acq => some (4, false, false, some sc, none, m)
  | .ldaw m sc .sc => some (4, false, false, some sc, some sc, m)
  | .ldad m sc .acq => some (8, false, false, some sc, none, m)
  | .ldad m sc .sc => some (8, false, false, some sc, some sc, m)
  | _ => none

/-- The stores: bytes, reversed or not, private or not, fields (R250). -/
def store : Instr → Option (Nat × Bool × Bool × MMS)
  | .stb m => some (1, false, false, m)
  | .sth m => some (2, false, false, m)
  | .stw m => some (4, false, false, m)
  | .std m => some (8, false, false, m)
  | .stq m => some (16, false, false, m)
  | .strw m => some (4, true, false, m)
  | .strd m => some (8, true, false, m)
  | .stpw m => some (4, false, true, m)
  | .stpd m => some (8, false, true, m)
  | _ => none

/-- Byte `j` of the register group at `n` in a lane: byte j mod 4 of register n + j / 4 (R3, R131). -/
def groupByte (g : Group) (n : VReg) (l j : Nat) : Byte := (g.lane (n.toNat + j / 4) l).extractLsb' (8 * (j % 4)) 8

/-- The highest active lane among those whose n bytes from `addr` hold byte `a`. -/
def lastWriter (s : State) (addr : Nat → Nat) (n a l : Nat) : Prop :=
  s.active.getLsbD l = true ∧ addr l ≤ a ∧ a < addr l + n
    ∧ ∀ k, l < k → s.active.getLsbD k = true → ¬(addr k ≤ a ∧ a < addr k + n)

/-- The first active lane with a property, in increasing order. -/
def firstLane (s : State) (P : Nat → Prop) (l : Nat) : Prop :=
  s.active.getLsbD l = true ∧ P l ∧ ∀ k, k < l → s.active.getLsbD k = true → ¬P k

/-- An access of n bytes at an offset reaches past the lease, or a wide one of the diagnostic group reaches a port word (R132, 08
R137). -/
def pastEnd (s : State) (n len o : Nat) : Prop := len < o + n ∨ (s.g.diag = true ∧ 8 ≤ n ∧ diagPorts < o + n)

/-- The words that a scratch access names lie inside the lease and are aligned (R132). -/
def scratchFits (s : State) (m : MMX) (n len : Nat) : Prop :=
  ∀ l, s.active.getLsbD l = true → scratchOffset s m l % n = 0 ∧ ¬pastEnd s n len (scratchOffset s m l)

/-- A word of a core's lease as a group's load reads it: of the diagnostic lease, a cell, a repair entry or a port (08 R137, R138). -/
def scratchWord (s : State) (core a : Nat) : Word :=
  if s.g.diag = true then diagWord (s.core core) a else BitVec.ofNat 32 (Bytes.readN (s.core core).scratch a 4)

/-- Earlier accesses of the split still come before its scratch accesses: an acquire that is not performed, and before a store a release
fence (14 R236 to R238). -/
def scratchHeld (s : State) (write : Bool) : Prop := s.g.sp.acquire ≠ [] ∨ (write = true ∧ s.g.sp.fence ≠ [])

/-- The registers of a scratch access are legal (R131). -/
def scratchRegs (s : State) (m : MMX) (n : Nat) : Bool := dataOk s n m.vd && regOk s false m.va

/-- Everything of the group but its registers and what waits on memory stands as before. -/
def OutsideWaits (s t : State) : Prop :=
  { t.g with v := s.g.v, poisonV := s.g.poisonV, accs := s.g.accs, sp := s.g.sp, sibs := s.g.sibs } = s.g

/-- The split goes on behind the instruction and keeps its scalars, flags and lanes. -/
def WentOn (s t : State) : Prop :=
  t.g.sp.pc = (complete s).g.sp.pc ∧ t.g.sp.clause = (complete s).g.sp.clause ∧ t.g.sp.s = s.g.sp.s
    ∧ t.g.sp.fpstat = s.g.sp.fpstat ∧ t.g.sp.lanes = s.g.sp.lanes ∧ t.g.sp.home = s.g.sp.home ∧ t.g.sp.idx = s.g.sp.idx

/-- The vector registers, predicates, EM and BCUR of the group stand as before. -/
def SameRegisters (s t : State) : Prop :=
  t.g.v = s.g.v ∧ t.g.p = s.g.p ∧ t.g.em = s.g.em ∧ t.g.bcur = s.g.bcur

/-- The private memory of an anchored group is reached from a handler: the access is performed at the base home, and the split waits in
place (21 R316). -/
def waitsInPlace (s : State) (priv : Bool) : Bool := priv && s.g.sup && s.g.sp.clause.anch

/-- A homed or private access can be performed where the split stands: no check of R246 fails, and every lane's address is
served by the split's home, but for those that wait in place. -/
def inPlace (s : State) (f : AccessForm) : Prop :=
  f.failure s = none ∧ (waitsInPlace s f.priv = true ∨ ∀ a ∈ f.accesses s, homeOfPa a.pa = s.g.sp.home)

/-- A moving instruction has its live set (R215): from the kernel's table, or, after a move, with it (R220). -/
def liveSetIs (s : State) (n : BitVec 6) (keep : LiveSet) : Prop :=
  (s.g.sp.tail.isSome = true ∧ keep = s.g.sp.live)
    ∨ (s.g.sp.tail = none ∧ liveSetAt s (instrPc s).toNat n.toNat = .ok keep)
def liveSetKnown (s : State) (n : BitVec 6) : Prop := ∃ keep, liveSetIs s n keep

/-- DIAGINJ raises its error at the load (22 R332): it fires here, or fired before the split moved. -/
def injected (s : State) : Bool :=
  match s.g.sp.tail with
  | none => injFires 3 s.g.diaginj
  | some t => t.inject

/-- A line that an access reads is sound, in both copies on a mirrored page (22 R339, 25 R369), and its page is not in CUTOVER (25 R373). -/
def soundLine (s : State) (a : LaneAccess) : Prop :=
  poisonedLine s (a.pa / 64) = false ∧ (pteMirror a.pte = true → poisonedLine s (mirrorOf s a.pa / 64) = false)
    ∧ cutoverMove s (homeOfPa a.pa) a.pa = none

/-- The byte at p is none of the n bytes at an address: in tier 2 two addresses may name one byte of the host's memory (26 R380). -/
def Elsewhere (s : State) (pa n p : Nat) : Prop :=
  ¬(pa ≤ p ∧ p < pa + n) ∧ ∀ i, i < n → hostKey s p = none ∨ hostKey s p ≠ hostKey s (pa + i)

/-- The n bytes at an address are n bytes of memory. -/
def Distinct (s : State) (pa n : Nat) : Prop := ∀ i j, i < j → j < n → hostKey s (pa + i) = none ∨ hostKey s (pa + i) ≠ hostKey s (pa + j)

/-- The earlier writes of the split to MANTLE pages are durable (15 R253, 14 R244). -/
def durable (s : State) (sc : Scope) : Prop :=
  sc = .mantle → s.g.sp.strands = [] ∧ (∀ p ∈ ownPackets s, pteMantle p.pte = false)
    ∧ ∀ a ∈ ownAccesses s, a.kind.writes = true → ∀ l ∈ a.lanes, pteMantle l.pte = false

/-- The form of a class-3 or class-6 access. -/
def accessForm (s : State) (va : VReg) (sb : SReg) (priv : Bool) (size : Nat) (need : Need) (moves : Bool) : AccessForm :=
  { lanes := lanesOf s.active, addr := laneAddr s va sb, priv := priv, size := size, need := need, moves := moves }

end Sys2Proof.Rules

/-- LDSW, LDSD and LDSQ: each active lane's words from the lease, whose place is added to the lane's offset, enter the register
group of the destination; every lane reads before any register is written; nothing else changes. A diagnostic group reads the
words of its lease as they are. A load waits for the acquires before it. STSW, STSD and STSQ: the bytes of each active lane's
register group reach the lease at the lane's offset, the highest lane's where several write one byte; a word written whole loses
its poison; every other byte of every scratchpad, memory and every register stay, and only splits that watch such words are
woken. A diagnostic group's words reach the cells, entries and ports of its lease, lane by lane. A store waits for the acquires
and release fences before it. -/
def Obligations.ScratchAccesses : Prop :=
  (∀ (s : State) (i : Instr) (n : Nat) (m : MMX) (core base len : Nat), Rules.scratch i = some (false, n, m) →
      scratchPlace s = some (core, base, len) → Rules.scratchRegs s m n = true → Rules.scratchFits s m n len →
      (Rules.scratchHeld s false → exec i s = .next s) ∧
      (¬Rules.scratchHeld s false →
      (s.g.diag = false → ∀ l, s.active.getLsbD l = true → ∀ j, j < n / 4 →
        Cells.get false (s.core core).poison ((base + scratchOffset s m l) / 4 + j) = false) →
      ∃ t, exec i s = .next t ∧ Rules.OutsideGroup s t ∧ Rules.OutsideRegisters s t
        ∧ Rules.OutsideSplit s (t.setSp fun sp => { sp with lastLoad := s.g.sp.lastLoad }) ∧ Rules.WentOn s t
        ∧ t.g.p = s.g.p ∧ t.g.em = s.g.em ∧ t.g.bcur = s.g.bcur
        ∧ ∀ r l, l < 32 → t.g.lane r l
            = if s.active.getLsbD l = true ∧ m.vd.toNat ≤ r ∧ r < m.vd.toNat + n / 4 then
                Rules.scratchWord s core (base + scratchOffset s m l + 4 * (r - m.vd.toNat))
              else s.g.lane r l))
    ∧ (∀ (s : State) (i : Instr) (n : Nat) (m : MMX) (core base len : Nat), Rules.scratch i = some (true, n, m) →
      scratchPlace s = some (core, base, len) → Rules.scratchRegs s m n = true → Rules.scratchFits s m n len →
      (Rules.scratchHeld s true → exec i s = .next s) ∧
      (¬Rules.scratchHeld s true →
      ∃ t, exec i s = .next t ∧ { t with g := s.g, others := s.others, cores := s.cores } = s ∧ Rules.SameRegisters s t
        ∧ Rules.WentOn s t ∧ (∀ c, c ≠ core → t.core c = s.core c)
        ∧ (s.g.diag = false → { t.core core with scratch := (s.core core).scratch, poison := (s.core core).poison } = s.core core
            ∧ (∀ a l, Rules.lastWriter s (fun l => base + scratchOffset s m l) n a l →
                Bytes.read (t.core core).scratch a = Rules.groupByte s.g m.vd l (a - (base + scratchOffset s m l)))
            ∧ ∀ a, (∀ l, ¬Rules.lastWriter s (fun l => base + scratchOffset s m l) n a l) →
                Bytes.read (t.core core).scratch a = Bytes.read (s.core core).scratch a)
        ∧ (s.g.diag = true → t.core core = (lanesOf s.active).foldl (fun c l =>
            (List.range (n / 4)).foldl (fun c j =>
              setDiagWord c (base + scratchOffset s m l + 4 * j) (s.g.lane (m.vd.toNat + j) l)) c) (s.core core))))

/-- A load whose addresses translate to its split's home issues one in-place access for each 64-byte line: every lane's access
with its translated address lies in exactly one of them, all lanes of one access lie in one line, and no register or byte of
memory changes yet. The split goes on, past a safe point; its STATE is that of a wait only when it waits in place for its
private memory. The home performs a load's line: each lane that its split still holds receives the little-endian bytes at its
address, zero- or sign-extended to a register or spread over its group; no other register and no byte of memory changes, and the
access is over. -/
def Obligations.LoadsIssueAndReadMemory : Prop :=
  (∀ (s : State) (i : Instr) (n : Nat) (sgn priv : Bool) (acq rel : Option Scope) (m : MML),
      Rules.load i = some (n, sgn, priv, acq, rel, m) → (dataOk s n m.vd && addrOk s m.va m.sb) = true →
      Rules.liveSetKnown s m.ls → s.active ≠ 0 → Rules.inPlace s (Rules.accessForm s m.va m.sb priv n .read true) →
      Rules.injected s = false →
      (∀ a ∈ (Rules.accessForm s m.va m.sb priv n .read true).accesses s, linePoisoned s a = false ∧ mirrorAwaited s a = false) →
      ∃ t new, exec i s = .next t ∧ t.g.accs = s.g.accs ++ new ∧ Rules.SameRegisters s t ∧ t.mem = s.mem ∧ Rules.WentOn s t
        ∧ t.g.sp.safe = 0 ∧ t.packets = s.packets ∧ t.g.sp.ops = s.g.sp.ops
        ∧ t.g.sp.status = (if Rules.waitsInPlace s priv = true then .waiting else s.g.sp.status)
        ∧ (∀ a ∈ new, a.kind = .load n sgn ∧ a.vd = m.vd.toNat ∧ a.owners = [s.g.sp.idx] ∧ a.mask = s.active
            ∧ a.stall = Rules.waitsInPlace s priv ∧ s.fresh ≤ a.id ∧ ∃ ln, ∀ x ∈ a.lanes, x.pa / 64 = ln)
        ∧ new.Pairwise (fun a b => a.id ≠ b.id ∧ ∀ x ∈ a.lanes, ∀ y ∈ b.lanes, x.pa / 64 ≠ y.pa / 64)
        ∧ ∀ x, x ∈ (Rules.accessForm s m.va m.sb priv n .read true).accesses s ↔ ∃ a ∈ new, x ∈ a.lanes)
    ∧ (∀ (s : State) (a : Access) (n : Nat) (sgn : Bool), s.g.life = .live → s.g.accs.find? (fun x => x.id == a.id) = some a →
      a.kind = .load n sgn → n = 1 ∨ n = 2 ∨ n = 4 ∨ n = 8 ∨ n = 16 → a.held = false → a.after = [] → a.lanes ≠ [] →
      (sgn = true → n ≤ 4) → (a.lanes.map (·.lane)).Nodup →
      (∀ x ∈ a.lanes, x.lane < 32 ∧ paTier x.pa ≠ 3 ∧ x.pa % n = 0 ∧ Rules.soundLine s x) →
      ∃ t, exec (.inPlaceAccessComplete s.g.gid a.id) s = .next t ∧ (∀ p, t.byte p = s.byte p)
        ∧ t.g.p = s.g.p ∧ t.g.em = s.g.em ∧ t.g.sp.s = s.g.sp.s ∧ t.packets.length = s.packets.length
        ∧ (∀ x ∈ t.g.accs, x.id ≠ a.id)
        ∧ (∀ x ∈ a.lanes, laneOwned s.g a x.lane = true → ∀ j, j < max 1 (n / 4) →
            t.g.lane (a.vd + j) x.lane
              = if n < 4 then (if sgn then (BitVec.ofNat (8 * n) (s.readN x.pa n)).signExtend 32
                               else BitVec.ofNat 32 (s.readN x.pa n))
                else BitVec.ofNat 32 (s.readN (x.pa + 4 * j) 4))
        ∧ ∀ r l, l < 32 → (∀ x ∈ a.lanes, laneOwned s.g a x.lane = true → x.lane = l → ¬(a.vd ≤ r ∧ r < a.vd + max 1 (n / 4))) →
            t.g.lane r l = s.g.lane r l)

/-- A store that may be posted posts one operation: its packets carry, for each byte that an active lane's access covers, the
byte of the highest such lane, reversed within the element by STRW and STRD; a packet's bytes lie in one line and go to the home
that serves it; POST rises by one operation; no register and no byte of memory changes yet. One that waits in place for its
private memory is posted at the base home. A home accepts the first packet of its queue that has crossed to it: its bytes are in
memory, every other byte reads as before, and the packet is gone; the packets that stay keep their order. Copies for a mirror
that come before it, and packets to the old home of a moved page, are accepted first. On a MIRROR page a copy of the bytes is
then on its way to the mirror. -/
def Obligations.StoresPostAndWriteMemory : Prop :=
  (∀ (s : State) (i : Instr) (n : Nat) (rev priv : Bool) (m : MMS), Rules.store i = some (n, rev, priv, m) →
      (m.order = .rlx ∨ m.order = .rel ∨ m.order = .sc) → (dataOk s n m.vd && addrOk s m.va m.sb) = true → s.active ≠ 0 →
      (Rules.accessForm s m.va m.sb priv n .write false).failure s = none → counter .post s.g.sp < 63 →
      let as := (Rules.accessForm s m.va m.sb priv n .write false).accesses s
      (∀ a ∈ as, a.pa % n = 0) →
      ∃ t ps, exec i s = .next t ∧ t.packets = s.packets ++ ps ∧ t.g.sp.ops = s.g.sp.ops ++ [{ id := s.fresh, cls := .post }]
        ∧ Rules.SameRegisters s t ∧ t.mem = s.mem ∧ Rules.WentOn s t ∧ t.g.accs = s.g.accs
        ∧ t.g.sp.status = (if Rules.waitsInPlace s priv = true then .waiting else s.g.sp.status)
        ∧ (∀ p ∈ ps, p.id = s.fresh ∧ p.gid = some s.g.gid ∧ p.cls = 0
            ∧ p.src = (if Rules.waitsInPlace s priv = true then s.g.baseHome else s.g.sp.home)
            ∧ ∃ bs ln, p.body = .store bs ∧ ∀ b ∈ bs, b.1 / 64 = ln ∧ p.dst = homeOfPa b.1)
        ∧ ∀ (pa : Nat) (x : Byte), (∃ p ∈ ps, ∃ bs, p.body = .store bs ∧ (pa, x) ∈ bs)
            ↔ ∃ a ∈ as, a.pa ≤ pa ∧ pa < a.pa + n
                ∧ x = Rules.groupByte s.g m.vd a.lane (if rev then n - 1 - (pa - a.pa) else pa - a.pa)
                ∧ ∀ b ∈ as, a.lane < b.lane → ¬(b.pa ≤ pa ∧ pa < b.pa + n))
    ∧ (∀ (s : State) (src dst : Nat) (p : Packet) (rest : List Packet) (bs : List (Nat × Byte)), s.g.life = .live →
      takeFirst (fun q => inQueue src dst q && q.cls == 0) s.packets = some (p, rest) → p.body = .store bs →
      (bs.map (·.1)).Nodup → bs ≠ [] → (∀ b ∈ bs, paTier b.1 < 2) ∨ (∀ b ∈ bs, paTier b.1 = 2) →
      (bs.Pairwise fun b c => hostKey s b.1 = none ∨ hostKey s b.1 ≠ hostKey s c.1) →
      p.mantle = none ∨ pteMantle p.pte = false → isDegraded s p.body.address p.pte = false → takesTraffic s dst = true →
      crossed s (homePkg src) (homePkg dst) 0 p.cross = true → copyBefore s p = false → behindMove s p = false →
      cutoverMove s dst p.body.address = none →
      ∃ t, exec (.packetAccept src dst) s = .next t
        ∧ (∀ b ∈ bs, t.byte b.1 = b.2)
        ∧ (∀ a, (∀ b ∈ bs, Rules.Elsewhere s b.1 1 a) → t.byte a = s.byte a)
        ∧ t.packets.map (·.id) = rest.map (·.id) ∧ t.g.v = s.g.v ∧ t.g.p = s.g.p
        ∧ (pteMirror p.pte = false → t.mirrors = s.mirrors)
        ∧ (pteMirror p.pte = true → ∃ c, t.mirrors = s.mirrors ++ [(homeOfPa (mirrorOf s p.body.address), c)] ∧ c.id = p.id
            ∧ c.body = .store (bs.map fun b => (mirrorOf s b.1, b.2))))

/-- MIGRATE whose lanes' addresses are served by the split's home only goes on; HOMEOF writes HomeOf of each active lane's
address, or all ones where it does not translate for this group. A FENCE with .acq waits for the split's loads and atomics, one
with .sc for every earlier access to D(S); one with .rel or .ar goes on and holds later writes until those accesses are
performed. At .mantle scope every fence but .acq waits until the split's earlier writes to MANTLE pages are durable. -/
def Obligations.MigrateHomeofFence : Prop :=
  ∀ (s : State) (ls : BitVec 6) (va : VReg) (sb : SReg) (m : MMX) (sc : Scope) (o : Order),
    (addrOk s va sb = true → Rules.liveSetKnown s ls → s.active ≠ 0 →
        Rules.inPlace s (Rules.accessForm s va sb false 0 .read true) →
        exec (.migrate ls va sb) s = .next (completeSafe s.spend))
      ∧ ((regOk s false m.vd && addrOk s m.va m.sb) = true →
          exec (.homeof m) s = .next (complete (writeV m.vd.toNat s.active (fun l =>
            let a := laneAddr s m.va m.sb l
            if 2 ^ 56 ≤ a then 0xFFFFFFFF
            else match translate s s.g.sp.home s.g.ctx a with
              | .ok pa pte _ => if pteUser pte = true ∨ s.g.sup = true then BitVec.ofNat 32 (homeOfPa pa) else 0xFFFFFFFF
              | _ => 0xFFFFFFFF) s.spend)))
      ∧ (o = .acq → ownAccesses s = [] → exec (.fence sc o) s = .next (complete s))
      ∧ (o = .sc → releaseTokens sc s = [] → Rules.durable s sc → exec (.fence sc o) s = .next (complete s))
      ∧ ((o = .acq ∨ o = .ar) → ownAccesses s ≠ [] → exec (.fence sc o) s = .next s)
      ∧ (o = .sc → releaseTokens sc s ≠ [] → exec (.fence sc o) s = .next s)
      ∧ ((o = .rel ∨ o = .ar ∨ o = .sc) → ¬Rules.durable s sc → exec (.fence sc o) s = .next s)
      ∧ (o = .rel ∨ (o = .ar ∧ ownAccesses s = []) → Rules.durable s sc → releaseTokens sc s = [] →
          exec (.fence sc o) s = .next (complete s))
      ∧ (o = .rel ∨ (o = .ar ∧ ownAccesses s = []) → Rules.durable s sc → releaseTokens sc s ≠ [] →
          ∃ t f, exec (.fence sc o) s = .next t ∧ t.packets = s.packets ++ [f] ∧ f.body = .fence ∧ f.id = s.fresh ∧ f.held = true
            ∧ f.after = releaseTokens sc s ∧ t.g.sp.fence = s.g.sp.fence ++ [2 * s.fresh] ∧ Rules.SameRegisters s t
            ∧ t.mem = s.mem ∧ Rules.WentOn s t)
      ∧ exec (.fence sc .rlx) s = .next (Rules.trapsAt 0x02 3 0 0 s)

/-! ### Class 6 -/

namespace Sys2Proof.Rules
open Sys2Proof Sys2Proof.Machine

/-- An access of the SA format: kind, fields, legality of its data registers, the status register of a deque operation, and
each lane's operand and compare value (R254, R255, R259). -/
structure SaRule where
  kind : AccessKind
  m : SA
  legal : Bool
  vs : Nat := 0
  x : Nat → Nat := fun _ => 0
  c : Nat → Nat := fun _ => 0

/-- A lane's operand of 4 or 8 bytes, from the operand tail of a moved instruction (R247). -/
def operand (s : State) (w : Bool) (n : VReg) (l : Nat) : Nat :=
  if w then (srcLane s n.toNat l).toNat + 2 ^ 32 * (srcLane s (n.toNat + 1) l).toNat else (srcLane s n.toNat l).toNat

/-- A lane's element of 4 or 8 bytes. -/
def element (s : State) (w : Bool) (n : VReg) (l : Nat) : Nat :=
  if w then (s.g.lane n.toNat l).toNat + 2 ^ 32 * (s.g.lane (n.toNat + 1) l).toNat else (s.g.lane n.toNat l).toNat

/-- A returning atomic of Table 15.3. -/
def atom (s : State) (op : Nat) (m : SA) : SaRule :=
  { kind := .atomic op m.w64, m := m
    legal := regOk s m.w64 m.vd && regOk s m.w64 m.vx && (decide (op ≠ 9) || regOk s m.w64 m.vc)
    x := operand s m.w64 m.vx, c := fun l => if op = 9 then operand s m.w64 m.vc l else 0 }

/-- The atomics and deque operations. -/
def sa (s : State) : Instr → Option SaRule
  | .atadd m => some (atom s 0 m)
  | .atmin m => some (atom s 1 m)
  | .atmax m => some (atom s 2 m)
  | .atminu m => some (atom s 3 m)
  | .atmaxu m => some (atom s 4 m)
  | .atand m => some (atom s 5 m)
  | .ator m => some (atom s 6 m)
  | .atxor m => some (atom s 7 m)
  | .atxch m => some (atom s 8 m)
  | .atcas m => some (atom s 9 m)
  | .atfadd m => some (atom s 10 m)
  | .dqpush m => some { kind := .dqpush m.w64, m := m, legal := regOk s false m.vd && regOk s m.w64 m.vx
                        x := operand s m.w64 m.vx }
  | .dqpop m => some { kind := .dqpop m.w64, m := m, legal := regOk s m.w64 m.vd && regOk s false m.vc, vs := m.vc.toNat }
  | .dqsteal m => some { kind := .dqsteal m.w64, m := m, legal := regOk s m.w64 m.vd && regOk s false m.vc, vs := m.vc.toNat }
  | _ => none

/-- The form of an SA access (R254, R258). -/
def saForm (s : State) (q : SaRule) : AccessForm := accessForm s q.m.va q.m.sb false q.kind.size .write true

/-- The new value of an atomic's location, from the old one, the operand and the compare value (Table 15.3). -/
def atomValue (op : Nat) (w : Bool) (old x c : Nat) : Nat :=
  let n := if w then 64 else 32
  let sg (a : Nat) : Int := (BitVec.ofNat n a).toInt
  match op with
  | 0 => (old + x) % 2 ^ n
  | 1 => if sg x < sg old then x else old
  | 2 => if sg old < sg x then x else old
  | 3 => if x < old then x else old
  | 4 => if old < x then x else old
  | 5 => Nat.land old x
  | 6 => Nat.lor old x
  | 7 => Nat.xor old x
  | 8 => x
  | 9 => if old = c then x else old
  | _ => if w then (fp64.add .rne old x).1 % 2 ^ 64 else (fp32.add .rne old x).1 % 2 ^ 32

/-- A moving instruction with legal registers, whose access does not wait in place: its live-set index and the form of its access (R219). -/
def movesBy (s : State) (i : Instr) (ls : BitVec 6) (f : AccessForm) : Prop :=
  (∃ n sgn priv acq rel m, load i = some (n, sgn, priv, acq, rel, m) ∧ (dataOk s n m.vd && addrOk s m.va m.sb) = true
      ∧ waitsInPlace s priv = false ∧ ls = m.ls ∧ f = accessForm s m.va m.sb priv n .read true)
    ∨ (∃ q, sa s i = some q ∧ (q.legal && addrOk s q.m.va q.m.sb) = true ∧ ls = q.m.ls ∧ f = saForm s q)
    ∨ ∃ va sb, i = .migrate ls va sb ∧ addrOk s va sb = true ∧ f = accessForm s va sb false 0 .read true

/-- The split of a lane set has exactly the lanes whose accesses lie at a home. -/
def lanesAreAt (as : List LaneAccess) (h : Nat) (m : LaneSet) : Prop :=
  ∀ l, m.getLsbD l = true ↔ ∃ a ∈ as, a.lane = l ∧ l < 32 ∧ homeOfPa a.pa = h

/-- The free entries of the split table, from the trap floor on (10 R164, 21 R317). -/
def freeEntries (g : Group) : List Nat :=
  (List.range 32).filter fun i => g.floor ≤ i && !g.splits.any fun sp => sp.idx == i && sp.joins.isNone

/-- One combining step of a posted reduction (Table 15.5, R80). -/
def reduceValue (op a b : Nat) : Nat :=
  match op with
  | 0 => (a + b) % 2 ^ 32
  | 1 => if (BitVec.ofNat 32 b).toInt < (BitVec.ofNat 32 a).toInt then b else a
  | 2 => if (BitVec.ofNat 32 a).toInt < (BitVec.ofNat 32 b).toInt then b else a
  | 3 => Nat.land a b
  | 4 => Nat.lor a b
  | 5 => Nat.xor a b
  | 6 => (fp32.add .rne (a % 2 ^ 32) (b % 2 ^ 32)).1 % 2 ^ 32
  | _ => (fp64.add .rne (a % 2 ^ 64) (b % 2 ^ 64)).1 % 2 ^ 64

/-- The posted reductions: opcode less 0x10, bytes, fields (R257). -/
def reduction : Instr → Option (Nat × Nat × MMS)
  | .rdadd m => some (0, 4, m)
  | .rdmin m => some (1, 4, m)
  | .rdmax m => some (2, 4, m)
  | .rdand m => some (3, 4, m)
  | .rdor m => some (4, 4, m)
  | .rdxor m => some (5, 4, m)
  | .rdfadd m => some (6, 4, m)
  | .rddadd m => some (7, 8, m)
  | _ => none

/-- The one access of an instruction with a uniform address passes every check and translates (R246). -/
def uniformAt (s : State) (a : DWord) (size : Nat) (need : Need) (x : LaneAccess) : Prop :=
  let f : AccessForm := { lanes := [0], addr := fun _ => a.toNat, size := size, need := need }
  f.failure s = none ∧ f.accesses s = [x]

/-- The word that a wait watches and its condition: the generation after the group's note for the barrier of its team, a
generation word, a signal (R265, R267, R268). `priv`: the word is private memory of the group. -/
def waitsOn (s : State) (i : Instr) (ls : BitVec 6) (w : Wait) (priv : Bool) : Prop :=
  match i with
  | .barwait l | .barsync l =>
    l = ls ∧ (i = .barwait l ∨ s.g.sp.wonly = true) ∧ converged s = true ∧ s.g.diag = false ∧ counter .sync s.g.sp = 0
      ∧ priv = isPrivate s s.g.teamVa.toNat
      ∧ ∃ r n, s.g.team = some r ∧ s.g.note = some n ∧ w = { pa := r + 4, cond := .gen (n + 1) }
  | .genwait l a b =>
    l = ls ∧ ∃ x, uniformAt s (srcScalar s a) 4 .read x ∧ priv = isPrivate s x.va
      ∧ w = { pa := x.pa, cond := .gen ((srcScalar s b).setWidth 32) }
  | .sigwait l a b =>
    l = ls ∧ ∃ x, uniformAt s (srcScalar s a) 8 .read x ∧ priv = isPrivate s x.va ∧ w = { pa := x.pa, cond := .sig (srcScalar s b) }
  | _ => False

end Sys2Proof.Rules

/-- An atomic or deque operation whose addresses are served by its split's home issues one in-place access: its lanes in order,
each with its translated address, operand and compare value. No register and no byte of memory changes yet, the split goes on
past a safe point, and issues no further clause before the access is over. An illegal register is the illegal-operand trap;
without an active lane the split goes on; the first check that a lane fails is its trap. -/
def Obligations.AtomicsAndDequesIssue : Prop :=
  ∀ (s : State) (i : Instr) (q : Rules.SaRule), Rules.sa s i = some q →
    ((q.legal && addrOk s q.m.va q.m.sb) = false → exec i s = .next (Rules.trapsAt 0x03 3 0 0 s)) ∧
    ((q.legal && addrOk s q.m.va q.m.sb) = true → Rules.liveSetKnown s q.m.ls → s.active = 0 → exec i s = .next (completeSafe s)) ∧
    (∀ code l, (q.legal && addrOk s q.m.va q.m.sb) = true → Rules.liveSetKnown s q.m.ls → s.active ≠ 0 →
      (Rules.saForm s q).failure s = some (code, l) →
      exec i s = .next (Rules.trapsAt code 1 l ((Rules.saForm s q).trapAddr s code l) s)) ∧
    ((q.legal && addrOk s q.m.va q.m.sb) = true →
    Rules.liveSetKnown s q.m.ls → s.active ≠ 0 → Rules.inPlace s (Rules.saForm s q) →
    (∀ a ∈ (Rules.saForm s q).accesses s, linePoisoned s a = false ∧ mirrorAwaited s a = false) →
    ∃ t a, exec i s = .next t ∧ t.g.accs = s.g.accs ++ [a] ∧ a.id = s.fresh ∧ a.kind = q.kind ∧ a.owners = [s.g.sp.idx]
      ∧ a.block = true ∧ a.vd = q.m.vd.toNat ∧ a.vs = q.vs
      ∧ a.lanes = ((Rules.saForm s q).accesses s).map (fun x => { x with x := q.x x.lane, c := q.c x.lane })
      ∧ Rules.SameRegisters s t ∧ t.mem = s.mem ∧ Rules.WentOn s t ∧ t.g.sp.safe = 0 ∧ t.packets = s.packets)

/-- A homed or private load, an atomic, a deque operation or MIGRATE all of whose lanes' addresses are served by one other home
moves: the split keeps its PC, is bound for that home with the live set that the instruction names, and performs nothing here.
The division of a moving instruction whose lanes name several homes (R219): `ds` are those homes in increasing order. The split
keeps its own home's lanes and its inactive ones, or those of its lowest active lane's home; for every other home the lowest
free entry takes the lanes that name it, with the split's scalars and outstanding operations, bound for that home. The lanes of
the split's own home perform the instruction in place, and it goes on; without such a lane it is bound for the home that it
keeps. -/
def Obligations.OneOtherHomeMoves : Prop :=
  (∀ (s : State) (i : Instr) (ls : BitVec 6) (f : AccessForm) (h : Nat) (keep : LiveSet),
      Rules.movesBy s i ls f → Rules.liveSetIs s ls keep → s.active ≠ 0 → f.failure s = none →
      (∀ a ∈ f.accesses s, homeOfPa a.pa = h) → h ≠ s.g.sp.home →
      ∃ t, exec i s = .next t ∧ t.g.sp.move = some h ∧ t.g.sp.pc = s.g.sp.pc ∧ t.g.sp.clause = s.g.sp.clause
        ∧ t.g.sp.ls = ls.toNat ∧ t.g.sp.tail.isSome = true ∧ t.g.sibs = s.g.sibs ∧ t.g.accs = s.g.accs
        ∧ Rules.SameRegisters s t ∧ t.mem = s.mem ∧ t.packets = s.packets ∧ t.g.sp.home = s.g.sp.home ∧ t.g.sp.live = keep
        ∧ t.g.sp.keep.s = keep.s ∧ t.g.sp.keep.p = keep.p ∧ t.g.sp.keep.b = keep.b
        ∧ ∀ r, inMask keep.v r = true → inMask t.g.sp.keep.v r = true)
    ∧ (∀ (s : State) (i : Instr) (ls : BitVec 6) (f : AccessForm) (ds : List Nat) (x : LaneAccess),
      Rules.movesBy s i ls f → Rules.liveSetKnown s ls → s.active ≠ 0 → f.failure s = none → s.g.sp.joins = none →
      let as := f.accesses s
      let c := s.g.sp.home
      ds.Pairwise (· < ·) → (∀ h, h ∈ ds ↔ ∃ a ∈ as, homeOfPa a.pa = h) → 1 < ds.length → as.head? = some x →
      (c ∈ ds → Rules.injected s = false ∧ ∀ a ∈ as, linePoisoned s a = false ∧ mirrorAwaited s a = false) →
      let kept := if c ∈ ds then c else homeOfPa x.pa
      let others := ds.filter fun h => h ≠ kept
      others.length ≤ (Rules.freeEntries s.g).length →
      ∃ t new, exec i s = .next t ∧ t.g.sibs = s.g.sibs ++ new
        ∧ new.map (·.idx) = (Rules.freeEntries s.g).take others.length
        ∧ List.Forall₂ (fun h n => n.move = some h ∧ Rules.lanesAreAt as h n.lanes ∧ n.pc = s.g.sp.pc ∧ n.s = s.g.sp.s
            ∧ n.ops = s.g.sp.ops ∧ n.home = c ∧ n.ls = ls.toNat ∧ n.tail.isSome = true) others new
        ∧ (∀ l, t.g.sp.lanes.getLsbD l = true
            ↔ s.g.sp.lanes.getLsbD l = true ∧ ∀ a ∈ as, a.lane = l → homeOfPa a.pa = kept)
        ∧ Rules.SameRegisters s t ∧ t.mem = s.mem ∧ t.packets = s.packets ∧ t.g.sp.s = s.g.sp.s ∧ t.g.sp.idx = s.g.sp.idx
        ∧ (c ∉ ds → t.g.sp.move = some kept ∧ t.g.sp.pc = s.g.sp.pc ∧ t.g.accs.length = s.g.accs.length)
        ∧ (c ∈ ds → t.g.sp.move = s.g.sp.move ∧ t.g.sp.pc = (complete s).g.sp.pc ∧ t.g.sp.clause = (complete s).g.sp.clause
            ∧ (f.size ≠ 0 → ∀ y ∈ as, homeOfPa y.pa = c
                ↔ ∃ a ∈ t.g.accs.drop s.g.accs.length, ∃ z ∈ a.lanes, z.lane = y.lane ∧ z.pa = y.pa)))

/-- One lane of a returning atomic, performed at its home: the location takes the new value of its table, the destination in
that lane takes the old one, the lane leaves the access, and every other byte of memory and every other register stay. After its
last lane the access is over, on a MIRROR page once the copies are accepted. -/
def Obligations.AtomicLaneStep : Prop :=
  ∀ (s : State) (a : Access) (op : Nat) (w : Bool) (l : LaneAccess) (rest : List LaneAccess), s.g.life = .live →
    s.g.accs.find? (fun x => x.id == a.id) = some a → a.kind = .atomic op w → a.held = false → a.after = [] →
    a.lanes = l :: rest → l.lane < 32 → laneOwned s.g a l.lane = true → paTier l.pa < 3 → isDegraded s l.pa l.pte = false →
    a.mantle = none ∨ pteMantle l.pte = false → (∀ x ∈ a.lanes, Rules.soundLine s x) →
    l.x < 2 ^ (if w then 64 else 32) →
    let n := if w then 8 else 4
    let old := s.readN l.pa n
    l.pa % n = 0 → Rules.Distinct s l.pa n →
    ∃ t, exec (.inPlaceAccessComplete s.g.gid a.id) s = .next t
      ∧ t.readN l.pa n = Rules.atomValue op w old l.x l.c
      ∧ (∀ p, Rules.Elsewhere s l.pa n p → t.byte p = s.byte p)
      ∧ (rest ≠ [] ∨ pteMirror l.pte = true → t.g.accs = s.g.accs.map (fun x => if x.id = a.id then { x with lanes := rest } else x))
      ∧ (rest = [] → pteMirror l.pte = false → (∀ m ∈ s.mirrors, m.2.id ≠ a.id) → ∀ x ∈ t.g.accs, x.id ≠ a.id)
      ∧ t.g.p = s.g.p ∧ t.g.em = s.g.em ∧ t.g.sp.s = s.g.sp.s
      ∧ ∀ r k, k < 32 → t.g.lane r k
          = if k = l.lane ∧ r = a.vd then BitVec.ofNat 32 old
            else if k = l.lane ∧ w = true ∧ r = a.vd + 1 then BitVec.ofNat 32 (old / 2 ^ 32)
            else s.g.lane r k

/-- A posted reduction whose addresses pass its checks posts one operation: for each address that an active lane names, its
packet of that line carries the combination of the lanes' words at it, in increasing lane order. POST rises by one operation; no
register and no byte of memory changes yet. -/
def Obligations.ReductionsPostPackets : Prop :=
  ∀ (s : State) (i : Instr) (op n : Nat) (m : MMS), Rules.reduction i = some (op, n, m) → 
    (m.order ≠ .rlx ∧ m.order ≠ .rel → exec i s = .next (Rules.trapsAt 0x02 3 0 0 s)) ∧
    ((m.order = .rlx ∨ m.order = .rel) → (dataOk s n m.vd && addrOk s m.va m.sb) = false →
      exec i s = .next (Rules.trapsAt 0x03 3 0 0 s)) ∧
    ((m.order = .rlx ∨ m.order = .rel) → (dataOk s n m.vd && addrOk s m.va m.sb) = true → s.active = 0 →
      exec i s = .next (complete s)) ∧
    ((m.order = .rlx ∨ m.order = .rel) → (dataOk s n m.vd && addrOk s m.va m.sb) = true → s.active ≠ 0 →
    (Rules.accessForm s m.va m.sb false n .write false).failure s = none → counter .post s.g.sp < 63 →
    let as := (Rules.accessForm s m.va m.sb false n .write false).accesses s
    ∃ t ps, exec i s = .next t ∧ t.packets = s.packets ++ ps ∧ t.g.sp.ops = s.g.sp.ops ++ [{ id := s.fresh, cls := .post }]
      ∧ Rules.SameRegisters s t ∧ t.mem = s.mem ∧ Rules.WentOn s t ∧ t.g.accs = s.g.accs
      ∧ (∀ p ∈ ps, p.id = s.fresh ∧ p.gid = some s.g.gid ∧ p.src = s.g.sp.home
          ∧ ∃ ws ln, p.body = .reduce op ws ∧ ∀ x ∈ ws, x.1 / 64 = ln ∧ p.dst = homeOfPa x.1)
      ∧ ∀ (pa v : Nat), (∃ p ∈ ps, ∃ ws, p.body = .reduce op ws ∧ (pa, v) ∈ ws)
          ↔ ∃ x xs, (as.filter fun a => a.pa == pa).map (fun a => Rules.element s (n == 8) m.vd a.lane) = x :: xs
              ∧ v = xs.foldl (Rules.reduceValue op) x)

/-- TJOIN of a converged group whose earlier accesses are performed: it leaves its team if it is in one; the record counts one
more member and one more expected arrival, its other fields stay, the first member brings a fresh identity, and the group takes
it. TJOIN of its own team does nothing. A split that is not its whole group traps; one with earlier accesses waits. That the
anchor trap and the team fault at a record carry ACC 1 and 3 is the model's choice (log 68). TLEAVE of a group in no team does
nothing; of a member, with its earlier accesses performed, the record loses a member and an expected arrival, and an arrival
that this barrier counted for the group; when all that is left have arrived the barrier completes: GEN rises and ARRIVED is 0.
The last member releases the team's lease. The group is in no team. In a diagnostic group, whose team's record is homed memory,
it raises the anchor trap (08 R135), with ACC 1 (log 68). -/
def Obligations.TeamsAreJoinedAndLeft : Prop :=
  (∀ (s : State) (a : SReg) (x : LaneAccess),
      (converged s = false → exec (.tjoin a) s = .next (Rules.trapsAt 0x0D 3 0 0 s))
        ∧ (converged s = true → Rules.uniformAt s (readS s a) 64 .write x →
            let s1 := closeLine x.pa (match s.g.team with
              | none => s
              | some r => acquireRecord r (leaveTeam s))
            (s.g.team = some x.pa → exec (.tjoin a) s = .next (complete s))
              ∧ (s.g.team ≠ some x.pa → recordWaits (isPrivate s x.va) x.pa s = true → exec (.tjoin a) s = .next s)
              ∧ (s.g.team ≠ some x.pa → recordWaits (isPrivate s x.va) x.pa s = false → joinRefused s1 x.pa = true →
                  exec (.tjoin a) s = .next (Rules.trapsAt 0x0E 3 0 (readS s a) s1))
              ∧ (s.g.team ≠ some x.pa → recordWaits (isPrivate s x.va) x.pa s = false → joinRefused s1 x.pa = false →
                  onAnchorCore x.pa s1 = false → exec (.tjoin a) s = .next (Rules.trapsAt 0x0A 1 0 (readS s a) s1))
              ∧ (s.g.team ≠ some x.pa → recordWaits (isPrivate s x.va) x.pa s = false → joinRefused s1 x.pa = false →
                  onAnchorCore x.pa s1 = true → Rules.Distinct s1 x.pa 64 → ∃ t, exec (.tjoin a) s = .next t ∧ t.g.team = some x.pa ∧ t.g.teamVa = readS s a ∧ t.g.note = none
                    ∧ recMembers t x.pa = recMembers s1 x.pa + 1 ∧ recExpected t x.pa = recExpected s1 x.pa + 1
                    ∧ recArrived t x.pa = recArrived s1 x.pa ∧ recGen t x.pa = recGen s1 x.pa
                    ∧ t.g.teamId.toNat = recTeamId t x.pa
                    ∧ (recMembers s1 x.pa ≠ 0 → recTeamId t x.pa = recTeamId s1 x.pa)
                    ∧ (recMembers s1 x.pa = 0 → (teamIds s1 (paPkg x.pa)).length < 65536 →
                        t.g.teamId ≠ 0xFFFFFFFF ∧ t.g.teamId ∉ teamIds s1 (paPkg x.pa))
                    ∧ (∀ p, Rules.Elsewhere s1 x.pa 8 p → Rules.Elsewhere s1 (x.pa + 16) 8 p → t.byte p = s1.byte p)
                    ∧ Rules.SameRegisters s t ∧ Rules.WentOn s t)))
    ∧ (∀ (s : State) (r : Nat),
      (converged s = true → s.g.team = none → exec .tleave s = .next (complete s))
        ∧ (converged s = false → exec .tleave s = .next (Rules.trapsAt 0x0D 3 0 0 s))
        ∧ (converged s = true → s.g.team = some r → s.g.diag = true →
            exec .tleave s = .next (Rules.trapsAt 0x0A 1 0 (teamAddress s) s))
        ∧ (converged s = true → s.g.team = some r → s.g.diag = false → recordWaits (isPrivate s s.g.teamVa.toNat) r s = true →
            exec .tleave s = .next s)
        ∧ (converged s = true → s.g.team = some r → s.g.diag = false → recordWaits (isPrivate s s.g.teamVa.toNat) r s = false →
            s.g.life = .live → r % 64 = 0 → Rules.Distinct s r 64 →
            let counted := s.g.note = some (BitVec.ofNat 32 (recGen s r))
            let left := (recExpected s r + 65535) % 65536
            let members := (recMembers s r + (2 ^ 32 - 1)) % 2 ^ 32
            let arrived := if counted then (recArrived s r + 65535) % 65536 else recArrived s r
            ∃ t, exec .tleave s = .next t ∧ t.g.team = none ∧ t.g.teamId = 0xFFFFFFFF ∧ t.g.note = none
              ∧ recMembers t r = members ∧ recExpected t r = left
              ∧ (members = 0 → ∀ l ∈ t.leases, l.team = r → l.dead = true)
              ∧ recGen t r = (if left ≠ 0 ∧ arrived = left then (recGen s r + 1) % 2 ^ 32 else recGen s r)
              ∧ recArrived t r = (if left ≠ 0 ∧ arrived = left then 0 else arrived)
              ∧ Rules.SameRegisters s t ∧ t.g.sp.pc = (complete s).g.sp.pc))

/-- BARRIVE, and BARSYNC before its wait, post one arrival at the record of the team, charged to SYNC; BARRIVE goes on, and
BARSYNC stays to wait. SIGDEC posts one decrement by its second scalar. A group in no team takes the team fault, and a
diagnostic group the anchor trap (08 R135), with ACC 1 (log 68). -/
def Obligations.ArrivalsAndDecrements : Prop :=
  ∀ (s : State) (ls : BitVec 6) (a b : SReg) (r : Nat) (x : LaneAccess), counter .sync s.g.sp < 63 →
    let posts (t : State) (p : Packet) : Prop :=
      t.packets = s.packets ++ [p] ∧ p.id = s.fresh ∧ p.gid = some s.g.gid ∧ p.src = s.g.sp.home
        ∧ t.g.sp.ops = s.g.sp.ops ++ [{ id := s.fresh, cls := .sync }] ∧ Rules.SameRegisters s t ∧ t.mem = s.mem
        ∧ t.g.sp.s = s.g.sp.s
    (converged s = true → s.g.team = some r → s.g.diag = false →
        ∃ t p, exec .barrive s = .next t ∧ posts t p ∧ p.body = .arrive r true ∧ p.dst = homeOfPa r ∧ Rules.WentOn s t)
      ∧ (converged s = true → s.g.team = some r → s.g.diag = false → Rules.liveSetKnown s ls → s.g.sp.wonly = false →
          ∃ t p, exec (.barsync ls) s = .next t ∧ posts t p ∧ p.body = .arrive r true ∧ t.g.sp.wonly = true
            ∧ t.g.sp.pc = s.g.sp.pc ∧ t.g.sp.clause = s.g.sp.clause)
      ∧ (Rules.uniformAt s (readS s a) 8 .write x →
          ∃ t p, exec (.sigdec a b) s = .next t ∧ posts t p ∧ p.body = .decrement x.pa (readS s b).toNat
            ∧ p.dst = homeOfPa x.pa ∧ Rules.WentOn s t)
      ∧ (converged s = true → s.g.team = some r → s.g.diag = true →
          exec .barrive s = .next (Rules.trapsAt 0x0A 1 0 (teamAddress s) s)
          ∧ (Rules.liveSetKnown s ls → s.g.sp.wonly = false →
              exec (.barsync ls) s = .next (Rules.trapsAt 0x0A 1 0 (teamAddress s) s)))
      ∧ (converged s = true → s.g.team = none → exec .barrive s = .next (Rules.trapsAt 0x0E 3 0 0 s)
          ∧ (Rules.liveSetKnown s ls → s.g.sp.wonly = false → exec (.barsync ls) s = .next (Rules.trapsAt 0x0E 3 0 0 s)))

/-- BARWAIT, the wait of BARSYNC, GENWAIT and SIGWAIT, behind no earlier access to the word: a split of an anchored group
registers the wait where it stands; a roaming one at the home of the word, its own work done, registers it and gives up its
place; a roaming one elsewhere is bound for that home. Its PC stays, and a condition that holds already wakes it. The end of a
wait: a waiting split whose word satisfied its condition goes on behind the instruction, past a safe point: one that keeps its
place is runnable again; one that gave it up asks its home for admission. -/
def Obligations.WaitsRegisterAndEnd : Prop :=
  (∀ (s : State) (i : Instr) (ls : BitVec 6) (w : Wait) (priv : Bool), Rules.waitsOn s i ls w priv → Rules.liveSetKnown s ls →
      mustPrecede s priv [(w.pa, w.size)] = false →
      let waits (t : State) : Prop :=
        t.g.sp.status = .waiting ∧ t.g.sp.wait = some w ∧ t.g.sp.woken = waitHolds s w ∧ t.g.sp.move = s.g.sp.move
      ∃ t, exec i s = .next t ∧ t.g.sp.pc = s.g.sp.pc ∧ t.g.sp.clause = s.g.sp.clause ∧ t.g.sp.lanes = s.g.sp.lanes
        ∧ Rules.SameRegisters s t ∧ t.mem = s.mem ∧ t.packets = s.packets
        ∧ (s.g.sp.clause.anch = true → waits t ∧ t.g.sp.part = s.g.sp.part)
        ∧ (s.g.sp.clause.anch = false → homeOfPa w.pa = s.g.sp.home → s.g.sp.ops = [] → ownAccesses s = [] →
            waits t ∧ t.g.sp.part = none)
        ∧ (s.g.sp.clause.anch = false → homeOfPa w.pa ≠ s.g.sp.home →
            t.g.sp.move = some (homeOfPa w.pa) ∧ t.g.sp.status = s.g.sp.status))
    ∧ (∀ (s : State) (w : Wait), s.g.life = .live → s.g.sp.status = .waiting → s.g.sp.wait = some w → s.g.sp.woken = true →
      s.g.sp.stopped = false → s.g.sp.move = none →
      ∃ t, exec (.waitWake s.g.gid s.g.sp.idx) s = .next t ∧ t.g.sp.wait = none
        ∧ (s.g.sp.part.isSome = true → s.g.handler = .none → t.g.sp.status = .runnable)
        ∧ (s.g.sp.part = none → wantsStop s.g = false → t.g.sp.status = .transit
            ∧ ∃ level, (level, Item.split s.g.gid s.g.sp.idx) ∈ (t.home s.g.sp.home).adm)
        ∧ t.g.sp.pc = (complete s).g.sp.pc ∧ t.g.sp.safe = 0 ∧ t.mem = s.mem ∧ t.g.v = s.g.v)

/-- LEASE of n bytes, a multiple of 128 and no more than the scratchpad, by the one member of a team that holds none: the team
holds one lease more, of that length, on the group's core, at a multiple of 128 bytes, apart from every other lease of the core.
UNLEASE ends it when COPY is 0, and waits before; without a lease or a team it does nothing. The bytes of scratchpads stay.
Otherwise LEASE is the lease fault, and a split that is not its whole group traps. SEAM: ARM adds the split's lanes to the
cohort and goes on; JOIN marks them arrived, and while others of the cohort are missing the split waits behind the instruction;
the split that completes the seam with one that waits there forms one split of their lanes in the lower entry, and the record is
zero; MERGE absorbs a split that waits there. WAITC goes on once its counter is at or below n. -/
def Obligations.LeasesAreGrantedAndReleased : Prop :=
  ((∀ (s : State) (a : SReg),
      (converged s = false → exec (.lease a) s = .next (Rules.trapsAt 0x0D 3 0 0 s)
          ∧ exec .unlease s = .next (Rules.trapsAt 0x0D 3 0 0 s))
        ∧ (converged s = true → s.g.team = none → exec (.lease a) s = .next (Rules.trapsAt 0x0F 3 0 (readS s a) s)
            ∧ exec .unlease s = .next (complete s)))
    ∧ ∀ (s : State) (a : SReg) (r p : Nat), converged s = true → s.g.team = some r → s.g.sp.part = some p →
      let n := (readS s a).toNat
      (s.g.diag = false → recMembers s r ≤ 1 → leaseOf s s.g = none → n % 128 = 0 → 0 < n → n ≤ 262144 →
          (∃ b, b % 128 = 0 ∧ runFree s (partCore p) b n = true) →
          ∃ t l, exec (.lease a) s = .next t ∧ t.leases = s.leases ++ [l] ∧ l.team = r ∧ l.core = partCore p ∧ l.len = n
            ∧ l.base % 128 = 0 ∧ l.base + n ≤ 262144 ∧ l.dead = false
            ∧ (∀ k ∈ s.leases, k.core = l.core → k.saved = none → l.base + n ≤ k.base ∨ k.base + k.len ≤ l.base)
            ∧ t.cores = s.cores ∧ Rules.SameRegisters s t ∧ t.mem = s.mem ∧ Rules.WentOn s t)
        ∧ ((s.g.diag = true ∨ 1 < recMembers s r ∨ (leaseOf s s.g).isSome = true ∨ n % 128 ≠ 0 ∨ n = 0 ∨ 262144 < n) →
            exec (.lease a) s = .next (Rules.trapsAt 0x0F 3 0 (readS s a) s))
        ∧ (freeRun s (partCore p) n = none → exec (.lease a) s = .next (Rules.trapsAt 0x0F 3 0 (readS s a) s))
        ∧ ((leaseOf s s.g).isSome = true → counter .copy s.g.sp ≠ 0 → exec .unlease s = .next s)
        ∧ ((leaseOf s s.g).isSome = true → counter .copy s.g.sp = 0 →
            ∃ t, exec .unlease s = .next t ∧ leaseOf t t.g = none
              ∧ (∀ l, l.dead = false → l.team ≠ r → (l ∈ t.leases ↔ l ∈ s.leases))
              ∧ t.cores = s.cores ∧ Rules.SameRegisters s t ∧ t.mem = s.mem ∧ Rules.WentOn s t)
        ∧ (leaseOf s s.g = none → exec .unlease s = .next (complete s)))
    ∧ (∀ (s : State) (ls : BitVec 6) (k : BitVec 4) (x : Split) (c : Ctr) (n : BitVec 6),
      let r := s.g.seam k.toNat
      let mine := s.g.sp.lanes
      (Rules.liveSetKnown s ls →
        (∃ t, exec (.seam ls .arm k) s = .next t ∧ (t.g.seam k.toNat).cohort = r.cohort ||| mine
            ∧ (t.g.seam k.toNat).arrived = r.arrived ∧ (∀ j, j ≠ k.toNat → t.g.seam j = s.g.seam j)
            ∧ Rules.SameRegisters s t ∧ t.mem = s.mem ∧ Rules.WentOn s t ∧ t.g.sibs = s.g.sibs)
          ∧ (r.arrived ||| mine ≠ r.cohort ||| mine →
              ∃ t, exec (.seam ls .join k) s = .next t ∧ t.g.sp.status = .atSeam ∧ t.g.sp.seam = k.toNat
                ∧ (t.g.seam k.toNat).arrived = r.arrived ||| mine ∧ (t.g.seam k.toNat).cohort = r.cohort ||| mine
                ∧ Rules.SameRegisters s t ∧ t.mem = s.mem ∧ Rules.WentOn s t ∧ t.g.sibs = s.g.sibs)
          ∧ (r.arrived ||| mine = r.cohort ||| mine → s.g.sup = false → s.g.sibs = [] → s.g.sp.part.isSome = true →
              ∃ t, exec (.seam ls .join k) s = .next t ∧ t.g.sibs = [] ∧ t.g.sp.status = .runnable ∧ t.g.seam k.toNat = {}
                ∧ Rules.SameRegisters s t ∧ t.mem = s.mem ∧ Rules.WentOn s t)
          ∧ (r.arrived ||| mine = r.cohort ||| mine → s.g.sup = false → s.g.sibs = [x] → x.stopped = false →
              x.status = .atSeam → x.seam = k.toNat → x.idx ≠ s.g.sp.idx → x.home = s.g.sp.home → x.joins = none →
              x.part.isSome = true → s.g.sp.part.isSome = true →
              ∃ t, exec (.seam ls .join k) s = .next t ∧ t.g.sibs = [] ∧ t.g.sp.lanes = mine ||| x.lanes
                ∧ t.g.sp.idx = min s.g.sp.idx x.idx ∧ t.g.sp.status = .runnable ∧ t.g.seam k.toNat = {}
                ∧ t.g.sp.fpstat = s.g.sp.fpstat ||| x.fpstat
                ∧ t.g.sp.s = (if lowestLane x.lanes < lowestLane mine then x.s else s.g.sp.s)
                ∧ Rules.SameRegisters s t ∧ t.mem = s.mem)
          ∧ (s.g.sibs = [x] → x.status = .atSeam → x.seam = k.toNat → s.g.sup = false → x.idx ≠ s.g.sp.idx →
              x.home = s.g.sp.home → s.g.sp.part.isSome = true →
              ∃ t, exec (.seam ls .merge k) s = .next t ∧ t.g.sibs = [] ∧ t.g.sp.lanes = mine ||| x.lanes
                ∧ t.g.sp.s = s.g.sp.s ∧ t.g.sp.pc = (complete s).g.sp.pc
                ∧ (t.g.seam k.toNat).arrived = r.arrived &&& ~~~x.lanes ∧ Rules.SameRegisters s t ∧ t.mem = s.mem))
        ∧ (counter c s.g.sp ≤ n.toNat → exec (.waitc c n) s = .next (complete s))
        ∧ (n.toNat < counter c s.g.sp → exec (.waitc c n) s = .next s))

/-- One lane of a deque operation on a descriptor that is not malformed: a push into a full deque and a pop or steal from an
empty one answer 0 and change no byte; a push stores its element at BOTTOM and raises BOTTOM; a pop lowers BOTTOM and takes the
element there; a steal takes the element at TOP and raises TOP; these answer 1. A malformed descriptor answers 2. Where a deque
operation's step puts its answer: a push its status into the destination; a pop or steal its element into the destination, a
pair with W = 1, and its status into the compare register, in that lane alone; memory is as the step leaves it. -/
def Obligations.DequeOperations : Prop :=
  (∀ (s : State) (id : Nat) (w : Bool) (l : LaneAccess), isDegraded s l.pa l.pte = false → paTier l.pa < 2 → l.pa % 64 = 0 →
      let d := l.pa
      let n := dqSize s d
      (∀ k, dqMalformed s d = true → dequeStep id k l s = (2, 0, s))
        ∧ (dqMalformed s d = false → n = 2 ^ dqLog s d → dequeStep id (.dqpush w) l s = (0, 0, s))
        ∧ (dqMalformed s d = false → n = 0 → dequeStep id (.dqpop w) l s = (0, 0, s) ∧ dequeStep id (.dqsteal w) l s = (0, 0, s))
        ∧ (∀ pa pte, dqMalformed s d = false → n ≠ 2 ^ dqLog s d → dqElem s d (dqBottom s d) = some (pa, pte) →
            isDegraded s pa pte = false → paTier pa < 2 → pa % 8 = 0 → Rules.soundLine s { l with pa := pa, pte := pte } →
            (pa + 8 ≤ d ∨ d + 64 ≤ pa) →
            ∃ t, dequeStep id (.dqpush w) l s = (1, 0, t) ∧ t.readN pa 8 = l.x % 2 ^ 64
              ∧ dqBottom t d = (dqBottom s d + 1) % 2 ^ 64 ∧ dqTop t d = dqTop s d
              ∧ ∀ a, ¬(pa ≤ a ∧ a < pa + 8) → ¬(d + 8 ≤ a ∧ a < d + 16) → t.byte a = s.byte a)
        ∧ (∀ pa pte, dqMalformed s d = false → n ≠ 0 → dqElem s d (dqBottom s d + 2 ^ 64 - 1) = some (pa, pte) →
            paTier pa < 2 → Rules.soundLine s { l with pa := pa, pte := pte } →
            ∃ t, dequeStep id (.dqpop w) l s = (1, s.readN pa 8, t)
              ∧ dqBottom t d = (dqBottom s d + 2 ^ 64 - 1) % 2 ^ 64
              ∧ ∀ a, ¬(d + 8 ≤ a ∧ a < d + 16) → t.byte a = s.byte a)
        ∧ ∀ pa pte, dqMalformed s d = false → n ≠ 0 → dqElem s d (dqTop s d) = some (pa, pte) → paTier pa < 2 →
            Rules.soundLine s { l with pa := pa, pte := pte } →
            ∃ t, dequeStep id (.dqsteal w) l s = (1, s.readN pa 8, t) ∧ dqTop t d = (dqTop s d + 1) % 2 ^ 64
              ∧ ∀ a, ¬(d ≤ a ∧ a < d + 8) → t.byte a = s.byte a)
    ∧ (∀ (s : State) (a : Access) (w : Bool) (l : LaneAccess) (rest : List LaneAccess), s.g.life = .live →
      s.g.accs.find? (fun x => x.id == a.id) = some a → a.held = false → a.after = [] → a.lanes = l :: rest →
      l.lane < 32 → laneOwned s.g a l.lane = true → a.mantle = none ∨ pteMantle l.pte = false →
      (∀ x ∈ lanesRead a a.lanes s, Rules.soundLine s x.2) →
      let r := dequeStep a.id a.kind l (countUse (homeOfPa l.pa) s.g.sp.home l.pte (closeLine l.pa s))
      (a.kind = .dqpush w → ∃ t, exec (.inPlaceAccessComplete s.g.gid a.id) s = .next t ∧ t.mem = r.2.2.mem
          ∧ ∀ q k, k < 32 → t.g.lane q k = if k = l.lane ∧ q = a.vd then BitVec.ofNat 32 r.1 else s.g.lane q k)
        ∧ (a.kind = .dqpop w ∨ a.kind = .dqsteal w →
            ∃ t, exec (.inPlaceAccessComplete s.g.gid a.id) s = .next t ∧ t.mem = r.2.2.mem
              ∧ ∀ q k, k < 32 → t.g.lane q k
                  = if k = l.lane ∧ q = a.vs then BitVec.ofNat 32 r.1
                    else if k = l.lane ∧ q = a.vd then BitVec.ofNat 32 r.2.1
                    else if k = l.lane ∧ w = true ∧ q = a.vd + 1 then BitVec.ofNat 32 (r.2.1 / 2 ^ 32)
                    else s.g.lane q k))

/-! ### Classes 4 and 5 -/

namespace Sys2Proof.Rules
open Sys2Proof Sys2Proof.Machine

/-- An instruction of class 4: opcode, fields, legality of shape and slot, number of registers from A on, whether a per-tile
scale is read, and its extents in the tile store (R277 to R281, R296 to R300). -/
def matrix (s : State) : Instr → Option (Nat × MX × Bool × Nat × Bool × List Extent)
  | .mma m => (shapeOf m.shape).map fun h =>
      (0, m, (slotAt s m.fs).multiplyOk h.efmts, h.regs, (slotAt s m.fs).scale == 1, mulExtents h (slotAt s m.fs) m.trb (readS s m.desc))
  | .mmaz m => (shapeOf m.shape).map fun h =>
      (1, m, (slotAt s m.fs).multiplyOk h.efmts, h.regs, (slotAt s m.fs).scale == 1, mulExtents h (slotAt s m.fs) m.trb (readS s m.desc))
  | .mmnp m => some (2, m, m.shape == 0x18 && (slotAt s m.fs).multiplyOk [6], (slotAt s m.fs).planes, false,
      planeExtents (slotAt s m.fs) (readS s m.desc))
  | .mctr m => some (3, m, decide (0x14 ≤ m.shape.toNat ∧ m.shape.toNat ≤ 0x16) && (slotAt s m.fs).multiplyOk [0], 0, false,
      mctrExtents (readS s m.desc))
  | .tldv m => some (4, m, true, m.shape.toNat + 1, false, moveExtents (m.shape.toNat + 1) m.trb (readS s m.desc))
  | .tstv m => some (5, m, true, m.shape.toNat + 1, false, moveExtents (m.shape.toNat + 1) m.trb (readS s m.desc))
  | .tzero m => some (6, m, true, 0, false, tzeroExtents (m.shape.toNat + 1) (readS s m.desc))
  | .tepi m => some (7, m, (slotAt s m.fs).generalOk && decide ((slotAt s m.fs).efmt ≤ 5 ∧ (slotAt s m.fs).scale ≤ 1), 0,
      (slotAt s m.fs).scale == 1, tepiExtents (2 * (m.shape.toNat + 1)) (efmtBytes (slotAt s m.fs).efmt) (readS s m.desc))
  | .taddst m => some (8, m, (slotAt s m.fs).generalOk, 2, false, storeExtents (2 * (m.shape.toNat + 1)) (readS s m.desc))
  | .tstore m => some (9, m, true, 2, false, storeExtents (2 * (m.shape.toNat + 1)) (readS s m.desc))
  | _ => none

/-- An extent lies in the tile rows that the group still holds, and in their bytes (R281, R301). -/
def inRows (s : State) (x : Extent) : Prop := x.row + x.rows ≤ rowsHeld s.g ∧ x.byte + x.bytes ≤ 256

/-- A place word keeps to Table 19.3, and lies in the group's tile rows or in its lease (R303, R305). -/
def placeFits (s : State) (runs : Bool) (p : DWord) : Prop :=
  placeOk p = true ∧
    if placeTile p = true then placeRow p + placeN p ≤ rowsHeld s.g
    else ∃ l, leaseOf s s.g = some l ∧ placeOff p % 4 = 0
      ∧ (runs = true ∨ (placeN p % 4 = 0 ∧ placeOff p + placeN p ≤ l.len))

/-- The commands of class 5: code, wait for an event, places, whether N counts runs, the three scalars as the engine takes
them, and whether the instruction's own conditions hold (R304 to R307). -/
def copy (s : State) : Instr → Option (Nat × Bool × List DWord × Bool × (DWord × DWord × DWord) × Bool)
  | .itld q p evw _ => some (0, evw, [readS s q, readS s p], false, (readS s q, 0, readS s p),
      !placeTile (readS s q) && placeTile (readS s p) && decide (placeCol (readS s p) = 0 ∧ 256 * placeN (readS s p) ≤ placeN (readS s q)))
  | .cpin rec p evw => some (1, evw, [readS s p], false, (readS s rec, 0, readS s p), true)
  | .cpga rec l p evw => some (2, evw, [readS s p], true, (readS s rec, readS s l, readS s p), true)
  | .cpout rec p evw => some (3, evw, [readS s p], false, (readS s rec, 0, readS s p), true)
  | .cpsc rec l p evw => some (4, evw, [readS s p], true, (readS s rec, readS s l, readS s p), true)
  | .cpsig a x evw => some (5, evw, [], false, (readS s a, readS s x, 0), true)
  | .sweep rec x p evw op _ fs => some (6, evw, [readS s p], false, (readS s rec, readS s x, readS s p),
      (slotAt s fs).generalOk && decide ((slotAt s fs).efmt ≠ 6 ∧ (x = 0 ∨ op = .scale ∨ op = .scrl)))
  | .cpfill x p evw => some (7, evw, [readS s p], false, (0, readS s x, readS s p), true)
  | _ => none

end Sys2Proof.Rules

/-- An instruction of class 4 whose shape, slot, descriptor, registers and extents pass its checks issues one operation: its
scalar, slot, Active() and, where it reads registers, their words as they stand; MATRIX rises by one; registers, tile rows and
memory do not change yet. TADDST and TSTORE name a destination for every word of every active lane. MREL of a whole group issues
too. -/
def Obligations.MatrixInstructionsIssue : Prop :=
  ∀ (s : State), counter .matrix s.g.sp < 63 →
    let issued (t : State) (o : MtxOp) : Prop :=
      t.g.mtx = s.g.mtx ++ [o] ∧ o.id = s.fresh ∧ o.act = s.active ∧ o.consumed = false
        ∧ t.g.sp.ops = s.g.sp.ops ++ [{ id := s.fresh, cls := .matrix }] ∧ t.g.tile = s.g.tile ∧ t.g.tileRows = s.g.tileRows
        ∧ Rules.SameRegisters s t ∧ t.mem = s.mem ∧ t.packets = s.packets ∧ Rules.WentOn s t
    (∀ (i : Instr) (op : Nat) (m : MX) (n : Nat) (scaled : Bool) (xs : List Extent),
      Rules.matrix s i = some (op, m, true, n, scaled, xs) → readS s m.desc &&& 0xFFFFC000C000C000 = 0 →
      (n = 0 ∨ m.a.toNat + n ≤ s.g.w) → (scaled = true → m.desc ≠ 63) →
      (∀ x ∈ xs, Rules.inRows s x) →
      (op = 8 ∨ op = 9 → m.a.toNat % 2 = 0 ∧ (rangeForm m s).failure s = none) →
      ∃ t o, exec i s = .next t ∧ issued t o ∧ o.op = op ∧ o.m = m ∧ o.desc = readS s m.desc
        ∧ o.slot = Cells.get 0 s.g.fs m.fs.toNat
        ∧ (op ≠ 4 → ∀ q l, q < n → l < 32 → Cells.get false s.g.poisonV (vkey (m.a.toNat + q) l) = false →
            Cells.get 0 o.a (vkey (m.a.toNat + q) l) = s.g.lane (m.a.toNat + q) l)
        ∧ (op = 8 ∨ op = 9 → ∀ l j, s.active.getLsbD l = true → j < 2 * (m.shape.toNat + 1) →
            ∃ d ∈ o.dests, d.lane = l ∧ d.x ≤ j ∧ j < d.x + d.c))
      ∧ (converged s = true → ∃ t o, exec .mrel s = .next t ∧ issued t o ∧ o.op = 10)

/-- The scratch checks in their order: an illegal register is the illegal-operand trap; without a lease the scratch-bounds trap
at the lowest lane; then the misaligned-access trap at the first lane off its alignment; then the scratch-bounds trap at the
first lane past the lease. TRAPADDR is the lane's offset. The checks of class 4 in their order: an illegal shape or slot is the
illegal-instruction trap; a reserved descriptor bit, registers past W, or a missing scale scalar the illegal-operand trap; an
extent outside the group's rows the tile-bounds trap; then, of TADDST and TSTORE, the first check of R246 that a lane's range
fails. MREL of a split that is not its whole group traps. The address of a range's second page is the model's choice (log 55),
as are the low 64 bits of an offset of 2^64 and more (log 94). The checks of homed, private and SA accesses: an order code that
the format does not have is an illegal instruction; an illegal register is the illegal-operand trap; the first check of R246
that a lane fails is its trap at that lane; without an active lane the instruction goes on. -/
def Obligations.ScratchAndTileChecks : Prop :=
  (∀ (s : State) (i : Instr) (st : Bool) (n : Nat) (m : MMX) (l : Nat), Rules.scratch i = some (st, n, m) →
      let acc := if st then 1 else 0
      let o := scratchOffset s m
      (Rules.scratchRegs s m n = false → exec i s = .next (Rules.trapsAt 0x03 3 0 0 s))
        ∧ (Rules.scratchRegs s m n = true → scratchPlace s = none → Rules.firstLane s (fun _ => True) l →
            exec i s = .next (Rules.trapsAt 0x0B acc l (BitVec.ofNat 64 (o l)) s))
        ∧ (Rules.scratchRegs s m n = true → (scratchPlace s).isSome = true → Rules.firstLane s (fun l => o l % n ≠ 0) l →
            exec i s = .next (Rules.trapsAt 0x06 acc l (BitVec.ofNat 64 (o l)) s))
        ∧ ∀ core base len, Rules.scratchRegs s m n = true → scratchPlace s = some (core, base, len) →
            (∀ l, s.active.getLsbD l = true → o l % n = 0) → Rules.firstLane s (fun l => Rules.pastEnd s n len (o l)) l →
            exec i s = .next (Rules.trapsAt 0x0B acc l (BitVec.ofNat 64 (o l)) s))
    ∧ ((∀ (s : State) (m : MX), shapeOf m.shape = none →
      exec (.mma m) s = .next (Rules.trapsAt 0x02 3 0 0 s) ∧ exec (.mmaz m) s = .next (Rules.trapsAt 0x02 3 0 0 s)) ∧
    ∀ (s : State) (i : Instr) (op : Nat) (m : MX) (legal : Bool) (n : Nat) (scaled : Bool) (xs : List Extent),
      Rules.matrix s i = some (op, m, legal, n, scaled, xs) →
      let operands := readS s m.desc &&& 0xFFFFC000C000C000 = 0 ∧ (n = 0 ∨ m.a.toNat + n ≤ s.g.w) ∧ ¬(scaled = true ∧ m.desc = 63)
        ∧ (op = 8 ∨ op = 9 → m.a.toNat % 2 = 0)
      (legal = false → exec i s = .next (Rules.trapsAt 0x02 3 0 0 s))
        ∧ (legal = true → ¬operands → exec i s = .next (Rules.trapsAt 0x03 3 0 0 s))
        ∧ (legal = true → operands → ¬(∀ x ∈ xs, Rules.inRows s x) → exec i s = .next (Rules.trapsAt 0x0C 3 0 0 s))
        ∧ (∀ code k, legal = true → operands → (∀ x ∈ xs, Rules.inRows s x) → counter .matrix s.g.sp < 63 → op = 8 ∨ op = 9 →
            (rangeForm m s).failure s = some (code, k) →
            exec i s = .next (Rules.trapsAt code 1 (k / 2) (BitVec.ofNat 64 ((rangeForm m s).addr k)) s))
        ∧ (converged s = false → exec .mrel s = .next (Rules.trapsAt 0x0D 3 0 0 s)))
    ∧ (∀ (s : State) (i : Instr) (code l n : Nat),
      let traps (acc : Nat) (f : AccessForm) : Prop :=
        f.failure s = some (code, l) → exec i s = .next (Rules.trapsAt code acc l (f.trapAddr s code l) s)
      (∀ sgn priv acq rel m, Rules.load i = some (n, sgn, priv, acq, rel, m) →
          ((dataOk s n m.vd && addrOk s m.va m.sb) = false → exec i s = .next (Rules.trapsAt 0x03 3 0 0 s))
            ∧ ((dataOk s n m.vd && addrOk s m.va m.sb) = true → Rules.liveSetKnown s m.ls →
                (s.active = 0 → exec i s = .next (completeSafe s))
                  ∧ (s.active ≠ 0 → traps 0 (Rules.accessForm s m.va m.sb priv n .read true))))
        ∧ (∀ rev priv m, Rules.store i = some (n, rev, priv, m) →
            (m.order = .acq ∨ m.order = .ar → exec i s = .next (Rules.trapsAt 0x02 3 0 0 s))
              ∧ (m.order = .rlx ∨ m.order = .rel ∨ m.order = .sc →
                  ((dataOk s n m.vd && addrOk s m.va m.sb) = false → exec i s = .next (Rules.trapsAt 0x03 3 0 0 s))
                    ∧ ((dataOk s n m.vd && addrOk s m.va m.sb) = true →
                        (s.active = 0 → exec i s = .next (complete s))
                          ∧ (s.active ≠ 0 → traps 1 (Rules.accessForm s m.va m.sb priv n .write false)))))
        ∧ ∀ ls va sb, i = .migrate ls va sb →
            (addrOk s va sb = false → exec i s = .next (Rules.trapsAt 0x03 3 0 0 s))
              ∧ (addrOk s va sb = true → Rules.liveSetKnown s ls →
                  (s.active = 0 → exec i s = .next (completeSafe s))
                    ∧ (s.active ≠ 0 → traps 0 (Rules.accessForm s va sb false 0 .read true))))

namespace Sys2Proof.Rules
open Sys2Proof Sys2Proof.Machine

/-- The shapes of MMA and MMAZ: code, M, N, K, bytes of an element, elements of an exact chunk (Tables 4.6, 18.1). -/
def shapes : List (Nat × Nat × Nat × Nat × Nat × Nat) :=
  [(0x00, 32, 16, 32, 1, 32), (0x01, 32, 32, 32, 1, 32), (0x02, 16, 16, 32, 1, 32), (0x03, 32, 16, 64, 1, 32),
   (0x08, 32, 16, 16, 2, 16), (0x09, 32, 32, 16, 2, 16), (0x0A, 16, 16, 16, 2, 16), (0x0B, 32, 16, 32, 2, 16),
   (0x10, 32, 8, 8, 4, 1), (0x11, 8, 8, 8, 4, 1), (0x12, 32, 16, 8, 4, 1)]

/-- The floating-point element formats (Table 4.3). -/
def format (efmt : Nat) : FFmt :=
  match efmt with
  | 0 => fp32
  | 1 => fp16
  | 2 => bf16
  | 3 => e4m3
  | 4 => e5m2
  | _ => fp64

/-- The formats that a group of shapes takes (Table 4.6): those of its element size. -/
def takes (e efmt : Nat) : Bool := if e = 1 then efmt == 3 || efmt == 4 else if e = 2 then efmt == 1 || efmt == 2 else efmt == 0

/-- n bytes of the tile rows that an operation has read. -/
def tileBytes (t : Bytes) (row byte n : Nat) : Nat := (List.range n).foldr (fun k x => (Bytes.read t (row * 256 + byte + k)).toNat + 256 * x) 0

/-- Element (i, k) of A and (k, j) of B, e bytes each, and Scale(i, j) for the 32 elements of K that hold k (R277, R279, R77, R296). -/
def elementA (o : MtxOp) (x : FFmt) (e i k : Nat) : Num :=
  let v := num x ((Cells.get 0 o.a (vkey (o.m.a.toNat + k * e / 4) i)).toNat / 2 ^ (8 * e * (k % (4 / e))) % 2 ^ (8 * e))
  if o.m.neg then v.minus else v
def elementB (o : MtxOp) (x : FFmt) (e k j : Nat) : Num :=
  num x (if o.m.trb then tileBytes o.tile (dB0 o.desc + j) (4 * dC0 o.desc + k * e) e
         else tileBytes o.tile (dB0 o.desc + k) (4 * dC0 o.desc + j * e) e)
def scaleOf (o : MtxOp) (K i j k : Nat) : Num :=
  let f := slotOf o.slot
  let nb := max 1 (K / 32)
  let byte (at' : Nat) : Nat := tileBytes o.tile (dSR o.desc) (4 * dSC0 o.desc + at') 1
  let ea := byte (nb * i + k / 32)
  let eb := byte (32 * nb + nb * j + k / 32)
  if f.scale = 1 then num fp32 o.scale.toNat
  else if ea = 255 ∨ eb = 255 then .nan else .num false ((2 : ℚ) ^ ((ea : ℤ) + eb - 254))

/-- Some steps of an accumulator, each of one rounding, from one pattern to another (R76). -/
def Accumulates (n : Nat) (d0 d : Nat) (step : Nat → Num) : Prop :=
  ∃ D : Nat → Nat, D 0 = d0 ∧ D n = d ∧ ∀ c, c < n → ∃ fl, Gives fp32 .rne (plus .rne [step c, num fp32 (D c)]) (D (c + 1)) fl

/-- An accumulator element of MMA and MMAZ: a fused step for each k, or for each chunk of C elements its exact sum, scaled (R76, R77). -/
def Multiplied (o : MtxOp) (K e C d0 i j d : Nat) : Prop :=
  let x := format (slotOf o.slot).efmt
  let p (k : Nat) : Num := times (elementA o x e i k) (elementB o x e k j)
  let chunk (c : Nat) : Num :=
    let ps := (List.range C).map fun q => p (c * C + q)
    total (ps.all Num.neg) ps
  if C = 1 then Accumulates K d0 d p
  else Accumulates (K / C) d0 d fun c => if (slotOf o.slot).scale = 0 then chunk c else times (chunk c) (scaleOf o K i j (c * C))

/-- A nested-plane element read at p planes, from its plane bits (R74). -/
def planesOf (f : Slot) (bit : Nat → Nat) : ℤ :=
  -2 ^ 7 * (bit 0 : ℤ) + ((List.range f.pln).map fun q => 2 ^ (6 - q) * (bit (q + 1) : ℤ)).sum + if f.half then 2 ^ (6 - f.pln) else 0

/-- The exact sum of an element of MMNP (R76, R278). -/
def planeSum (o : MtxOp) (d0 : ℤ) (i j : Nat) : ℤ :=
  let f := slotOf o.slot
  d0 + ((List.range 32).map fun k =>
    let a := planesOf f fun q => (Cells.get 0 o.a (vkey (o.m.a.toNat + q) i)).toNat / 2 ^ k % 2
    let b := planesOf f fun q => tileBytes o.tile (dB0 o.desc + q) (4 * (dC0 o.desc + j)) 4 / 2 ^ k % 2
    (if o.m.neg then -a else a) * b).sum

/-- A real converted to an element format, or to INT8, and whether it is finite and overflowed (R63 to R70, R299, R306). -/
def Converted (f : Slot) (efmt : Nat) (x : Num) (p : Nat) (ovl : Bool) : Prop :=
  let g := format efmt
  let clamp (k : ℤ) : ℤ := max (-128) (min 127 k)
  match x with
  | .nan => p = (if efmt = 5 then 0 else g.cnan) ∧ ovl = false
  | .inf n => ovl = false ∧ p = (if efmt = 5 then (if n then 128 else 127)
      else if f.csat then pattern g n (topBody g) else if g.e4m3 then g.cnan else pattern g n (infBody g))
  | .num n q =>
    if efmt = 5 then
      let k := toInteger f.crnd (signed n q)
      p = (clamp k % 256).toNat ∧ ovl = decide (clamp k ≠ k)
    else if q = 0 then p = pattern g n 0 ∧ ovl = false
    else ∃ fl, Rounds g f.crnd f.csat n q p fl ∧ (ovl = true ↔ fl &&& (flagOF ||| flagSAT) ≠ 0)

/-- A 32-bit integer, and an element of a format or INT8, as numbers. -/
def ofInt (i : ℤ) : Num := .num (decide (i < 0)) |(i : ℚ)|

/-- The number of indices below a bound of which something holds. -/
def countOf (n : Nat) (f : Nat → Bool) : Nat := ((List.range n).filter f).length

end Sys2Proof.Rules

/-- The rows that the products of class 4 write at their completion, in exact numbers: for each row of an active lane, MMA and
MMAZ round once for each exact chunk sum times its scale, or for each fused step, from the old word or zero; MMNP saturates one
exact integer sum; MCTR applies its operator along its axis by fused steps, for every active mask but an empty one. Every other
word of the tile rows stays. A scale that is not positive and finite enters the product as it is: the model's choice (log 119).
-/
def Obligations.MatrixProducts : Prop :=
  ∀ (s : State) (o : MtxOp),
    let f := slotOf o.slot
    let acc (i j : Nat) : Nat := tileWord o.dtile (dD0 o.desc + i) (dE0 o.desc + j)
    let written := ((matrixRows o).foldl (fun g w => applyRow o.id w g) s.g).tile
    let result (rows cols : Nat) (lanes : Nat → Bool) (v : Nat → Nat → Nat → Prop) : Prop :=
      ∀ r w, w < 64 →
        if dD0 o.desc ≤ r ∧ r < dD0 o.desc + rows ∧ lanes (r - dD0 o.desc) = true ∧ dE0 o.desc ≤ w ∧ w < dE0 o.desc + cols then
          v (r - dD0 o.desc) (w - dE0 o.desc) (tileWord written r w)
        else tileWord written r w = tileWord s.g.tile r w
    (∀ m n k e c, (o.m.shape.toNat, m, n, k, e, c) ∈ Rules.shapes → Rules.takes e f.efmt = true → f.scale ≤ 2 → (e = 4 → f.scale = 0) →
        dE0 o.desc + n ≤ 64 →
        (o.op = 0 → result m n (o.act.getLsbD ·) fun i j d => Rules.Multiplied o k e c (acc i j) i j d)
          ∧ (o.op = 1 → result m n (o.act.getLsbD ·) fun i j d => Rules.Multiplied o k e c 0 i j d))
      ∧ (o.op = 2 → f.multiplyOk [6] = true → dE0 o.desc + 16 ≤ 64 →
          let sum (i j : Nat) : ℤ := Rules.planeSum o (if o.m.acc then (BitVec.ofNat 32 (acc i j)).toInt else 0) i j
          let clamp (x : ℤ) : ℤ := max (-2 ^ 31) (min (2 ^ 31 - 1) x)
          result 32 16 (o.act.getLsbD ·) (fun i j d => (d : ℤ) = clamp (sum i j) % 2 ^ 32)
            ∧ (behindTepi s.g o.id = false → ((matrixRows o).foldl (fun g w => applyRow o.id w g) s.g).ovf.toNat
                = min (2 ^ 32 - 1) (s.g.ovf.toNat + Rules.countOf (32 * 16) fun x =>
                    o.act.getLsbD (x / 16) && clamp (sum (x / 16) (x % 16)) != sum (x / 16) (x % 16))))
      ∧ (o.op = 3 → 0x14 ≤ o.m.shape.toNat → o.m.shape.toNat ≤ 0x16 → o.act ≠ 0 → dE0 o.desc + 8 ≤ 64 →
          let block (x0 x1 x2 : Nat) : Rules.Num := Rules.num fp32 (tileWord o.tile (dD0 o.desc + 8 * x2 + x1) (dE0 o.desc + x0))
          let oper (m k : Nat) : Rules.Num :=
            let v := Rules.num fp32 (if o.m.trb then tileWord o.tile (dB0 o.desc + k) (dC0 o.desc + m)
                                     else tileWord o.tile (dB0 o.desc + m) (dC0 o.desc + k))
            if o.m.neg then v.minus else v
          result 64 8 (fun _ => true) fun r x0 d =>
            let x1 := r % 8
            let x2 := r / 8
            Rules.Accumulates 8 0 d fun k =>
              if o.m.shape.toNat = 0x14 then Rules.times (oper x0 k) (block k x1 x2)
              else if o.m.shape.toNat = 0x15 then Rules.times (oper x1 k) (block x0 k x2)
              else Rules.times (oper x2 k) (block x0 x1 k))

/-- The group's first operation reads its operand rows one at a time, its operands-consumed event coming with the last; then its
D rows, one at a time; then it writes its rows, one at a time; after the last it is over, TLDV's tile words being in registers,
MREL's tile rows given up, and the words of TADDST and TSTORE being posted: for each byte or word the highest lane's byte, or
the sum over the lanes in order (R300). TSTV's rows receive register words, TZERO's are zero; every other word of the tile rows
stays. What TEPI writes (R299): for each active lane, each accumulator word as a number, negated and scaled as the instruction
and slot say, in one rounding to the slot's format at its place; then the overflow count, its own overflows in it, which starts
again at zero. Every other byte of the tile rows stays; with no active lane all of them do. -/
def Obligations.TileMoves : Prop :=
  (∀ (s : State) (o : MtxOp), s.g.life = .live → headOp s.g = some o → (∀ x ∈ s.g.mtx, x.id = o.id → x = o) →
      let n := o.m.shape.toNat + 1
      let row (i q : Nat) : Nat := dD0 o.desc + if o.m.trb then q else i
      let word (i q : Nat) : Nat := dE0 o.desc + if o.m.trb then i else q
      let fits := dE0 o.desc + (if o.m.trb then 32 else n) ≤ 64
      let named (r w : Nat) : Prop := ∃ q i, q < n ∧ o.act.getLsbD i = true ∧ r = row i q ∧ w = word i q
      let still (t : State) : Prop := t.g.tile = s.g.tile ∧ Rules.SameRegisters s t ∧ t.mem = s.mem ∧ t.packets = s.packets
      let took (p : MtxOp) (r : Nat) (old new : Bytes) : Prop := p.id = o.id ∧ p.bad = o.bad
        ∧ ∀ q b, b < 256 → Bytes.read new (q * 256 + b) = if q = r then Bytes.read s.g.tile (r * 256 + b) else Bytes.read old (q * 256 + b)
      let written := ((matrixRows o).foldl (fun g w => applyRow o.id w g) s.g).tile
      (o.consumed = false → (∀ x ∈ o.after, stillPending s x = false) → o.spoilt = [] →
          (o.rows = [] → ∃ t, exec (.matrixOperandsConsumed s.g.gid) s = .next t ∧ still t ∧ { o with consumed := true } ∈ t.g.mtx)
            ∧ ∀ r rest, o.rows = r :: rest → Cells.get false s.g.poisonTile r = false →
                ∃ t p, exec (.matrixOperandsConsumed s.g.gid) s = .next t ∧ still t ∧ p ∈ t.g.mtx ∧ took p r o.tile p.tile
                  ∧ p.dtile = o.dtile ∧ p.rows = rest ∧ p.consumed = rest.isEmpty)
        ∧ (o.consumed = true → o.op ≠ 10 →
          (∀ r rest, o.drows = r :: rest → Cells.get false s.g.poisonTile r = false →
              ∃ t p, exec (.matrixComplete s.g.gid false) s = .next t ∧ still t ∧ p ∈ t.g.mtx ∧ took p r o.dtile p.dtile
                ∧ p.tile = o.tile ∧ p.drows = rest)
            ∧ (∀ w rest, o.drows = [] → o.outs.getD (matrixRows o) = w :: rest →
              ∃ t, exec (.matrixComplete s.g.gid false) s = .next t ∧ t.g.tile = (applyRow o.id w s.g).tile
                ∧ Rules.SameRegisters s t ∧ t.mem = s.mem ∧ t.packets = s.packets ∧ { o with outs := some rest } ∈ t.g.mtx)
            ∧ (o.drows = [] → o.outs.getD (matrixRows o) = [] → o.op < 8 → o.bad = none → o.inject = false →
              ∃ t, exec (.matrixComplete s.g.gid false) s = .next t ∧ (∀ x ∈ t.g.mtx, x.id ≠ o.id) ∧ t.mem = s.mem
                ∧ t.packets.length = s.packets.length ∧ t.g.p = s.g.p ∧ t.g.em = s.g.em ∧ t.g.tile = s.g.tile
                ∧ (o.op ≠ 4 → t.g.v = s.g.v)
                ∧ (o.op = 4 → (∀ q i, q < n → o.act.getLsbD i = true →
                      t.g.lane (o.m.a.toNat + q) i = BitVec.ofNat 32 (tileWord o.tile (row i q) (word i q)))
                    ∧ ∀ r i, i < 32 → ¬(o.act.getLsbD i = true ∧ o.m.a.toNat ≤ r ∧ r < o.m.a.toNat + n) →
                        t.g.lane r i = s.g.lane r i))
            ∧ (o.op = 8 ∨ o.op = 9 → o.drows = [] → o.outs.getD (matrixRows o) = [] → o.bad = none → (∃ a ∈ o.dests, a.c ≠ 0) →
              (∀ a ∈ o.dests, a.pa % 4 = 0) →
              (o.dests.Pairwise fun a b => a.lane < b.lane ∨ (a.lane = b.lane ∧ (a.pa + 4 * a.c ≤ b.pa ∨ b.pa + 4 * b.c ≤ a.pa))) →
              let post (a : LaneAccess) (j : Nat) : Nat := tileWord o.tile (dD0 o.desc + a.lane) (dE0 o.desc + a.x + j)
              let int := (slotOf o.slot).accf == 1
              ∃ t ps, exec (.matrixComplete s.g.gid false) s = .next t ∧ t.packets = s.packets ++ ps ∧ t.g.tile = s.g.tile
                ∧ Rules.SameRegisters s t ∧ t.mem = s.mem ∧ { o with sent := true } ∈ t.g.mtx
                ∧ (∀ p ∈ ps, p.id = o.id ∧ p.gid = some s.g.gid ∧ p.cls = 0 ∧ p.src = s.g.sp.home
                    ∧ ∃ ln, ((∃ bs, o.op = 9 ∧ p.body = .store bs ∧ ∀ b ∈ bs, b.1 / 64 = ln ∧ p.dst = homeOfPa b.1)
                      ∨ ∃ ws, o.op = 8 ∧ p.body = .addWords int ws ∧ ∀ x ∈ ws, x.1 / 64 = ln ∧ p.dst = homeOfPa x.1))
                ∧ (o.op = 9 → ∀ (pa : Nat) (x : Byte), (∃ p ∈ ps, ∃ bs, p.body = .store bs ∧ (pa, x) ∈ bs)
                    ↔ ∃ a ∈ o.dests, a.pa ≤ pa ∧ pa < a.pa + 4 * a.c
                        ∧ x = BitVec.ofNat 8 (post a ((pa - a.pa) / 4) / 256 ^ ((pa - a.pa) % 4))
                        ∧ ∀ b ∈ o.dests, a.lane < b.lane → ¬(b.pa ≤ pa ∧ pa < b.pa + 4 * b.c))
                ∧ (o.op = 8 → ∀ (pa v : Nat), (∃ p ∈ ps, ∃ ws, p.body = .addWords int ws ∧ (pa, v) ∈ ws)
                    ↔ ∃ x xs, (o.dests.filter fun a => decide (a.pa ≤ pa ∧ pa < a.pa + 4 * a.c ∧ pa % 4 = 0)).map
                          (fun a => post a ((pa - a.pa) / 4)) = x :: xs
                        ∧ v = xs.foldl (Rules.reduceValue (if int then 0 else 6)) x)))
        ∧ (o.op = 5 → fits →
            (∀ q i, q < n → o.act.getLsbD i = true →
                tileWord written (row i q) (word i q) = (Cells.get 0 o.a (vkey (o.m.a.toNat + q) i)).toNat)
              ∧ ∀ r w, w < 64 → ¬named r w → tileWord written r w = tileWord s.g.tile r w)
        ∧ (o.op = 6 → o.act ≠ 0 → ∀ r b, b < 256 → Bytes.read written (r * 256 + b)
            = if dD0 o.desc ≤ r ∧ r < dD0 o.desc + n ∧ 4 * dE0 o.desc ≤ b then 0 else Bytes.read s.g.tile (r * 256 + b))
        ∧ (o.consumed = true → o.op = 10 → o.drows = [] → o.outs.getD (matrixRows o) = [] → s.g.copies = [] →
            (∀ x ∈ s.g.mtx, x.sent = false) → o.bad = none →
            ∃ t, exec (.matrixComplete s.g.gid false) s = .next t ∧ t.g.tileRows = 0 ∧ t.g.tile = [] ∧ t.g.v = s.g.v ∧ t.mem = s.mem
              ∧ ∀ x ∈ t.g.mtx, x.id ≠ o.id))
    ∧ (∀ (s : State) (o : MtxOp), o.op = 7 → ((slotOf o.slot).generalOk && decide ((slotOf o.slot).efmt ≤ 5 ∧ (slotOf o.slot).scale ≤ 1)) = true →
      let f := slotOf o.slot
      let n := 2 * (o.m.shape.toNat + 1)
      let e := efmtBytes f.efmt
      let after := (matrixRows o).foldl (fun g w => applyRow o.id w g) s.g
      dE0 o.desc + n ≤ 64 → 4 * dC0 o.desc + n * e ≤ 256 → 4 * dSC0 o.desc + 4 ≤ 256 → behindTepi s.g o.id = false → s.g.ovfLate = [] →
      let source (i j : Nat) : Rules.Num :=
        let w := tileWord o.tile (dD0 o.desc + i) (dE0 o.desc + j)
        let x := if f.accf = 1 then Rules.ofInt (if o.m.neg then -(BitVec.ofNat 32 w).toInt else (BitVec.ofNat 32 w).toInt)
                 else if o.m.neg then (Rules.num fp32 w).minus else Rules.num fp32 w
        if f.scale = 1 then Rules.times x (Rules.num fp32 o.scale.toNat) else x
      (o.act = 0 → after = s.g) ∧
      (o.act ≠ 0 → ∃ (p : Nat → Nat → Nat) (ovl : Nat → Nat → Bool),
        (∀ i j, i < 32 → j < n → Rules.Converted f f.efmt (source i j) (p i j) (ovl i j))
          ∧ (∀ i j k, o.act.getLsbD i = true → j < n → k < e →
              ¬(dSR o.desc = dB0 o.desc + i ∧ 4 * dSC0 o.desc ≤ 4 * dC0 o.desc + j * e + k ∧ 4 * dC0 o.desc + j * e + k < 4 * dSC0 o.desc + 4) →
              Bytes.read after.tile ((dB0 o.desc + i) * 256 + 4 * dC0 o.desc + j * e + k) = BitVec.ofNat 8 (p i j / 256 ^ k))
          ∧ tileWord after.tile (dSR o.desc) (dSC0 o.desc)
              = min (2 ^ 32 - 1) (s.g.ovf.toNat + Rules.countOf (32 * n) fun x => o.act.getLsbD (x / n) && ovl (x / n) (x % n))
          ∧ after.ovf = 0
          ∧ ∀ r b, b < 256 → ¬(r = dSR o.desc ∧ 4 * dSC0 o.desc ≤ b ∧ b < 4 * dSC0 o.desc + 4) →
              ¬(dB0 o.desc ≤ r ∧ o.act.getLsbD (r - dB0 o.desc) = true ∧ 4 * dC0 o.desc ≤ b ∧ b < 4 * dC0 o.desc + n * e) →
              Bytes.read after.tile (r * 256 + b) = Bytes.read s.g.tile (r * 256 + b)))

namespace Sys2Proof.Rules
open Sys2Proof Sys2Proof.Machine

/-- The command writes memory: CPOUT, CPSC, SWEEP.out (Table 19.4). -/
def outward (c : CopyCmd) : Bool := c.code == 3 || c.code == 4 || (c.code == 6 && c.flags / 8 % 2 == 1)

/-- Bytes of an element of the record, and at its place; the words that carry one, of SWEEP one (R286, R288, R306). -/
def esz (c : CopyCmd) : Nat := 2 ^ recEsz c.iter
def placeSize (c : CopyCmd) : Nat := if c.code = 6 then 4 else esz c
def wordsOf (c : CopyCmd) : Nat := if c.code = 6 then 1 else 2 ^ (recEsz c.iter - 2)

/-- Where a carried word lies in memory: nowhere when a list's index selects no run (R287, R288). -/
def memAt (c : CopyCmd) (e : Nat) : Spot :=
  let n (d : Nat) : Nat := if d < recDims c.iter then recCount c.iter d else 1
  let q := e / wordsOf c
  let r := q / n 0
  let lies (i1 i2 i3 : Nat) : Spot := .mem (((recBase c.iter : ℤ) + (q % n 0 * esz c : Nat) + i1 * recStride c.iter 1
    + i2 * recStride c.iter 2 + i3 * recStride c.iter 3).toNat + 4 * (e % wordsOf c))
  if c.code = 2 ∨ c.code = 4 then
    match c.list[r]? with
    | some x => if x < n 1 then lies x 0 0 else .nothing
    | none => .nothing
  else lies (r % n 1) (r / n 1 % n 2) (r / (n 1 * n 2))

/-- Where it lies at the place: a run to a tile row, or packed in the lease (R288). -/
def placeAt (c : CopyCmd) (e : Nat) : Spot :=
  let n0 := if 0 < recDims c.iter then recCount c.iter 0 else 1
  let q := e / wordsOf c
  if placeTile c.c then .tile (256 * (placeRow c.c + q / n0) + 4 * placeCol c.c + q % n0 * placeSize c + 4 * (e % wordsOf c))
  else .lease (placeOff c.c + q * placeSize c + 4 * (e % wordsOf c))

/-- Where a command reads and writes its carried words (Table 19.4): ITLD's flags say its direction, and CPFILL reads none. -/
def readsFrom (c : CopyCmd) (e : Nat) : Spot :=
  if c.code = 7 then .nothing
  else if c.code = 0 then (if c.flags % 2 = 1 then .tile (256 * placeRow c.c + 4 * e) else .lease (placeOff c.a + 4 * e))
  else if outward c then placeAt c e else memAt c e
def writesTo (c : CopyCmd) (e : Nat) : Spot :=
  let w := 64 - placeCol c.c
  if c.code = 7 then (if placeTile c.c then .tile (256 * (placeRow c.c + e / w) + 4 * (placeCol c.c + e % w)) else .lease (placeOff c.c + 4 * e))
  else if c.code = 0 then (if c.flags % 2 = 1 then .lease (placeOff c.a + 4 * e) else .tile (256 * placeRow c.c + 4 * e))
  else if outward c then memAt c e else placeAt c e

/-- Bytes of a carried word where it is read and written: a whole element for SWEEP. -/
def carriedBytes (c : CopyCmd) (inMemory : Bool) : Nat :=
  if c.code = 0 ∨ c.code = 7 then 4 else if c.code = 6 then (if inMemory then esz c else 4) else min 4 (esz c)
def readBytes (c : CopyCmd) : Nat := carriedBytes c (!outward c)
def writeBytes (c : CopyCmd) : Nat := carriedBytes c (outward c)

/-- A carried word covers a byte of its destination. -/
def covers (c : CopyCmd) (e k : Nat) : Prop :=
  writesTo c e ≠ .nothing ∧ (writesTo c e).key ≤ k ∧ k < (writesTo c e).key + writeBytes c

/-- What is written for what was read: SWEEP scales it, takes zero for what lies below, and converts it once (R306). -/
def Carried (c : CopyCmd) (x y : Nat) (ovl : Bool) : Prop :=
  if c.code = 6 then
    let f := slotOf c.slot
    let sop := c.flags / 16 % 8
    let v := if outward c then num fp32 x else if f.efmt = 5 then ofInt (BitVec.ofNat 8 x).toInt else num (format f.efmt) x
    let v1 := if sop = 1 ∨ sop = 3 then times v (num fp32 (c.b.toNat % 2 ^ 32)) else v
    Converted f (if outward c then f.efmt else 0) (if sop < 2 then v1 else if v1.neg then .num false 0 else v1) y ovl
  else y = x ∧ ovl = false

/-- The engine may read, or write, the line of an address now: it translates and is permitted, its home takes traffic, the line is sound and
its page is not in CUTOVER (R286, 25 R373). Lines of another package wait for the fabric (25 R365). -/
def lineFor (s : State) (c : CopyCmd) (need : Need) (va pa pte : Nat) : Prop :=
  resolve s (coreHome c.core) s.g.ctx c.sup false need va = .ok (pa, pte) ∧ homePkg (homeOfPa pa) = homePkg (coreHome c.core)
    ∧ takesTraffic s (homeOfPa pa) = true ∧ cutoverMove s (homeOfPa pa) pa = none
def readsLine (s : State) (c : CopyCmd) (va pa pte : Nat) : Prop :=
  lineFor s c .read va pa pte ∧ soundLine s { lane := 0, va := va, pa := pa, pte := pte }
def writesLine (s : State) (c : CopyCmd) (va pa pte : Nat) : Prop := lineFor s c .write va pa pte ∧ isDegraded s pa pte = false

end Sys2Proof.Rules

/-- CPFILL, started and first of its group, with nothing read ahead: two accesses of the engine fill the words of its next line,
block or row with the pattern: words of the lease, or words of tile rows from its column on; nothing else changes there. After
its last word the command is over. CPIN of a one-dimensional record into the lease, started and first of its group, with nothing
read ahead and its next block on one line of memory: when its address translates and its line is sound, two accesses of the
engine put the elements of that block into the lease in order from the place's offset; no other scratch byte and no byte of
memory changes. After its last element the command is over. Every copy command moves its elements so (R286, R288, R303 to R306):
an access that reads takes, in index order, the elements of one line, row or block of the source that the record, the list and
the place give; an access that writes puts elements that were read, SWEEP's converted in one rounding and its overflows counted,
where the destination is, of elements that overlap the later; ITLD and CPFILL go by words. What a list does not select is zero,
or is not written. Nothing else changes, and the command goes on behind them. -/
def Obligations.CopiesWriteTheirPlace : Prop :=
  (∀ (s : State) (c : CopyCmd) (rest : List CopyCmd), s.g.life = .live → s.g.copies = c :: rest → c.code = 7 →
      c.started = true → c.fault = false → c.wrote = false → packetsLeft s c.id = false → c.got = c.index → c.out = [] →
      c.index < c.total →
      let x := c.b.toNat % 2 ^ 32
      let m := c.writeEnd
      let runs (t : State) : Prop := (∃ u, exec (.copyFinish s.g.gid c.id) s = .next u ∧ exec (.copyFinish s.g.gid c.id) u = .next t
          ∧ u.g.tile = s.g.tile ∧ u.cores = s.cores ∧ u.mem = s.mem)
        ∧ t.mem = s.mem ∧ t.g.v = s.g.v
        ∧ (m = c.total → ∀ k ∈ t.g.copies, k.id ≠ c.id)
        ∧ (m ≠ c.total → ∃ k ∈ t.g.copies, k.id = c.id ∧ k.index = m ∧ k.got = m ∧ k.started = true)
      c.index < m ∧ m ≤ c.total
        ∧ (∀ l, placeTile c.c = false → c.leaseIn s = some l → l.dead = false →
          ∃ t, runs t ∧ t.g.tile = s.g.tile ∧ (∀ k, k ≠ l.core → t.core k = s.core k)
            ∧ (∀ e k, c.index ≤ e → e < m → k < 4 →
                Bytes.read (t.core l.core).scratch (l.base + placeOff c.c + 4 * e + k) = BitVec.ofNat 8 (x / 2 ^ (8 * k)))
            ∧ ∀ a, ¬(l.base + placeOff c.c + 4 * c.index ≤ a ∧ a < l.base + placeOff c.c + 4 * m) →
                Bytes.read (t.core l.core).scratch a = Bytes.read (s.core l.core).scratch a)
        ∧ (placeTile c.c = true →
          ∃ t, runs t ∧ t.cores = s.cores
            ∧ ∀ r w, w < 64 → (placeCol c.c ≤ w → tileWord t.g.tile r w
                  = if placeRow c.c ≤ r ∧ c.index ≤ (r - placeRow c.c) * (64 - placeCol c.c) + (w - placeCol c.c)
                        ∧ (r - placeRow c.c) * (64 - placeCol c.c) + (w - placeCol c.c) < m then x
                    else tileWord s.g.tile r w)
                ∧ (w < placeCol c.c → tileWord t.g.tile r w = tileWord s.g.tile r w)))
    ∧ (∀ (s : State) (c : CopyCmd) (rest : List CopyCmd) (l : Lease) (pa pte : Nat), s.g.life = .live →
      s.g.copies = c :: rest → c.code = 1 → c.started = true → c.fault = false → c.wrote = false → c.got = c.index → c.out = [] →
      packetsLeft s c.id = false → placeTile c.c = false → c.leaseIn s = some l → l.dead = false →
      recDims c.iter = 1 → recEsz c.iter ≤ 2 → recBase c.iter % 2 ^ recEsz c.iter = 0 → c.index < recCount c.iter 0 → c.writeEnd ≤ c.readEnd →
      let e := 2 ^ recEsz c.iter
      let n := recCount c.iter 0
      let m := c.writeEnd
      let va := recBase c.iter + c.index * e
      Rules.readsLine s c va pa pte → paTier pa < 3 → c.readEnd = m →
      c.index < m ∧ m ≤ n ∧
      ∃ u t, exec (.copyFinish s.g.gid c.id) s = .next u ∧ exec (.copyFinish s.g.gid c.id) u = .next t ∧ u.cores = s.cores
        ∧ (∀ a, t.byte a = s.byte a) ∧ t.g.v = s.g.v ∧ t.g.tile = s.g.tile
        ∧ (m = n → ∀ k ∈ t.g.copies, k.id ≠ c.id)
        ∧ (m ≠ n → ∃ k ∈ t.g.copies, k.id = c.id ∧ k.index = m ∧ k.got = m ∧ k.started = true)
        ∧ (∀ k, k ≠ l.core → t.core k = s.core k)
        ∧ (∀ i k, c.index ≤ i → i < m → k < e →
            Bytes.read (t.core l.core).scratch (l.base + placeOff c.c + i * e + k) = s.byte (pa + (i - c.index) * e + k))
        ∧ ∀ a, ¬(l.base + placeOff c.c + c.index * e ≤ a ∧ a < l.base + placeOff c.c + m * e) →
            Bytes.read (t.core l.core).scratch a = Bytes.read (s.core l.core).scratch a)
    ∧ (∀ (s : State) (c : CopyCmd) (rest : List CopyCmd), s.g.life = .live → s.g.copies = c :: rest → (∀ x ∈ rest, x.id ≠ c.id) → c.code ≠ 5 →
      c.started = true → (c.code ≠ 0 → c.code ≠ 7 → startFault c s = none) → placeOff c.c % 4 = 0 → (c.code = 0 → placeOff c.a % 4 = 0) →
      c.fault = false → c.wrote = false → c.wantsList = false → c.index ≤ c.got → c.index < c.total → c.index < c.known →
      packetsLeft s c.id = false →
      let n := Rules.readBytes c
      let still (t : State) : Prop := t.g.v = s.g.v ∧ t.g.p = s.g.p ∧ t.packets.length = s.packets.length
      let read (v : Nat → Nat) : Prop := ∃ t, exec (.copyFinish s.g.gid c.id) s = .next t ∧ still t ∧ (∀ a, t.byte a = s.byte a)
        ∧ t.cores = s.cores ∧ t.g.tile = s.g.tile
        ∧ { c with got := c.readEnd, out := c.out ++ (List.range (c.readEnd - c.got)).map fun i => v (c.got + i) } ∈ t.g.copies
      let m := c.writeEnd
      (c.got < m → c.got < c.readEnd ∧
        (∀ va pa pte, Rules.readsFrom c c.got = .mem va → Rules.readsLine s c va pa pte → paTier pa < 3 →
          read fun e => (s.readN (pa / 64 * 64) 64) / 256 ^ ((Rules.readsFrom c e).key % 64) % 256 ^ n)
        ∧ (∀ k, Rules.readsFrom c c.got = .tile k → Cells.get false s.g.poisonTile (k / 256) = false →
          read fun e => if Rules.writesTo c e = .nothing then 0 else s.g.tile.readN (Rules.readsFrom c e).key n)
        ∧ (∀ l, (∃ o, Rules.readsFrom c c.got = .lease o) → c.leaseIn s = some l → l.dead = false →
          (∀ i, Cells.get false (s.core l.core).poison i = false) →
          read fun e => if Rules.writesTo c e = .nothing then 0 else (s.core l.core).scratch.readN (l.base + (Rules.readsFrom c e).key) n)
        ∧ (Rules.readsFrom c c.got = .nothing → read fun _ => if c.code = 7 then c.b.toNat % 2 ^ 32 else 0))
      ∧ (m ≤ c.got →
        let moved (get : State → Nat → Byte) (after : State → Prop) : Prop := c.index < m ∧ ∃ (y : Nat → Nat) (ovl : Nat → Bool) (t : State),
          (∀ e, c.index ≤ e → e < m → Rules.Carried c (c.out.getD (e - c.index) 0) (y e) (ovl e))
            ∧ exec (.copyFinish s.g.gid c.id) s = .next t ∧ still t ∧ after t
            ∧ (behindTepi s.g c.id = false → t.g.ovf.toNat
                = min (2 ^ 32 - 1) (s.g.ovf.toNat + Rules.countOf (m - c.index) fun i => ovl (c.index + i)))
            ∧ (m ≠ c.total → { c with index := m, out := c.out.drop (m - c.index) } ∈ t.g.copies)
            ∧ (m = c.total → t.mirrors = s.mirrors → ∀ k ∈ t.g.copies, k.id ≠ c.id)
            ∧ ∀ k, (∀ e, c.index ≤ e → e < m → Rules.covers c e k →
                (∀ f, e < f → f < m → ¬Rules.covers c f k) →
                  get t k = BitVec.ofNat 8 (y e / 256 ^ (k - (Rules.writesTo c e).key)))
        (Rules.writesTo c c.index = .nothing → moved (fun _ _ => 0) fun t => (∀ a, t.byte a = s.byte a) ∧ t.cores = s.cores ∧ t.g.tile = s.g.tile)
        ∧ (∀ k0, Rules.writesTo c c.index = .tile k0 → moved (fun t k => Bytes.read t.g.tile k) fun t => (∀ a, t.byte a = s.byte a) ∧ t.cores = s.cores
            ∧ ∀ k, (∀ e, c.index ≤ e → e < m → ¬Rules.covers c e k) → Bytes.read t.g.tile k = Bytes.read s.g.tile k)
        ∧ (∀ o0 l, Rules.writesTo c c.index = .lease o0 → c.leaseIn s = some l → l.dead = false →
            moved (fun t k => Bytes.read (t.core l.core).scratch (l.base + k)) fun t => (∀ a, t.byte a = s.byte a) ∧ (∀ k, k ≠ l.core → t.core k = s.core k) ∧ t.g.tile = s.g.tile
              ∧ ∀ a, (∀ e o, c.index ≤ e → e < m → a = l.base + o → ¬Rules.covers c e o) →
                  Bytes.read (t.core l.core).scratch a = Bytes.read (s.core l.core).scratch a)
        ∧ (∀ va pa pte, Rules.writesTo c c.index = .mem va → Rules.writesLine s c va pa pte → paTier pa < 2 →
            moved (fun t k => t.byte (pa / 64 * 64 + k % 64)) fun t => t.cores = s.cores ∧ t.g.tile = s.g.tile
              ∧ ∀ a, (∀ e k, c.index ≤ e → e < m → Rules.covers c e k → a ≠ pa / 64 * 64 + k % 64) → t.byte a = s.byte a)))

/-! ### Class 7, traps and recovery -/

namespace Sys2Proof.Rules
open Sys2Proof Sys2Proof.Machine

/-- The focused split may take a trap into its handler at once: its group is no diagnostic one, not in supervisor state, has no
handler, the other splits have stopped, can, or wait in WAITC, no register waits to be written, and the driver gave it a handler and
private memory (R314, R315). -/
def handlerReady (s : State) : Prop :=
  s.g.diag = false ∧ s.g.sup = false ∧ s.g.handler = .none ∧ registersPending s.g = false ∧ s.g.trapvec ≠ 0
    ∧ ctxPrivLog s s.g.ctx ≠ 0 ∧ ∀ x ∈ s.g.sibs, x.status = .runnable → x.stopped = false → waitsInWaitc x = false → atBoundary x = true

/-- The frame of a trap can be written, whatever it holds (R315). -/
def frameWritable (s : State) : Prop :=
  ∀ bs, bs.length = frameSize s.g →
    (deviceWrite 3 { s with g := suspendOthers s.g } s.g.baseHome s.g.ctx s.g.ctxbase.toNat bs).isSome = true

/-- The cause word of a trap with no access (Table 21.2). -/
def cause (s : State) (code : Nat) : Word :=
  BitVec.ofNat 32 (3 * 2 ^ 16 + (if s.g.sp.defer = 0 then 0 else 2 ^ 14) + code)

/-- The state behind the entry of a handler (R314 to R316). -/
def Entered (s t : State) (code : Nat) (pc addr hdr : DWord) : Prop :=
  t.g.sup = true ∧ t.g.handler = .running s.g.sp.idx ∧ t.g.trapcause = cause s code ∧ t.g.trappc = pc ∧ t.g.trapaddr = addr
    ∧ t.g.trapmask = s.active ∧ t.g.traphdr = hdr ∧ t.g.sp.pc = s.g.trapvec ∧ t.g.sp.clause = {} ∧ t.g.sp.region = none
    ∧ t.g.em = s.g.em ||| s.g.sp.lanes ∧ t.g.v = s.g.v ∧ t.g.p = s.g.p ∧ t.g.bcur = s.g.bcur ∧ t.g.sp.s = s.g.sp.s
    ∧ t.g.sp.fpstat = s.g.sp.fpstat ∧ t.g.seams = [] ∧ t.g.seamSv = s.g.seams ∧ t.g.sp.lanes = s.g.sp.lanes
    ∧ (∀ x ∈ t.g.sibs, x.status = .runnable → x.stopped = true ∨ (waitsInWaitc x = true ∧ x ∈ s.g.sibs)) ∧ t.packets = s.packets ∧ t.g.tile = s.g.tile

/-- What RDSYS reads (Table 23.2). -/
def sysReg (s : State) : SysReg → Nat
  | .trapvec => s.g.trapvec.toNat
  | .trapcause => s.g.trapcause.toNat
  | .trappc => s.g.trappc.toNat % 2 ^ 56
  | .trapaddr => s.g.trapaddr.toNat
  | .trapmask => s.g.trapmask.toNat
  | .traphdr => s.g.traphdr.toNat % 2 ^ 56
  | .ctxbase => s.g.ctxbase.toNat % 2 ^ 56
  | .rpseq => s.g.rpseq.toNat
  | .rppc => s.g.rppc.toNat % 2 ^ 56
  | .rpjkt => s.g.rpjkt.toNat
  | .teamstat => s.g.teamstat.toNat
  | .diaginj => s.g.diaginj.toNat
  | .repairbase => match s.g.sp.part with
    | some p => ((p / 256 / 16 * 16 + 3) * 16 + p / 256 % 16) * 2 ^ 44 + 0x20000 + 512 * (p / 4 % 64)
    | none => 0
  | .splitLo n => match s.g.splits.find? fun sp => sp.idx == n.toNat && sp.joins.isNone with
    | some sp => sp.lanes.toNat * 2 ^ 32 + (match sp.status with
        | .runnable => 1 | .atSeam => 2 | .waiting => 3 | .suspended => 4 | .transit => 5) * 2 ^ 28
      + sp.seam * 2 ^ 24 + sp.home * 2 ^ 16 + if sp.demoted then 1 else 0
    | none => 0
  | .splitHi n => match s.g.splits.find? fun sp => sp.idx == n.toNat && sp.joins.isNone with
    | some sp => sp.pc.toNat % 2 ^ 56
    | none => 0
  | .seamSv k => (Cells.get {} s.g.seamSv k.toNat).arrived.toNat * 2 ^ 32 + (Cells.get {} s.g.seamSv k.toNat).cohort.toNat

/-- Registers that only supervisor state reads (Table 23.2). -/
def supOnlyReg : SysReg → Bool
  | .repairbase | .splitLo _ | .splitHi _ | .seamSv _ => true
  | _ => false

/-- A line is sound, and so is its copy on a mirrored page (22 R338, 25 R369). -/
def unspoiled (s : State) (pa pte : Nat) : Prop :=
  poisonedLine s (pa / 64) = false ∧ (pteMirror pte = true → poisonedLine s (mirrorOf s pa / 64) = false)

/-- Every line of some runs of memory is sound. -/
def spansSound (s : State) (xs : List Span) : Prop := ∀ x ∈ xs, ∀ l ∈ x.lines, unspoiled s l.pa l.pte

/-- Every write of the group to MANTLE pages is durable (R342, R345). -/
def groupWritesDurable (s : State) : Prop :=
  s.g.lost = [] ∧ (∀ a ∈ s.g.accs, a.kind.writes = true → a.elems = [] ∧ ∀ l ∈ a.lanes, pteMantle l.pte = false)
    ∧ (∀ o ∈ s.g.mtx, ∀ l ∈ o.dests, pteMantle l.pte = false) ∧ (∀ p ∈ s.packets, p.gid = some s.g.gid → pteMantle p.pte = false)
    ∧ ∀ m ∈ s.mirrors, m.2.gid = some s.g.gid → pteMantle m.2.pte = false

/-- Slot k of a log's 192 bytes holds a checkpoint whose region, as the reader translates it, has the CRC that the slot holds (R346). -/
def slotGood (s : State) (bs : List Byte) (k : Nat) : Prop :=
  let n (o len : Nat) : Nat := leNat ((bs.drop (0x40 + 0x40 * k + o)).take len)
  n 0x28 1 = 2 ∧ ∃ xs, spans .read s (n 8 8) (n 0x10 8) = .ok xs
    ∧ (crc64 ((bs.drop (0x40 + 0x40 * k)).take 0x30 ++ spanBytes s xs)).toNat = n 0x30 8

/-- SEQ of the slot that recovery chooses, 0 for none (R346, R353): `hi` is the slot with the larger SEQ, slot 1 on a tie. -/
def Chosen (s : State) (bs : List Byte) (n : Nat) : Prop :=
  let seq (k : Nat) : Nat := leNat ((bs.drop (0x40 + 0x40 * k)).take 8)
  let hi := if seq 1 < seq 0 then 0 else 1
  let lo := 1 - hi
  (slotGood s bs hi → seq hi = seq lo + 1 → n = seq hi)
    ∧ (¬(slotGood s bs hi ∧ seq hi = seq lo + 1) → slotGood s bs lo → n = seq lo)
    ∧ (¬(slotGood s bs hi ∧ seq hi = seq lo + 1) → ¬slotGood s bs lo → n = 0)

/-- The log of an operation on checkpoints passes the checks of R345: where it lies, and its leaf; its lines are sound. -/
def logAt (s : State) (need : Need) (l : DWord) (pa pte : Nat) : Prop :=
  (need = .write → s.g.diag = false) ∧ l.toNat % 256 = 0 ∧ l.toNat < 2 ^ 56
    ∧ resolve s s.g.sp.home s.g.ctx s.g.sup false need l.toNat = .ok (pa, pte) ∧ pteMantle pte = true
    ∧ mustPrecede s false [(pa, 256)] = false ∧ logBad s pa = none ∧ ∀ i, i < 3 → unspoiled s (pa + 64 * i) pte

/-- The first 48 of the 64 bytes of a commit record, which its CRC covers (Table 22.7). -/
def recordFields (c : Checkpoint) (state : Nat) : List Byte :=
  leBytes 8 c.n.toNat ++ leBytes 8 c.base.toNat ++ leBytes 8 c.len.toNat ++ leBytes 8 c.rpc.toNat ++ leBytes 8 c.rjkt.toNat
    ++ leBytes 4 state ++ leBytes 4 0

/-- The 64 bytes of a commit record (Table 22.7). -/
def record (c : Checkpoint) (state : Nat) (crc : DWord) : List Byte :=
  recordFields c state ++ leBytes 8 crc.toNat ++ leBytes 8 0

/-- A pre-emption request's identity of a kind names a group: GRPID, TEAMID, or a card taken from a slot that has not completed (R356). -/
def named (s : State) (kind slot : Nat) (x : DWord) (g : Group) : Prop :=
  if kind = 0 then g.gid.setWidth 64 = x
  else if kind = 1 then g.team.isSome = true ∧ g.teamId.setWidth 64 = x
  else ∃ c ∈ s.cards, c.slot = slot ∧ c.id = g.card

/-- A group that the identity names on a package: one based there, whose identities are the package's (R94), or, where none is, one that is
resident, parked or saved there; and of a team or card that it so names, every group, wherever it is (R356). -/
def namedThere (s : State) (pkg kind slot : Nat) (x : DWord) (g : Group) : Prop :=
  named s kind slot x g ∧ onPackage pkg g = true
    ∧ (homePkg g.baseHome = pkg ∨ ∀ y ∈ s.groups, onPackage pkg y = true → homePkg y.baseHome = pkg → ¬named s kind slot x y)
def requested (s : State) (pkg kind slot : Nat) (x : DWord) (g : Group) : Prop :=
  namedThere s pkg kind slot x g ∨ (named s kind slot x g ∧ ∃ y ∈ s.groups, namedThere s pkg kind slot x y
    ∧ ((kind = 1 ∧ g.team = y.team) ∨ (kind = 2 ∧ g.card = y.card)))

/-- No saved seam is complete, so that a return brings the seams back as they were. -/
def seamsOpen (g : Group) : Prop :=
  ∀ k, k < 16 → (Cells.get {} g.seamSv k).cohort = 0 ∨ (Cells.get {} g.seamSv k).arrived ≠ (Cells.get {} g.seamSv k).cohort

end Sys2Proof.Rules

/-- A trap in supervisor state is a double trap: the group ends. A trap while another split's handler runs is held: the split is
suspended with it. A split of a group with no handler address ends too. Outside supervisor state ERET, HALT, TLBINV, PREEMPT,
the writes of TRAPVEC and CTXBASE and the reads of the split table, the saved seams and REPAIRBASE raise the illegal-instruction
trap; so does a write of any register but TRAPVEC, CTXBASE and DIAGINJ in either state. -/
def Obligations.TrapsHeldDoubleAndPrivileged : Prop :=
  (∀ (s : State) (n : Imm14), s.g.diag = false →
      (s.g.sup = true ∨ (s.g.handler = .none ∧ registersPending s.g = false ∧ s.g.trapvec = 0
            ∧ ∀ x ∈ s.g.sibs, x.status = .runnable → x.stopped = false → waitsInWaitc x = false → atBoundary x = true) →
          ∃ t, exec .brk s = .next t ∧ (t.g.life = .vacant ∨ t.g.life = .ghost))
        ∧ (∀ f, s.g.sup = false → s.g.handler = .running f ∨ s.g.handler = .pending f →
          ∃ t, exec (.trap n) s = .next t ∧ t.g.sp.status = .suspended ∧ t.g.sp.trap.isSome = true ∧ t.g.sp.pc = s.g.sp.pc
            ∧ t.g.handler = s.g.handler ∧ Rules.SameRegisters s t ∧ t.mem = s.mem))
    ∧ (∀ (s : State) (i : Instr) (a d : SReg) (n : SysReg) (k : BitVec 2) (b : BitVec 13),
      (s.g.sup = false → i ∈ [.eret, .halt, .tlbinv a b, .preempt k a, .wrsys .trapvec a, .wrsys .ctxbase a] →
          exec i s = .next (Rules.trapsAt 0x02 3 0 0 s))
        ∧ (s.g.sup = false → Rules.supOnlyReg n = true → exec (.rdsys d n) s = .next (Rules.trapsAt 0x02 3 0 0 s))
        ∧ (n ≠ .trapvec → n ≠ .ctxbase → n ≠ .diaginj → exec (.wrsys n a) s = .next (Rules.trapsAt 0x02 3 0 0 s))
        ∧ (s.g.sup = true → exec (.preempt 3 a) s = .next (Rules.trapsAt 0x02 3 0 0 s)))

/-- RDSYS writes the register's value to its scalar; WRSYS writes TRAPVEC and CTXBASE without the bits that read zero, and
DIAGINJ without its reserved bits and with an unknown KIND as 0; nothing else of the group changes. -/
def Obligations.SystemRegisters : Prop :=
  ∀ (s : State) (d a : SReg) (n : SysReg),
    ((s.g.sup = true ∨ Rules.supOnlyReg n = false) →
        exec (.rdsys d n) s = .next (complete (writeS d (BitVec.ofNat 64 (Rules.sysReg s n)) s)))
      ∧ (s.g.sup = true → ∃ t, exec (.wrsys .trapvec a) s = .next t
          ∧ t.g.trapvec.toNat = (readS s a).toNat % 2 ^ 56 / 4 * 4
          ∧ Rules.OutsideGroup s t ∧ Rules.OutsideSplit s t ∧ { t.g with trapvec := s.g.trapvec, sp := s.g.sp } = s.g ∧ Rules.WentOn s t)
      ∧ (s.g.sup = true → ∃ t, exec (.wrsys .ctxbase a) s = .next t
          ∧ t.g.ctxbase.toNat = (readS s a).toNat % 2 ^ 56 / 128 * 128
          ∧ Rules.OutsideGroup s t ∧ Rules.OutsideSplit s t ∧ { t.g with ctxbase := s.g.ctxbase, sp := s.g.sp } = s.g ∧ Rules.WentOn s t)
      ∧ (let x := (readS s a).toNat
         ∃ t, exec (.wrsys .diaginj a) s = .next t
          ∧ t.g.diaginj.toNat = x / 2 ^ 31 % 2 * 2 ^ 31 + x / 2 ^ 8 % 2 ^ 8 * 2 ^ 8 + (if x % 16 ≤ 3 then x % 16 else 0)
          ∧ Rules.OutsideGroup s t ∧ Rules.OutsideSplit s t ∧ { t.g with diaginj := s.g.diaginj, sp := s.g.sp } = s.g ∧ Rules.WentOn s t)

/-- TRAP and BRK take their trap: where the frame can be written, the handler starts: supervisor state, the trap registers with
cause, PC, address, mask and header, TRAPVEC as the PC, every lane enabled, the seam records put away and the other splits
suspended; every register keeps its value. The frame of a trap that lies in one page: its bytes stand at CTXBASE in memory, the
header's PC first, and no other byte of memory changes. ERET of the one split of a handler, its stores accepted: the group
leaves supervisor state, and nothing in memory changes. Where no seam that was put away is complete, the lanes take the frame's
vector registers, the split its scalars, FPSTAT and region entry, EM its bits; the group leaves supervisor state, its seam
records come back and its suspended splits run again; execution goes on at the frame's PC, inside the clause when that is the
trapping instruction. -/
def Obligations.TrapAndBrkEnterTheHandler : Prop :=
  (∀ (s : State) (n : Imm14), Rules.handlerReady s → Rules.frameWritable s →
      (∃ t, exec (.trap n) s = .next t
          ∧ Rules.Entered s t 0x12 (nextHeader s.g.sp) (BitVec.ofNat 64 n.toNat) (nextHeader s.g.sp))
        ∧ ∃ t, exec .brk s = .next t ∧ Rules.Entered s t 0x13 (instrPc s) 0 s.g.sp.pc)
    ∧ (∀ (s : State) (pa pte z : Nat), Rules.handlerReady s → s.g.ctxbase.toNat % 2 ^ 16 + frameSize s.g ≤ 2 ^ 16 →
      translate s s.g.baseHome s.g.ctx s.g.ctxbase.toNat = .ok pa pte z → paTier pa < 2 → pteW pte = true →
      ∃ t, exec .brk s = .next t
        ∧ (∀ k, k < 8 → Bytes.read t.mem (pa + k) = (instrPc s).extractLsb' (8 * k) 8)
        ∧ (∀ r l k, r < s.g.w → l < 32 → k < 4 →
            Bytes.read t.mem (pa + 64 + 128 * r + 4 * l + k) = (s.g.lane r l).extractLsb' (8 * k) 8)
        ∧ (∀ q k, 0 < q → q < 64 → k < 8 → Bytes.read t.mem (pa + 64 + 128 * s.g.w + 8 * (q - 1) + k)
            = (readS s (BitVec.ofNat 6 q)).extractLsb' (8 * k) 8)
        ∧ (∀ k, k < 4 → Bytes.read t.mem (pa + 64 + 128 * s.g.w + 504 + 28 + 32 + 1024 + k)
            = (Rules.cause s 0x13).extractLsb' (8 * k) 8)
        ∧ ∀ a, ¬(pa ≤ a ∧ a < pa + frameSize s.g) → Bytes.read t.mem a = Bytes.read s.mem a)
    ∧ (∀ (s : State) (f : List Byte), s.g.sup = true → handlerSplits s.g = [s.g.sp] → counter .post s.g.sp = 0 →
      registersPending s.g = false → deviceRead 3 s s.g.baseHome s.g.ctx s.g.ctxbase.toNat (frameSize s.g) = some f →
      let pc : DWord := BitVec.ofNat 64 (frameN f 0 8)
      let inside := pc = s.g.trappc ∧ s.g.trappc ≠ s.g.traphdr
      ∃ t, exec .eret s = .next t ∧ t.g.sup = false ∧ t.g.handler = .none ∧ t.g.seamSv = [] ∧ t.mem = s.mem ∧ t.packets = s.packets
        ∧ t.g.trapcause = s.g.trapcause
        ∧ (Rules.seamsOpen s.g → t.g.seams = s.g.seamSv
        ∧ t.g.sp.pc = (if inside then s.g.traphdr else pc) ∧ t.g.sp.clause.inside = decide inside ∧ t.g.sp.safe = 0
        ∧ (∀ r l, r < s.g.w → l < 32 → t.g.lane r l
            = if s.g.sp.lanes.getLsbD l = true then BitVec.ofNat 32 (frameN f (64 + 4 * (32 * r + l)) 4) else s.g.lane r l)
        ∧ (∀ k, 0 < k → k < 64 → Cells.get 0 t.g.sp.s k = BitVec.ofNat 64 (frameN f (64 + 128 * s.g.w + 8 * (k - 1)) 8))
        ∧ (∀ l, l < 32 → t.g.em.getLsbD l
            = if s.g.sp.lanes.getLsbD l = true then (frameN f 8 4).testBit l else s.g.em.getLsbD l)
        ∧ t.g.sp.fpstat.toNat = frameN f 12 4 % 128
        ∧ t.g.sp.region.isSome = (frameN f 0x28 8).testBit 63
        ∧ ∀ x ∈ t.g.sibs, x.status = .suspended → x.trap.isSome = true))

/-- A checkpoint from its opening to its commit: CKBEGIN numbers it one above RPSEQ (a reopened one keeps its number), takes its
fields from the log, posts an OPEN record into the slot of its number and waits; CKCOMMIT of the open checkpoint, its earlier
accesses performed, waits for the CRC, and with the CRC of its head and region posts a VALID record into the same slot; when
their records are durable both go on, close the region, and CKCOMMIT makes the checkpoint the recovery point; a record that was
lost never is. CKCOMMIT forms no CRC while a write of its group to MANTLE pages is not durable. CKCOMMIT without an open
checkpoint only goes on. RPGET, its own accesses performed, begins to read its log and waits; at the end its scalar takes the
SEQ that recovery chooses, and the split goes on; its region closes when it protects that scalar. IREGION opens a region at the
header behind its clause once MATRIX is 0, and its restart count is 0; IREND closes the region once MATRIX is 0; both wait for
MATRIX. SAFEPT only goes on, past a safe point. -/
def Obligations.CheckpointInstructions : Prop :=
  (∀ (s : State) (ls : BitVec 6) (a : SReg) (pa pte : Nat), Rules.liveSetKnown s ls → converged s = true →
      counter .matrix s.g.sp = 0 →
      (∀ ws, s.g.sp.crc = 0 → Rules.logAt s .write (readS s a) pa pte →
        let c := openedCheckpoint (readS s a) pa s
        spans .write s c.base.toNat c.len.toNat = .ok ws →
        c.n = (match s.g.ck with
          | some x => x.n
          | none => s.g.rpseq + 1)
          ∧ c.base.toNat = Bytes.readN s.mem (pa + 16 * (c.n.toNat % 2)) 8 ∧ c.len.toNat = Bytes.readN s.mem (pa + 16 * (c.n.toNat % 2) + 8) 8
          ∧ c.rjkt.toNat = Bytes.readN s.mem (pa + 0x20) 8 ∧ c.rpc.toNat = Bytes.readN s.mem (pa + 0x28) 8
          ∧ ∃ t p, exec (.ckbegin ls a) s = .next t ∧ t.packets = s.packets ++ [p]
            ∧ p.body = .store (bytesAt (pa + 0x40 + 0x40 * (c.n.toNat % 2)) (Rules.record c 1 0))
            ∧ t.g.ck = some c ∧ t.g.teamstat = s.g.teamstat ||| 4 ∧ t.g.sp.crc = s.fresh + 2 ∧ t.g.sp.pc = s.g.sp.pc
            ∧ t.mem = s.mem ∧ Rules.SameRegisters s t)
        ∧ (2 ≤ s.g.sp.crc → stillPending s (s.g.sp.crc - 2) = true ∨ s.g.sp.crc - 2 ∈ s.g.lost →
            exec (.ckbegin ls a) s = .next s ∧ exec (.ckcommit ls a) s = .next s)
        ∧ (2 ≤ s.g.sp.crc → stillPending s (s.g.sp.crc - 2) = false → s.g.sp.crc - 2 ∉ s.g.lost →
            (∃ t, exec (.ckbegin ls a) s = .next t ∧ Rules.WentOn s t ∧ t.g.sp.crc = 0 ∧ t.g.sp.region = none ∧ t.g.ck = s.g.ck
              ∧ t.g.rpseq = s.g.rpseq ∧ t.mem = s.mem)
            ∧ ∀ c, s.g.ck = some c → ∃ t, exec (.ckcommit ls a) s = .next t ∧ Rules.WentOn s t ∧ t.g.sp.crc = 0
              ∧ t.g.sp.region = none ∧ t.g.ck = none ∧ t.g.rpseq = c.n ∧ t.g.rppc = c.rpc ∧ t.g.rpjkt = c.rjkt
              ∧ t.g.teamstat = s.g.teamstat &&& ~~~4 ∧ t.mem = s.mem)
        ∧ (s.g.sp.crc = 0 → s.g.ck = none → ∃ t, exec (.ckcommit ls a) s = .next t ∧ Rules.WentOn s t ∧ t.g.sp.region = none
            ∧ t.g.rpseq = s.g.rpseq ∧ t.mem = s.mem)
        ∧ (∀ c ws, s.g.sp.crc = 0 → s.g.ck = some c → readS s a = c.log → Rules.logAt s .write c.log pa pte →
            spans .write s c.base.toNat c.len.toNat = .ok ws →
            (releaseTokens .mantle s = [] → Rules.groupWritesDurable s →
              ∃ t, exec (.ckcommit ls a) s = .next t ∧ t.g.sp.crc = 1 ∧ t.g.ck = some c ∧ t.g.sp.pc = s.g.sp.pc ∧ t.mem = s.mem
                ∧ t.packets = s.packets)
            ∧ (releaseTokens .mantle s ≠ [] ∨ ¬Rules.groupWritesDurable s → exec (.ckcommit ls a) s = .next s))
        ∧ ∀ c ws, s.g.life ≠ .vacant → s.g.sp.crc = 1 → placeInstr s.g.sp = .ok (.ckcommit ls a) → s.g.ck = some c →
            Rules.logAt s .write c.log pa pte → spans .write s c.base.toNat c.len.toNat = .ok ws → Rules.spansSound s ws →
            s.degraded = [] →
            ∃ t p, exec (.checkpointCrcComplete s.g.gid) s = .next t ∧ t.packets = s.packets ++ [p]
              ∧ p.body = .store (bytesAt (pa + 0x40 + 0x40 * (c.n.toNat % 2))
                  (Rules.record c 2 (crc64 (Rules.recordFields c 2 ++ spanBytes s ws))))
              ∧ t.g.ck = some c ∧ t.g.sp.crc = s.fresh + 2 ∧ t.g.sp.pc = s.g.sp.pc ∧ t.mem = s.mem ∧ Rules.SameRegisters s t)
    ∧ (∀ (s : State) (d a : SReg) (pa pte : Nat), Rules.logAt s .read (readS s a) pa pte →
      (s.g.sp.crc = 0 → ownAccesses s = [] → ownPackets s = [] →
          ∃ t, exec (.rpget d a) s = .next t ∧ t.g.sp.crc = 1 ∧ t.g.sp.pc = s.g.sp.pc ∧ t.g.sp.s = s.g.sp.s ∧ t.mem = s.mem
            ∧ Rules.SameRegisters s t)
        ∧ ∀ (xs : List Span), s.g.life ≠ .vacant → s.g.sp.crc = 1 → placeInstr s.g.sp = .ok (.rpget d a) →
            spans .read s (readS s a).toNat 192 = .ok xs →
            (∀ k ys, k < 2 → spans .read s (leNat (((spanBytes s xs).drop (0x48 + 0x40 * k)).take 8))
                (leNat (((spanBytes s xs).drop (0x50 + 0x40 * k)).take 8)) = .ok ys → Rules.spansSound s ys) →
            ∃ n t, Rules.Chosen s (spanBytes s xs) n ∧ exec (.checkpointCrcComplete s.g.gid) s = .next t ∧ t.mem = s.mem ∧ Rules.SameRegisters s t
              ∧ t.g.sp.pc = (complete s).g.sp.pc ∧ t.g.sp.crc = 0
              ∧ (∀ k, readS t k = if k = 0 then 0 else if k = d then BitVec.ofNat 64 n else readS s k)
              ∧ (s.g.sp.region = none → t.g.sp.region = none)
              ∧ ∀ r l, s.g.sp.region = some r → liveSetAt s r.pc.toNat r.ls = .ok l →
                  t.g.sp.region = if d ≠ 0 ∧ l.s.testBit d.toNat = true then none else some r)
    ∧ (∀ (s : State) (ls : BitVec 6), Rules.liveSetKnown s ls →
      ((∃ k, liveSetAt s (nextHeader s.g.sp).toNat ls.toNat = .ok k) → counter .matrix s.g.sp = 0 →
          ∃ t, exec (.iregion ls) s = .next t ∧ t.g.sp.region = some { ls := ls.toNat, pc := nextHeader s.g.sp } ∧ t.g.rcnt = 0
            ∧ t.g.sp.safe = 0 ∧ Rules.WentOn s t ∧ Rules.SameRegisters s t ∧ t.mem = s.mem)
        ∧ ((∃ k, liveSetAt s (nextHeader s.g.sp).toNat ls.toNat = .ok k) → counter .matrix s.g.sp ≠ 0 →
            exec (.iregion ls) s = .next s)
        ∧ (counter .matrix s.g.sp = 0 → ∃ t, exec .irend s = .next t ∧ t.g.sp.region = none ∧ Rules.OutsideGroup s t
            ∧ Rules.WentOn s t ∧ { t.g with sp := s.g.sp } = s.g)
        ∧ (counter .matrix s.g.sp ≠ 0 → exec .irend s = .next s)
        ∧ exec (.safept ls) s = .next (completeSafe s.spend))

/-- TLBINV in supervisor state, once its earlier accesses are performed, and ICINV, once its stores to the lines are accepted,
register their invalidation and wait for it: the range of whole pages or lines from the one that holds the address on, or
everything when n is 0. An address out of range is the address fault. When the invalidation has reached every package, no home
holds a translation of its range, no cache an old word of it, and the split that waits goes on behind its instruction. HALT of
the one split of a handler stops the group's handler and the splits that it suspends where they stand, tells the driver by event
0x02 with cause 0x13, and asks for the group's save; of a split beside others of the handler it traps: that it is trap 0x0D is
the model's choice (log 58). PREEMPT requests the stop of every group that its GRPID, TEAMID or card slot names on its package,
of a team or card the groups elsewhere too; a diagnostic or ended group is not reached (R135). -/
def Obligations.InvalidationsHaltAndPreempt : Prop :=
  (∀ (s : State) (a : SReg) (n : BitVec 13) (m : BitVec 14),
      let x := (readS s a).toNat
      let lo := if m = 0 then 0 else x / 64 * 64
      let hi := if m = 0 then 2 ^ 56 else (x / 64 + m.toNat) * 64
      let registered (t : State) (icache : Bool) (lo hi home : Nat) : Prop :=
        t.invals = s.invals ++ [{ id := s.fresh, icache := icache, ctx := some s.g.ctx, lo := lo, hi := hi, home := home }]
          ∧ t.g.sp.inval = some s.fresh ∧ t.g.sp.pc = s.g.sp.pc ∧ t.g.sp.clause = s.g.sp.clause ∧ Rules.SameRegisters s t
          ∧ t.mem = s.mem ∧ t.homes = s.homes ∧ t.stale = s.stale
      (s.g.sup = true → x < 2 ^ 56 → fenceHolds .fab .sc s = true →
          ∃ t, exec (.tlbinv a n) s = .next t
            ∧ registered t false (if n = 0 then 0 else x / 2 ^ 16 * 2 ^ 16) (if n = 0 then 2 ^ 56 else (x / 2 ^ 16 + n.toNat) * 2 ^ 16)
              s.g.sp.home)
        ∧ (s.g.sup = true → x < 2 ^ 56 → fenceHolds .fab .sc s = false → exec (.tlbinv a n) s = .next s)
        ∧ (x < 2 ^ 56 → storesTo s lo hi = false → ∃ t, exec (.icinv a m) s = .next t ∧ registered t true lo hi s.g.sp.home)
        ∧ (x < 2 ^ 56 → storesTo s lo hi = true → exec (.icinv a m) s = .next s)
        ∧ (s.g.sup = true → 2 ^ 56 ≤ x → exec (.tlbinv a n) s = .next (Rules.trapsAt 0x05 3 0 (readS s a) s))
        ∧ (2 ^ 56 ≤ x → exec (.icinv a m) s = .next (Rules.trapsAt 0x05 3 0 (readS s a) s))
        ∧ ∀ v ∈ s.invals, (∀ u ∈ s.invals, u.id = v.id → u = v) → v.cmd = none → allReached s v.home = true →
            ∃ t, exec (.invalidationComplete v.id) s = .next t ∧ t.invals = s.invals.filter (fun u => u.id != v.id) ∧ t.mem = s.mem
              ∧ t.packets = s.packets
              ∧ (v.icache = false → t.stale = s.stale ∧ ∀ h e, e ∈ (t.home h).tlb ↔ e ∈ (s.home h).tlb
                  ∧ ¬((v.ctx = none ∨ v.ctx = some e.1) ∧ e.2.1 < v.hi ∧ v.lo < e.2.1 + e.2.2.2))
              ∧ (v.icache = true → t.homes = s.homes ∧ (v.hi - v.lo = 2 ^ 56 → t.stale = [])
                ∧ (v.hi - v.lo ≠ 2 ^ 56 → v.ctx = none → v.lo % 64 = 0 → v.hi % 64 = 0 → ∀ k, Cells.get [] t.stale k
                    = if v.lo ≤ 8 * k ∧ 8 * k < v.hi then [] else Cells.get [] s.stale k)
                ∧ ∀ c b p e z, v.ctx = some c → v.lo % 64 = 0 → v.hi % 64 = 0 → v.lo ≤ b → b < v.hi → walk s c b = .ok p e z →
                    Cells.get [] t.stale (p / 8) = [])
              ∧ (∀ y ∈ s.g.splits, y.inval ≠ some v.id → y ∈ t.g.splits)
              ∧ ∀ y ∈ s.g.splits, y.inval = some v.id → ∃ z ∈ t.g.splits, z.idx = y.idx ∧ z.inval = none ∧ z.pc = y.advance.pc
                  ∧ z.clause = y.advance.clause ∧ z.s = y.s)
    ∧ (∀ (s : State) (k : BitVec 2) (a : SReg), s.g.sup = true →
      (handlerSplits s.g = [s.g.sp] →
          let q := homePkg s.g.baseHome
          let tail := (s.pkg q).page.readN 0x110 8
          ∃ t, exec .halt s = .next t ∧ t.g.preempt = true ∧ t.g.halted = true ∧ t.g.sp.stopped = true
            ∧ (∀ x ∈ s.g.sibs, x.status = .suspended → ∃ y ∈ t.g.sibs, y = { x with stopped := true })
            ∧ t.g.sp.pc = (complete s).g.sp.pc ∧ Rules.SameRegisters s t ∧ t.mem = s.mem ∧ t.packets = s.packets
            ∧ ((tail + 2 ^ 64 - (s.pkg q).page.readN 0x118 8) % 2 ^ 64 ≠ 1024 →
                (t.pkg q).page.readN 0x110 8 = (tail + 1) % 2 ^ 64
                  ∧ (t.pkg q).page.readN (0x8000 + tail % 1024 * 32) 8
                      = 0x02 + s.g.baseHome % 256 * 2 ^ 8 + 0x13 * 2 ^ 16 + s.g.gid.toNat * 2 ^ 32
                  ∧ (t.pkg q).page.readN (0x8000 + tail % 1024 * 32 + 8) 8 = (complete s).g.sp.pc.toNat))
        ∧ (1 < (handlerSplits s.g).length → exec .halt s = .next (Rules.trapsAt 0x0D 3 0 0 s))
        ∧ ∀ pa pte, s.g.sp.clause.stage = .issued → (k.toNat < 2 ∨ (k = 2 ∧ (readS s a).toNat < 2 ^ 56
              ∧ resolve s s.g.sp.home s.g.ctx true false .read (readS s a).toNat = .ok (pa, pte))) →
            let chosen := Rules.requested s (homePkg s.g.sp.home) k.toNat pa (readS s a)
            (∃ t, exec (.preempt k a) s = .next t ∧ Rules.SameRegisters s t ∧ t.mem = s.mem ∧ t.g.sp.pc = (complete s).g.sp.pc
                  ∧ t.others.length = s.others.length
                  ∧ (∀ g ∈ s.others, g.life = .live → g.diag = false → chosen g → ∃ u ∈ t.others, u.gid = g.gid ∧ u.preempt = true ∧ u.v = g.v)
                  ∧ (∀ g ∈ s.others, g.life ≠ .live ∨ g.diag = true → g ∈ t.others)
                  ∧ ∀ g ∈ s.others, g.team = none → ¬chosen g → g ∈ t.others)
              ∧ ((∀ y ∈ s.groups, ¬chosen y) → exec (.preempt k a) s = .next (complete s.spend)))

/-! ### The steps that the machine takes by itself -/

namespace Sys2Proof.Rules
open Sys2Proof Sys2Proof.Machine

/-- The only change is in the agenda, on which `x` comes first. -/
def OnlyNext (x : Turn) (s t : State) : Prop := { t with agenda := s.agenda } = s ∧ t.agenda = x :: s.agenda

/-- The clause of the focused split may issue on partition p, where no other is unfinished, and the slot goes to it (R13, R203, R204). -/
def mayIssue (s : State) (p : Nat) : Prop :=
  mayGo s.g = true ∧ s.g.sp.clause.stage = .fetched ∧ onPath s.g = none ∧ mustSuspend s.g = false ∧ s.g.sp.err = none
    ∧ s.g.copyFault = none ∧ clauseReady s.g.sp = true ∧ s.g.sp.part = some p ∧ partFree s p = true
    ∧ slotChoice s p = some (s.g.gid, s.g.sp.idx)

/-- What the issue of a clause leaves: the clause is issued with the words fetched, the demotion is over, and the partition
has served this group at its level, and this split of it. -/
def Issued (s t : State) (p : Nat) : Prop :=
  t.g.sp.clause = { s.g.sp.clause with stage := .issued, anch := anchored s s.g } ∧ t.g.sp.pc = s.g.sp.pc
    ∧ t.g.sp.demoted = false ∧ Cells.get none (t.part p).served (levelOf s.g s.g.sp) = some s.g.gid
    ∧ Cells.get none (t.part p).splits s.g.gid.toNat = some s.g.sp.idx
    ∧ SameRegisters s t ∧ t.mem = s.mem ∧ t.packets = s.packets

/-- The packets of the queue from a home to a home, of a class, in order. -/
def queue (src dst cls : Nat) (s : State) : List Packet := s.packets.filter fun q => inQueue src dst q && q.cls == cls

end Sys2Proof.Rules

/-- CLAUSE_FETCH takes the words of the clause at the PC; CLAUSE_ISSUE issues it when the partition's slot goes to it;
ISSUE_DUE_LEVEL issues the clause of a level that is due, whose count starts again. COUNTER_ROOM and WAIT_COUNTER_SATISFIED let
the waiting instruction go next. SAFE_POINT_OVERRUN_TRAP lets the instruction that would be the 4097th come next, which takes
trap 0x11 unless its encoding traps. -/
def Obligations.FetchAndIssue : Prop :=
  ∀ (s : State) (p : Nat),
    (∀ h ws, mayGo s.g = true → s.g.sp.clause.stage = .idle → s.g.sp.clause.inside = false → s.g.sp.spin < 33 →
        mustSuspend s.g = false → fetchClause s s.g.sp.pc = .ok (h, ws) →
        ∃ t, exec (.clauseFetch s.g.gid s.g.sp.idx) s = .next t ∧ t.g.sp.clause = { stage := .fetched, hdr := h, words := ws }
          ∧ t.g.sp.pc = s.g.sp.pc ∧ Rules.SameRegisters s t ∧ t.mem = s.mem ∧ ws.length = h.n)
      ∧ (Rules.mayIssue s p → ∃ t, exec (.clauseIssue s.g.gid s.g.sp.idx) s = .next t ∧ Rules.Issued s t p)
      ∧ (∀ l, Rules.mayIssue s p → dueLevel s p = some l → (∀ g ∈ s.others, g.gid ≠ s.g.gid) →
          (∀ x ∈ s.g.sibs, x.idx ≠ s.g.sp.idx) →
          ∃ t, exec (.issueDueLevel p l) s = .next t ∧ Rules.Issued s t p ∧ levelOf s.g s.g.sp = l
            ∧ Cells.get 0 (t.part p).count l = 0)
      ∧ (s.g.life = .live → s.g.sp.clause.stage = .issued → s.g.sp.status = .runnable →
          ∃ t u, exec (.counterRoom s.g.gid s.g.sp.idx) s = .next t ∧ Rules.OnlyNext (.run s.g.gid s.g.sp.idx) s t
            ∧ exec (.waitCounterSatisfied s.g.gid s.g.sp.idx) s = .next u ∧ Rules.OnlyNext (.run s.g.gid s.g.sp.idx) s u)
      ∧ ∀ i, mayGo s.g = true → s.g.sp.clause.stage = .issued → s.g.diag = false → 4096 ≤ s.g.sp.safe →
          placeInstr s.g.sp = .ok i → isSafePoint i = false →
          (∃ t, exec (.safePointOverrunTrap s.g.gid s.g.sp.idx) s = .next t ∧ Rules.OnlyNext (.run s.g.gid s.g.sp.idx) s t)
            ∧ (onPath s.g = none → encodingTrap (withLength s) (exec i (withLength s)) = false →
                runTurn s.g.gid s.g.sp.idx false s = .next (Rules.trapsAt 0x11 3 0 0 (withLength s)))

/-- The engines of a home: the home applies a reduction to its word, in an open run of the combiner or in a run that it opens;
when the run closes, the waits on its word are evaluated; an arrival's acknowledgement, its copies accepted, brings the group
its note and lowers SYNC; the first class-3 packet of a queue arrives at the parent record; a mirror takes its next copy; the
oldest acknowledgement of a port arrives; a walk's result enters the home's unit, the absence of a leaf as one with V = 0. -/
def Obligations.HomeEnginesAct : Prop :=
  ∀ (s : State) (h : Nat),
    (∀ src p q op pa x, Rules.queue src h 0 s = p :: q → p.body = .reduce op [(pa, x)] → op < 8 → p.mantle = none → homeOfPa pa = h →
        paTier pa < 2 → pteMirror p.pte = false → takesTraffic s h = true → crossed s (homePkg src) (homePkg h) 0 p.cross = true →
        cutoverMove s h pa = none → copyBefore s p = false → behindMove s p = false →
        let n := if op = 7 then 8 else 4
        let word (t : State) (v : Nat) : Prop := Bytes.readN t.mem pa n = v % 2 ^ (8 * n)
          ∧ ∀ a, ¬(pa ≤ a ∧ a < pa + n) → Bytes.read t.mem a = Bytes.read s.mem a
        ∃ t, exec (.packetAccept src h) s = .next t ∧ t.packets.length + 1 = s.packets.length
          ∧ ((∀ r ∈ (s.home h).runs, r.pa = pa → r.op ≠ op) → word t (Rules.reduceValue op (Bytes.readN s.mem pa n) x))
          ∧ ((s.home h).runs = [] → (t.home h).runs = [{ pa := pa, op := op, size := n, base := Bytes.readN s.mem pa n, value := x, count := 1 }])
          ∧ ∀ r, (s.home h).runs = [r] → r.pa = pa → r.op = op → r.size = n →
              let v := Rules.reduceValue op r.value x
              word t (Rules.reduceValue op r.base v)
                ∧ (t.home h).runs = if r.count + 1 < 16 then [{ r with value := v, count := r.count + 1 }] else [])
      ∧ (∀ r, (s.home h).runs = [r] →
          ∃ t, exec (.hotLineRunClose h r.pa) s = .next t ∧ (t.home h).runs = [] ∧ t.mem = s.mem ∧ t.packets = s.packets
            ∧ ∀ w, s.g.sp.wait = some w → w.pa = r.pa → w.size = r.size → waitHolds s w = true → t.g.sp.woken = true)
      ∧ (∀ id r gen rest, s.g.life = .live → s.g.acks = (id, r, gen) :: rest →
          (packetsLeft s id = true → exec (.arrivalAcknowledge s.g.gid) s = .next s) ∧
          (packetsLeft s id = false → ∃ t, exec (.arrivalAcknowledge s.g.gid) s = .next t ∧ t.g.acks = rest ∧ t.mem = s.mem
            ∧ (s.g.team = some r → t.g.note = some gen) ∧ (s.g.team ≠ some r → t.g.note = s.g.note)
            ∧ (s.g.sp.ops = [{ id := id, cls := .sync }] → t.g.sp.ops = [])))
      ∧ (∀ src p q pa child cpte, Rules.queue src h 3 s = p :: q → p.body = .parent pa child cpte → p.mantle = none →
          takesTraffic s h = true → crossed s (homePkg src) (homePkg h) 3 p.cross = true → cutoverMove s h pa = none → behindMove s p = false →
          paTier pa < 2 → recReservedOk s pa = true →
          recArrived s pa + 1 < recExpected s pa →
          ∃ t, exec (.hierarchicalArrival src h) s = .next t ∧ (∀ x ∈ q, x ∈ t.packets)
            ∧ t.packets.length + 1 = s.packets.length ∧ recArrived t pa = recArrived s pa + 1
            ∧ recGen t pa = recGen s pa ∧ recExpected t pa = recExpected s pa
            ∧ ∀ a, ¬(pa ≤ a ∧ a < pa + 8) → Bytes.read t.mem a = Bytes.read s.mem a)
      ∧ (∀ p bs rest, s.mirrors = (h, p) :: rest → p.body = .store bs → (bs.map (·.1)).Nodup → takesTraffic s h = true →
          (∀ b ∈ bs, paTier b.1 < 2) → packetBefore s p = false → crossed s (homePkg p.src) (homePkg h) 0 p.cross = true →
          ∃ t, exec (.mirrorCopyAccept h) s = .next t ∧ t.mirrors = rest ∧ (∀ b ∈ bs, Bytes.read t.mem b.1 = b.2)
            ∧ ∀ a, (∀ b ∈ bs, b.1 ≠ a) → Bytes.read t.mem a = Bytes.read s.mem a)
      ∧ (∀ r rest, s.roce = r :: rest → r.home = h →
          ∃ t, exec (.roceAcknowledgement h) s = .next t ∧ t.roce = rest ∧ t.mem = s.mem ∧ t.g.v = s.g.v)
      ∧ ∀ ctx va pte n, (match walk s ctx va with
            | .ok _ e z => pte = e ∧ n = z
            | .bad => pte = 0 ∧ n = 2 ^ 16
            | .grow => pte = 0x102 ∧ n = 2 ^ 16) →
          ∃ t, exec (.translationWalkDone h ctx va) s = .next t ∧ { t with homes := s.homes } = s
            ∧ (ctx, va / n * n, BitVec.ofNat 64 pte, n) ∈ (t.home h).tlb ∧ ∀ k, k ≠ h → t.home k = s.home k

/-- ORDERING_HOLD_END sends the held packets of a split that wait for nothing more, in their order, and frees its accesses; a
release fence ends; a release at .mantle scope waits, once, for the copies of writes to MANTLE pages. BRP_RESOLVE gives the BRP
its effect and ends the predicted path: none taken falls through, all taken branches, and otherwise the split divides. A split
bound for another home is packed once its counters are 0 and its accesses over: its RESGEN rises, its place is given up. Its
jacket leaves when its new home has room for it; it arrives behind those that left before it, keeping what it carried, and asks
for admission. A split whose iterations repeat stops, demoted; 4096 clk later one that stopped in place is woken. -/
def Obligations.SplitsMoveSpinAndResolve : Prop :=
  (∀ (s : State), s.g.life = .live →
      (let due (p : Packet) : Bool := heldFor s s.g.gid s.g.sp.idx p && p.after.isEmpty
       ∃ t, exec (.orderingHoldEnd s.g.gid s.g.sp.idx) s = .next t ∧ t.mem = s.mem ∧ Rules.SameRegisters s t
          ∧ ((∀ p ∈ s.packets, due p = true → p.body ≠ .fence ∧ p.mantle ≠ some false) →
              ∃ qs, t.packets = (s.packets.filter fun p => !due p) ++ qs
                ∧ (qs.map fun p => { p with seq := 0 }) = (s.packets.filter due).map fun p => { p with held := false, seq := 0 })
          ∧ (∀ p ∈ s.packets, due p = true → p.body = .fence → p.mantle ≠ some false → p ∉ t.packets)
          ∧ (∀ p ∈ s.packets, due p = true → p.mantle = some false → (∀ q ∈ s.packets, due q = true → q.body ≠ .fence) →
              (mantleCopies s = [] → ∃ n, { p with held := false, mantle := some true, seq := n } ∈ t.packets)
                ∧ (mantleCopies s ≠ [] → { p with after := mantleCopies s, mantle := some true } ∈ t.packets))
          ∧ ∀ a ∈ t.g.accs, a.owners.contains s.g.sp.idx = true → a.after = [] → a.held = false)
        ∧ ∀ path hint p neg off, s.g.path = some path → path.sp = s.g.sp.idx → placeInstr s.g.sp = .ok (.brp hint p neg off) →
            let taken := (if neg then ~~~readP s p else readP s p) &&& s.active
            let dt := if path.taken then path.count else 0
            let df := if path.taken then 0 else path.count
            (taken = 0 → ∃ t, exec (.brpResolve s.g.gid) s = .next t ∧ t.g.path = none ∧ t.g.sp.pc = (complete s).g.sp.pc
                ∧ t.g.sp.lanes = s.g.sp.lanes ∧ t.g.sp.defer = df ∧ t.mem = s.mem)
              ∧ (taken ≠ 0 → s.g.sp.lanes &&& ~~~taken = 0 → Rules.inRange (Rules.target s off) →
                  ∃ t, exec (.brpResolve s.g.gid) s = .next t ∧ t.g.path = none ∧ t.g.sp.pc = Rules.target s off
                    ∧ t.g.sp.lanes = s.g.sp.lanes ∧ t.g.sp.defer = dt ∧ t.mem = s.mem)
              ∧ ∀ n, taken ≠ 0 → s.g.sp.lanes &&& ~~~taken ≠ 0 → Rules.inRange (Rules.target s off) → freeEntry s.g = some n →
                  ∃ t y, exec (.brpResolve s.g.gid) s = .next t ∧ t.g.path = none ∧ t.g.sp.pc = (complete s).g.sp.pc
                    ∧ t.g.sp.idx = s.g.sp.idx ∧ t.g.sp.lanes = s.g.sp.lanes &&& ~~~taken ∧ t.g.sp.defer = df ∧ t.mem = s.mem
                    ∧ t.g.sibs = s.g.sibs ++ [y] ∧ y.idx = n ∧ y.lanes = taken ∧ y.pc = Rules.target s off ∧ y.defer = dt
                    ∧ y.s = s.g.sp.s ∧ y.status = .runnable)
    ∧ (∀ (s : State) (h src : Nat), s.g.life = .live →
      (s.g.sp.move = some h → s.g.sp.sent = none → s.g.sp.joins = none →
          (s.g.sp.status = .runnable ∨ (s.g.sp.status = .waiting ∧ s.g.sp.watch.isSome = true)) → s.g.sp.ops = [] → ownAccesses s = [] →
          s.g.sp.stopped = false →
          ∃ t, exec (.jacketDepart s.g.gid s.g.sp.idx) s = .next t ∧ t.g.sp.home = h ∧ t.g.sp.resgen = s.g.sp.resgen + 1
            ∧ t.g.sp.part = none ∧ t.g.sp.status = .transit ∧ t.g.sp.pc = s.g.sp.pc ∧ t.g.sp.lanes = s.g.sp.lanes
            ∧ t.g.sp.s = s.g.sp.s ∧ Rules.SameRegisters s t ∧ t.mem = s.mem ∧ t.g.sp.sent.map (·.1) = some s.g.sp.home)
        ∧ (s.g.sp.sent = some (src, 0) →
            let room := parkRoom s s.g.sp.home (parkedSize s.g s.g.sp)
            (room = false → exec (.jacketDepart s.g.gid s.g.sp.idx) s = .next s)
              ∧ (room = true → homePkg src = homePkg s.g.sp.home → exec (.jacketDepart s.g.gid s.g.sp.idx) s
                  = .next { s with fresh := s.fresh + 1, g := { s.g with sp := { s.g.sp with sent := some (src, s.fresh) } } }))
        ∧ (s.g.sp.move = some h → s.g.sp.home = h → s.g.sp.joins = none → s.g.sp.status = .transit → mayArrive s = true →
            s.g.sp.watch = none → wantsStop s.g = false → s.g.sp.stopped = false → s.g.sp.part = none →
            ∃ t, exec (.jacketArrive s.g.gid s.g.sp.idx) s = .next t ∧ t.g.sp.move = none ∧ t.g.sp.sent = none ∧ t.g.sp.status = .transit
              ∧ (t.home h).adm = (s.home h).adm ++ [(levelOf s.g s.g.sp, .split s.g.gid s.g.sp.idx)] ∧ t.mem = s.mem
              ∧ (∀ r l, r < s.g.w → l < 32 → (s.g.sp.lanes.getLsbD l = false ∨ inMask s.g.sp.keep.v r = true) →
                  t.g.lane r l = s.g.lane r l)
              ∧ ∀ k, k < 64 → inMask s.g.sp.keep.s k = true → Cells.get 0 t.g.sp.s k = Cells.get 0 s.g.sp.s k)
        ∧ (mayGo s.g = true → s.g.sp.clause.stage = .idle → 33 ≤ s.g.sp.spin → mustSuspend s.g = false →
            ∃ t, exec (.spinDetectorFire s.g.gid s.g.sp.idx) s = .next t ∧ t.g.sp.status = .waiting ∧ t.g.sp.demoted = true
              ∧ t.g.sp.safe = 0 ∧ t.g.sp.watch = some s.g.sp.lastLoad ∧ t.g.sp.pc = s.g.sp.pc ∧ Rules.SameRegisters s t
              ∧ t.mem = s.mem ∧ (anchored s s.g = true ∨ s.g.diag = true → t.g.sp.part = s.g.sp.part ∧ t.g.sp.move = s.g.sp.move))
        ∧ ∀ p w, s.g.sp.status = .waiting → s.g.sp.watch = some w → s.g.sp.part = some p → s.g.sp.move = none →
            4096 ≤ ((clockOf s p).toNat + 2 ^ 64 - s.g.sp.timeout) % 2 ^ 64 →
            exec (.spinWaitTimeout s.g.gid s.g.sp.idx) s = .next (s.setSp fun x => { x with woken := true }))

namespace Sys2Proof.Rules
open Sys2Proof Sys2Proof.Machine

/-- The handler of the focused split has started for a trap record (R315, R316). -/
def Handles (s t : State) (x : TrapRec) : Prop :=
  t.g.sup = true ∧ t.g.handler = .running s.g.sp.idx ∧ t.g.trapcause = causeWord x false ∧ t.g.trappc = x.pc
    ∧ t.g.trapaddr = x.addr ∧ t.g.trapmask = x.mask ∧ t.g.traphdr = x.hdr ∧ t.g.sp.pc = s.g.trapvec ∧ t.g.sp.trap = none
    ∧ t.g.sp.s = s.g.sp.s ∧ t.g.v = s.g.v ∧ t.g.p = s.g.p ∧ t.g.em = s.g.em ||| s.g.sp.lanes ∧ t.packets = s.packets

/-- Undealt records of a card at a home. -/
def undealt (c : Card) (h : Nat) : Nat := ((c.ranges.filter fun r => r.owner == h).map fun r => runsLength r.recs).sum

/-- The only card of its number. -/
def soleCard (s : State) (c : Card) : Prop := ∀ x ∈ s.cards, x.id = c.id → x = c

/-- Runs of numbers that rise. -/
def rising (rs : List (Nat × Nat)) : Prop := (∀ r ∈ rs, r.1 < r.2) ∧ rs.Pairwise fun a b => a.2 ≤ b.1

/-- n records of card c passed from one home to another. -/
def Passed (c d : Card) (src dst n : Nat) : Prop :=
  d.id = c.id ∧ undealt d dst = undealt c dst + n ∧ undealt d src + n = undealt c src ∧ d.left = c.left

end Sys2Proof.Rules

/-- A command of class 5 whose operands pass its checks is queued behind the group's others with its scalars as they stand; COPY
rises by one; no register, scratchpad byte, tile byte or byte of memory changes yet. A place word against its table is the
illegal-operand trap; in a diagnostic group a command is the anchor trap. COPY_START: the next command of a group, its event
past and its earlier accesses over, starts; CPSIG, first of its group, posts its decrement; a command with a record reads its 64
bytes. COPY_FAULT_REPORT gives the group the fault that a command reported. -/
def Obligations.CopyCommandsIssue : Prop :=
  (∀ (s : State) (i : Instr) (code : Nat) (evw runs : Bool) (places : List DWord) (a b c : DWord),
      Rules.copy s i = some (code, evw, places, runs, (a, b, c), true) →
      ((∃ p ∈ places, placeOk p = false) → exec i s = .next (Rules.trapsAt 0x03 3 0 0 s)) ∧
      ((∀ p ∈ places, placeOk p = true) → s.g.diag = true → exec i s = .next (Rules.trapsAt 0x0A 3 0 0 s)) ∧
      (s.g.diag = false → (∀ p ∈ places, Rules.placeFits s runs p) → counter .copy s.g.sp < 63 →
      ∃ t k, exec i s = .next t ∧ t.g.copies = s.g.copies ++ [k] ∧ k.id = s.fresh ∧ k.code = code ∧ k.a = a ∧ k.b = b ∧ k.c = c
        ∧ k.sp = s.g.sp.idx ∧ k.started = false ∧ k.fault = false ∧ (evw = false → k.evt = none)
        ∧ t.g.sp.ops = s.g.sp.ops ++ [{ id := s.fresh, cls := .copy }] ∧ t.g.tile = s.g.tile ∧ t.cores = s.cores
        ∧ Rules.SameRegisters s t ∧ t.mem = s.mem ∧ t.packets = s.packets ∧ Rules.WentOn s t))
    ∧ (∀ (s : State) (c : CopyCmd), s.g.life = .live → s.g.copies = [c] →
      (c.started = false → c.fault = false → c.evt = none → c.after = [] →
        (c.code = 0 ∨ c.code = 7 → ∃ t, exec (.copyStart s.g.gid) s = .next t ∧ t.g.copies = [{ c with started := true }]
            ∧ { t with g := s.g } = s ∧ { t.g with copies := s.g.copies } = s.g)
          ∧ (∀ pa pte, c.code = 5 → c.a.toNat % 8 = 0 → c.a.toNat < 2 ^ 56 →
              resolve s (coreHome c.core) s.g.ctx c.sup false .write c.a.toNat = .ok (pa, pte) →
              passes s (coreHome c.core) (homeOfPa pa) 2 = true → takesTraffic s (homeOfPa pa) = true →
              cutoverMove s (homeOfPa pa) pa = none →
              ∃ t p, exec (.copyStart s.g.gid) s = .next t ∧ t.packets = s.packets ++ [p] ∧ p.body = .decrement pa c.b.toNat
                ∧ p.dst = homeOfPa pa ∧ p.id = c.id ∧ t.g.copies = [{ c with started := true, wrote := true }] ∧ t.mem = s.mem ∧ Rules.SameRegisters s t)
          ∧ (∀ pa pte, c.code ∈ [1, 2, 3, 4, 6] → c.a.toNat % 64 = 0 → c.a.toNat < 2 ^ 56 →
              resolve s (coreHome c.core) s.g.ctx c.sup false .read c.a.toNat = .ok (pa, pte) →
              passes s (homeOfPa pa) (coreHome c.core) 2 = true → takesTraffic s (homeOfPa pa) = true →
              Rules.soundLine s { lane := 0, va := c.a.toNat, pa := pa, pte := pte } → pa % 64 = 0 → paTier pa < 3 →
              let words := (List.range 8).map fun k => s.readN (pa + 8 * k) 8
              startFault { c with iter := words } s = none →
              ∃ t, exec (.copyStart s.g.gid) s = .next t ∧ t.g.copies = [{ c with iter := words, started := true }]
                ∧ (∀ a, t.byte a = s.byte a) ∧ t.packets = s.packets ∧ Rules.SameRegisters s t))
        ∧ ∀ x, c.report = some x → s.g.copyFault = none →
            ∃ t, exec (.copyFaultReport s.g.gid) s = .next t ∧ t.g.copyFault = some x ∧ t.g.copies = [{ c with report := none }]
              ∧ { t with g := s.g } = s)

/-- TRAP_ENTRY takes a held trap once no handler runs; HANDLER_START starts the handler that waited for the other splits.
REGION_RESTART sends a drained split to its region's header, its registers as they are, with one more restart counted.
TEAM_ROLLBACK starts a drained member again at its recovery point, with the scalars, slots and handler that its card launched it
with. -/
def Obligations.HeldTrapsAndRecovery : Prop :=
  ∀ (s : State) (x : TrapRec), s.g.life = .live →
    (let u := s.setSp fun y => { y with trap := none, status := .runnable }
     s.g.sp.trap = some x → Rules.handlerReady u → Rules.frameWritable u →
        ∃ t, exec (.trapEntry s.g.gid s.g.sp.idx) s = .next t ∧ Rules.Handles s t x)
      ∧ (s.g.sp.trap = some x → s.g.handler = .pending s.g.sp.idx → (∀ y ∈ s.g.sibs, y.status = .runnable → y.stopped = true ∨ waitsInWaitc y = true) →
          registersPending s.g = false → s.g.trapvec ≠ 0 → ctxPrivLog s s.g.ctx ≠ 0 →
          (∀ bs, bs.length = frameSize s.g → (deviceWrite 3 s s.g.baseHome s.g.ctx s.g.ctxbase.toNat bs).isSome = true) →
          ∃ t, exec (.handlerStart s.g.gid) s = .next t ∧ Rules.Handles s t x)
      ∧ (∀ r, s.g.sp.restart = some x → s.g.sp.region = some r → s.g.sp.status = .runnable → s.g.sp.ops = [] →
          ownAccesses s = [] → ctxPrivLog s s.g.ctx ≠ 0 →
          (∀ bs, bs.length = 24 →
            (deviceWrite 2 s s.g.baseHome s.g.ctx (s.g.ctxbase.toNat + 1652 + 128 * s.g.w) bs).isSome = true) →
          ∃ t, exec (.regionRestart s.g.gid s.g.sp.idx) s = .next t ∧ t.g.sp.pc = r.pc ∧ t.g.sp.clause = {}
            ∧ t.g.sp.restart = none ∧ t.g.sp.region = some r ∧ t.g.rcnt = s.g.rcnt + 1 ∧ t.g.trapcause = causeWord x false
            ∧ t.g.trapmask = s.active ∧ t.g.sp.s = s.g.sp.s ∧ Rules.SameRegisters s t
            ∧ (t.g.teamstat.extractLsb' 16 8).toNat = min 255 ((s.g.teamstat.extractLsb' 16 8).toNat + 1))
      ∧ (s.g.rollback = true → groupDrained s.g = true →
          ∃ t, exec (.teamRollback s.g.gid) s = .next t ∧ t.g.v = [] ∧ t.g.p = [] ∧ t.g.bcur = [] ∧ t.g.em = 0xFFFFFFFF
            ∧ t.g.sp.pc = s.g.rppc ∧ t.g.sp.lanes = 0xFFFFFFFF ∧ t.g.sp.idx = 0 ∧ t.g.sibs = [] ∧ t.g.seams = []
            ∧ readS t 1 = s.g.rpjkt ∧ readS t 2 = s.g.rpseq ∧ readS t 3 = s.g.grpInRec.setWidth 64
            ∧ t.g.sup = false ∧ t.g.handler = .none ∧ t.g.rollback = false ∧ t.g.rpseq = s.g.rpseq ∧ t.g.ck = none
            ∧ t.mem = s.mem
            ∧ ∀ c, (s.cards ++ s.launches).find? (fun c => c.id == s.g.card) = some c →
                t.g.trapvec = c.trapvec ∧ (∀ i, i < 4 → c.sval.length = 4 → readS t (BitVec.ofNat 6 (4 + i)) = c.sval.getD i 0)
                  ∧ ∀ i, i < 8 → c.fs.length = 8 → Cells.get 0 t.g.fs i = c.fs.getD i 0)

/-- PREEMPT_SAVE saves a group whose splits have stopped and drained, when its team holds no lease; TEAM_SAVE all members of a
team and the contents of its lease: registers stay, no split keeps a place. Both wait while a parking area has no room for what
is saved. GROUP_RETIRE of a group whose last split ended and whose work is over leaves its team and releases all it holds. -/
def Obligations.GroupsAreSavedAndRetire : Prop :=
  ∀ (s : State), s.g.life = .live →
    (readyToSave s.g = true → leaseOf s s.g = none → saveFits { s with g := saveGroup s s.g } [s.g.gid] = false →
        exec (.preemptSave s.g.gid) s = .next s)
      ∧ (readyToSave s.g = true → leaseOf s s.g = none → saveFits { s with g := saveGroup s s.g } [s.g.gid] = true →
        ∃ t, exec (.preemptSave s.g.gid) s = .next t ∧ t.g.life = .saved ∧ t.g.preempt = false ∧ Rules.SameRegisters s t
          ∧ t.g.sp.pc = s.g.sp.pc ∧ t.g.sp.s = s.g.sp.s ∧ t.g.sp.resgen = s.g.sp.resgen + 1
          ∧ (∀ x ∈ t.g.splits, x.part = none) ∧ t.mem = s.mem)
      ∧ (∀ l, leaseOf s s.g = some l → (∀ g ∈ s.groups, g.life = .live → g.team = s.g.team → readyToSave g = true) →
          let member (g : Group) : Bool := g.life == .live && g.team == some l.team
          let after := (saveLease l.team s).mapGroups fun g => if member g then saveGroup s g else g
          saveFits after ((s.groups.filter member).map (·.gid)) = true →
          ∃ t k bs, exec (.teamSave s.g.gid) s = .next t ∧ t.g.life = .saved ∧ Rules.SameRegisters s t
            ∧ (∀ x ∈ t.g.splits, x.part = none)
            ∧ (∀ g ∈ s.others, g.life = .live → g.team = s.g.team → ∃ h ∈ t.others, h.gid = g.gid ∧ h.life = .saved ∧ h.v = g.v)
            ∧ k ∈ t.leases ∧ k.id = l.id ∧ k.len = l.len ∧ k.saved = some bs
            ∧ (∀ o, o < l.len → Bytes.read bs o = Bytes.read (s.core l.core).scratch (l.base + o)) ∧ t.mem = s.mem)
      ∧ ∀ u, u = { s with g := { s.g with life := .ending } } → workOver u = true → s.g.diag = false →
          (∃ t, exec (.groupRetire s.g.gid) u = .next t ∧ t.g = {} ∧ t.others.map (·.gid) = s.others.map (·.gid))
            ∧ ∀ r, s.g.team = some r → Rules.Distinct s r 64 → 1 < recExpected s r → 1 < recMembers s r → s.g.note = none →
                recArrived s r + 1 < recExpected s r →
                (s.cards.find? fun c => c.id == s.g.card) = none →
                ∃ t, exec (.groupRetire s.g.gid) u = .next t ∧ recExpected t r = recExpected s r - 1
                  ∧ recMembers t r = recMembers s r - 1 ∧ recArrived t r = recArrived s r
                  ∧ recGen t r = recGen s r

/-- CARD_TAKE of an accepted card: HEAD rises by one, STATUS is 0, and the card is held with its fields, each 8-byte word of its
slot read old or new (log 27; that STATUS is written then is log 66). CHUNK_DEAL cuts a chunk off the home's range and queues
its groups; of a card with affinity whose records name another home it passes the chunk's records there, as each chunk is cut
(log 43). STEAL and BALANCER_MOVE pass records between homes and lose none. ADMIT: a split that waits at its home takes a place
and runs, with RESGEN one higher at another partition than before (log 100); the first group of a chunk is launched with the
card's window, entry and scalars and zero registers; the groups of a gang, or of a team with a lease, are launched together on
one core. -/
def Obligations.CardsAndAdmission : Prop :=
  (∀ (s : State) (h : Nat),
      (∀ q slot pte, (s.home h).queues = [q] → q.open_ = true → q.boot = false → q.checked = true → (s.home h).st = .ready →
          (s.cards.filter fun c => c.home == h).length < 256 →
          0 < queueWaiting s q.hdr → queueWaiting s q.hdr ≤ 2 ^ queueLog s q.hdr →
          queueSlot s h q (queueHead s q.hdr) = some (slot, pte) →
          let b := cardBytes s q (queueHead s q.hdr) slot
          cardCode s h q.ctx false b = 0 → cardGang b = false → cardDiag b = false → cardN b 0x18 4 ≠ 0 →
          (slot + 128 ≤ q.hdr ∨ q.hdr + 64 ≤ slot) → q.hdr % 64 = 0 → paTier q.hdr < 2 →
          ∃ t c, exec (.cardTake h q.id) s = .next t ∧ queueHead t q.hdr = (queueHead s q.hdr + 1) % 2 ^ 64
            ∧ Bytes.readN t.mem (slot + 6) 2 = 0 ∧ c ∈ t.cards ∧ t.cards.length = s.cards.length + 1
            ∧ c.id = s.fresh ∧ c.slot = slot ∧ c.home = h ∧ c.ctx = q.ctx ∧ c.records = cardN b 0x18 4
            ∧ c.grpRec = cardN b 0x1C 2 ∧ c.entry.toNat = cardN b 8 8 ∧ c.prio = cardN b 1 1 ∧ c.w = cardN b 2 1
            ∧ c.left = c.records * c.grpRec ∧ c.ranges = [{ owner := h, recs := [(0, c.records)] }]
            ∧ ∀ a, ¬(slot + 6 ≤ a ∧ a < slot + 8) → ¬(q.hdr + 8 ≤ a ∧ a < q.hdr + 16) → Bytes.read t.mem a = Bytes.read s.mem a)
        ∧ (∀ c r, (s.home h).st = .ready → (s.home h).hot = false → heldDiagnostic s h = none →
            chunksWaiting (s.home h) < 2 → packageGroups s (homePkg h) < Config.groupsPerPackage → pickCard s h false = some c →
            c.ranges.find? (openRange h false) = some r → 0 < runsLength r.recs →
            let k := chunkSize s c r
            let gs := recordGroups c (takeRuns k r.recs)
            (c.affinity = false ∨ r.routed = true → recordsLeft s h (newTeams c gs).length = true →
                ∃ t d, exec (.chunkDeal h) s = .next t ∧ d ∈ t.cards ∧ d.id = c.id ∧ d.left = c.left
                  ∧ Rules.undealt d h + k = Rules.undealt c h ∧ 0 < k
                  ∧ (t.home h).adm = (s.home h).adm ++ [(c.prio, .chunk c.id gs)])
              ∧ ∀ v, c.affinity = true → r.routed = false → recordsLeft s h 0 = true → v ≠ h →
                  (∀ q ∈ c.ranges, Rules.rising q.recs) →
                  (∀ i ∈ runNumbers (takeRuns k r.recs), recordHome s c i = some v) →
                  ∃ t d, exec (.chunkDeal h) s = .next t ∧ d ∈ t.cards ∧ Rules.Passed c d h v k ∧ 0 < k
                    ∧ (t.home h).adm = (s.home h).adm ∧ t.mem = s.mem)
        ∧ (∀ v c r, (s.home h).st = .ready → mayRob s h = true → h % 16 < 12 →
            v / 16 = h / 16 → v % 16 < 12 → v ≠ h → (s.home v).st = .ready →
            (∀ k, k ≠ v → k ≠ h → (s.home k).st = .ready → pickCard s k true = none) →
            pickCard s v true = some c → topRange c v = some r → Rules.rising r.recs →
            (c.ranges.filter (· == r)) = [r] →
            ∃ t d n, exec (.steal h) s = .next t ∧ d ∈ t.cards ∧ Rules.Passed c d v h n ∧ chunkSize s c r ≤ n ∧ t.mem = s.mem
              ∧ t.homes = s.homes)
        ∧ ∀ v c n, c ∈ s.cards → Rules.soleCard s c → dealable v true c = true → Rules.rising (openRuns c v) →
            (s.home h).st = .ready → v ≠ h → homePkg v = homePkg h → n ≠ 0 →
            ∃ t d m, exec (.balancerMove c.id v h n) s = .next t ∧ d ∈ t.cards ∧ Rules.Passed c d v h m
              ∧ min n (runsLength (openRuns c v)) ≤ m ∧ t.mem = s.mem ∧ t.homes = s.homes)
    ∧ (∀ (s : State) (h level p : Nat),
      ((s.home h).adm = [(level, .split s.g.gid s.g.sp.idx)] → awaitsAdmission s h = true → s.g.handler = .none →
          splitPlace s = some p →
          ∃ t, exec (.admitItem h) s = .next t ∧ t.g.sp.part = some p ∧ (t.home h).adm = []
            ∧ t.g.sp.status = (if s.g.sp.status = .suspended then .suspended else if s.g.sp.watch.isSome then .waiting else .runnable)
            ∧ t.g.sp.resgen = (if s.g.sp.lastPart = none ∨ s.g.sp.lastPart = some p then s.g.sp.resgen else s.g.sp.resgen + 1)
            ∧ t.g.sp.pc = s.g.sp.pc ∧ Rules.SameRegisters s t ∧ t.mem = s.mem)
        ∧ ∀ c n m, (s.home h).adm = [(level, .chunk c.id [(n, m)])] → n < m → (s.home h).st = .ready →
            (s.cards.find? fun x => x.id == c.id) = some c →
            (c.gang = false → c.lease = 0 ∨ c.teamSize = 0 → 0 < c.grpRec →
              slotsLeft s h c.ctx 1 = true → packageGroups s (homePkg h) + 1 ≤ Config.groupsPerPackage →
              choosePart s [h] (c.w, c.tileRows) = some p →
              ∃ t g, exec (.admitItem h) s = .next t ∧ t.others = s.others ++ [g] ∧ t.mem = s.mem
                ∧ g.life = .live ∧ g.w = c.w ∧ g.tileRows = c.tileRows ∧ g.baseHome = h ∧ g.ctx = c.ctx ∧ g.prio = c.prio
                ∧ g.v = [] ∧ g.p = [] ∧ g.em = 0xFFFFFFFF ∧ g.bcur = [] ∧ g.sibs = [] ∧ g.trapvec = c.trapvec
                ∧ g.recIdx = BitVec.ofNat 32 (n / c.grpRec) ∧ g.grpInRec = BitVec.ofNat 16 (n % c.grpRec)
                ∧ g.sp.lanes = 0xFFFFFFFF ∧ g.sp.part = some p ∧ g.sp.home = h ∧ g.sp.resgen = (if c.replay.isSome then 1 else 0)
                ∧ Cells.get 0 g.sp.s 3 = BitVec.ofNat 64 (n % c.grpRec)
                ∧ (match c.replay with
                  | none => g.sp.pc = c.entry ∧ Cells.get 0 g.sp.s 1 = c.args + BitVec.ofNat 64 (n / c.grpRec * c.recSize)
                      ∧ Cells.get 0 g.sp.s 2 = BitVec.ofNat 64 (n / c.grpRec)
                  | some (seq, pc, jkt) => g.sp.pc = pc ∧ Cells.get 0 g.sp.s 1 = jkt ∧ Cells.get 0 g.sp.s 2 = seq
                      ∧ g.rpseq = seq ∧ g.rppc = pc ∧ g.rpjkt = jkt)
                ∧ (t.home h).adm = (if n + 1 = m then [] else [(level, .chunk c.id [(n + 1, m)])]))
              ∧ ∀ core ps base, c.gang = true ∨ (c.lease ≠ 0 ∧ c.teamSize ≠ 0) → let k := c.unit n
                slotsLeft s h c.ctx k = true → packageGroups s (homePkg h) + k ≤ Config.groupsPerPackage →
                chooseCore s [h] ((List.range k).map fun i => c.needs (n + i)) c.lease = some (core, ps, base) →
                ∃ t gs, exec (.admitItem h) s = .next t ∧ t.others = s.others ++ gs ∧ gs.map (·.sp.part) = ps.map some ∧ t.mem = s.mem
                  ∧ ∀ g ∈ gs, g.life = .live ∧ g.baseHome = h ∧ g.card = c.id ∧ g.v = [] ∧ g.sibs = [])

namespace Sys2Proof.Rules
open Sys2Proof Sys2Proof.Machine

/-- A link of a package. -/
def link (s : State) (p k : Nat) : Link := Cells.get {} (s.pkg p).links k

/-- A source home was counted for a listed page, and more often than any other (25 R375). -/
def Dominates (h : Home) (leaf src : Nat) : Prop :=
  0 < useCount h leaf src ∧ ∀ c ∈ h.counts, c.1 = leaf → c.2.1 ≠ src → c.2.2 < useCount h leaf src

/-- Line i of a moving page stands at its new frame: its bytes, and whether it is poisoned. -/
def Stands (s : State) (m : PageMove) (i : Nat) : Prop :=
  poisonedLine s (m.old / 64 + i) = poisonedLine s (m.new / 64 + i)
    ∧ ∀ k, k < 64 → Bytes.read s.mem (m.old + 64 * i + k) = Bytes.read s.mem (m.new + 64 * i + k)

/-- HSTATE of a home as the control page shows it (26 Table 26.2). -/
def hstate (s : State) (h : Nat) : Nat := s.pageN (homePkg h) 8 8 / 2 ^ (4 * (h % 16)) % 16

end Sys2Proof.Rules

/-- Links: LINK_DOWN, LINK_RETRAINED and PORT_STATE_CHANGE set whether a port is up, but a port that faces a package of the same
number never trains; a sound flit advances its link, another is counted as an error. Memory and the packets stay.
REORDER_WINDOW_ROOM sends the oldest waiting packet of its packages and class, with the next sequence number, while fewer than
2048 items are unreleased, and none at 2048. -/
def Obligations.LinksAndPorts : Prop :=
  ∀ (s : State) (p k : Nat), (s.pkg p).present = true →
    let only (t : State) : Prop := t.mem = s.mem ∧ t.packets = s.packets ∧ t.homes = s.homes ∧ t.g = s.g ∧ t.others = s.others
    let twin := (s.pkg p).twinPorts.contains k
    (k < 15 → ∃ t, exec (.linkDown p k) s = .next t ∧ (Rules.link t p k).up = false ∧ only t
          ∧ ∀ j, j ≠ k → Rules.link t p j = Rules.link s p j)
      ∧ (k < 15 → twin = false → ∃ u, exec (.linkRetrained p k) s = .next u ∧ (Rules.link u p k).up = true ∧ only u
          ∧ ∀ j, j ≠ k → Rules.link u p j = Rules.link s p j)
      ∧ (twin = true → exec (.linkRetrained p k) s = .next s ∧ ∀ up, exec (.portStateChange p true k up) s = .next s)
      ∧ (∀ up, k < 15 → twin = false → ∃ t, exec (.portStateChange p true k up) s = .next t ∧ (Rules.link t p k).up = up ∧ only t)
      ∧ (∀ up, k < 4 → ∃ t, exec (.portStateChange p false k up) s = .next t ∧ (t.pkg p).ports.getLsbD k = up ∧ only t
          ∧ ∀ j, j ≠ k → (t.pkg p).ports.getLsbD j = (s.pkg p).ports.getLsbD j)
      ∧ (∀ q a b, portToward s p q = some a → portToward s q p = some b →
          ∃ t u, exec (.flitReceive p q true) s = .next t ∧ (Rules.link t q b).seq = ((Rules.link s q b).seq + 1) % 2 ^ 64 ∧ only t
            ∧ exec (.flitReceive p q false) s = .next u ∧ (Rules.link u q b).errors = (Rules.link s q b).errors + 1 ∧ only u)
      ∧ ∀ q c, (2048 ≤ unreleased s p q c → exec (.reorderWindowRoom p q c) s = .next s)
          ∧ ∀ x, unreleased s p q c < 2048 → q ≠ p → reachable s p q = true →
              (s.packets.find? fun y => homePkg y.src == p && homePkg y.dst == q && y.cls == c && y.cross.isNone
                && inQueue y.src y.dst y) = some x →
              ∃ t, exec (.reorderWindowRoom p q c) s = .next t ∧ sentItems t p q c = sentItems s p q c + 1 ∧ t.mem = s.mem
                ∧ t.packets.map (·.id) = s.packets.map (·.id)
                ∧ { x with cross := some { seq := sentItems s p q c, detour := takesDetour s p q } } ∈ t.packets

/-- DIE_RESET: the homes of the die hold nothing but their PARTNER, its stages and clock start again, and every line that no
mirror holds is poisoned there; the identity of the die stays. PACKAGE_LOST takes the package out of the domain. That PARTNER is
kept (log 30), that queues, admission, open runs and translations are gone (log 31) and that CLOCK starts at 0 (log 3) is the
model's choice. -/
def Obligations.ResetsAndLosses : Prop :=
  ∀ (s : State) (p d : Nat), (s.pkg p).present = true → d < 6 →
    (∃ t, exec (.dieReset p d) s = .next t ∧ (t.die p d).stage = 0 ∧ (t.die p d).clock = 0
        ∧ (t.die p d).identity = (s.die p d).identity
        ∧ ∀ h ∈ [p * 16 + 2 * d, p * 16 + 2 * d + 1], (t.home h).queues = [] ∧ (t.home h).adm = [] ∧ (t.home h).runs = []
            ∧ (t.home h).tlb = [] ∧ (t.home h).mv = none ∧ (t.home h).partner = (s.home h).partner
            ∧ (t.home h).st = (if (s.home h).st = .failed then .failed else .down))
      ∧ (s.g.life = .vacant → s.others = [] → s.packets = [] → s.mirrors = [] → s.roce = [] → mirroredPages s = [] →
          (∀ k, (s.home k).mv = none) →
          ∃ t, exec (.dieReset p d) s = .next t
            ∧ ∀ pa, homeOfPa pa ∈ [p * 16 + 2 * d, p * 16 + 2 * d + 1] → paTier pa < 2 → poisonedLine t (pa / 64) = true)
      ∧ ∃ t, exec (.packageLost p) s = .next t ∧ (t.pkg p).present = false ∧ (t.pkg p).lost = true

/-- A page move: GO starts it or leaves its STATUS; a home starts one for a listed page, toward the home of its package that its
counts of the page put before every other; in MOVING the next line that does not stand at the new frame passes there, poison and
all; CUTOVER waits until every line stands at the new frames, and then names the new frame in the leaf and nowhere else in
memory; REDIRECT sends the packets of a source to the new home; the end clears STATE. -/
def Obligations.PagesMove : Prop :=
  ∀ (s : State) (h : Nat) (m : PageMove),
    (let u := s.setHome h fun k => { k with mvGo := false }
     let pte := (s.home h).mvPte.toNat
     let dest := (s.home h).mvDest.toNat
     (s.home h).mvGo = true →
      (∀ e n, leafAt u pte = some (e, n) → moveCode u h pte dest = 0 →
          ∃ t, exec (.pageMoveStart h) s = .next t ∧ (t.home h).mvGo = false ∧ (t.home h).mvState = 1 ∧ (t.home h).mvStatus = 0
            ∧ (t.home h).mv = some { old := servedFrame u e, new := dest, size := n, pte := pte } ∧ t.mem = s.mem)
        ∧ (moveCode u h pte dest ≠ 0 → ∃ t, exec (.pageMoveStart h) s = .next t ∧ (t.home h).mvGo = false
            ∧ (t.home h).mv = (s.home h).mv ∧ (t.home h).mvStatus = moveCode u h pte dest ∧ t.mem = s.mem))
      ∧ (∀ k leaf dest e n, (s.home h).movable[k]? = some (leaf, dest) → homePkg (homeOfPa dest) = homePkg h →
          moveCode s h leaf dest = 0 → leafAt s leaf = some (e, n) →
          Rules.Dominates (s.home h) leaf (homeOfPa dest) →
          ∃ t, exec (.autoPageMove h k) s = .next t ∧ (t.home h).mvState = 1 ∧ t.mem = s.mem
            ∧ (t.home h).mv = some { old := servedFrame s e, new := dest, size := n, pte := leaf, auto := true })
      ∧ (∀ k leaf dest, (s.home h).movable[k]? = some (leaf, dest) → ¬Rules.Dominates (s.home h) leaf (homeOfPa dest) →
          exec (.autoPageMove h k) s = .next s)
      ∧ (∀ e n i, (s.home h).mv = some m → m.cutover = false → leafAt s m.pte = some (e, n) → pteMirror e = false →
          delivers s h (homeOfPa m.new) = true → m.old % 64 = 0 → m.new % 64 = 0 → Memory.wf s.mem = true → i < m.size / 64 →
          (∀ k, k < 64 → paTier (m.new + 64 * i + k) < 2) → (∀ j, j < i → Rules.Stands s m j) → ¬Rules.Stands s m i →
          ∃ t, performTurn (.pageCopy h) s = .next t ∧ t.packets = s.packets ∧ t.cores = s.cores ∧ (t.home h).mv = some m
                ∧ t.hostMem = s.hostMem ∧ t.invals = s.invals ∧ Rules.SameRegisters s t
            ∧ (∀ l, poisonedLine t l = poisonedLine s (if l = m.new / 64 + i then m.old / 64 + i else l))
            ∧ ∀ a, Bytes.read t.mem a = Bytes.read s.mem (if a / 64 = m.new / 64 + i then m.old + 64 * i + a % 64 else a))
      ∧ (∀ e n, (s.home h).mv = some m → leafAt s m.pte = some (e, n) → pteMirror e = false →
          (¬∀ j, j < m.size / 64 → Rules.Stands s m j) → exec (.cutover h) s = .next s)
      ∧ (∀ e n, (s.home h).mv = some m → m.cutover = false → pageBusy s m = false → leafAt s m.pte = some (e, n) →
          Memory.wf s.mem = true → moveCopied s h m e = true →
          ∃ t, exec (.cutover h) s = .next t ∧ (t.home h).mvState = 2 ∧ (t.home h).mv = some { m with cutover := true }
            ∧ Bytes.readN t.mem m.pte 8 = leafWith e m.new % 2 ^ 64
            ∧ ∀ a, ¬(m.pte ≤ a ∧ a < m.pte + 8) → Bytes.read t.mem a = Bytes.read s.mem a)
      ∧ (∀ src, (s.home h).mv = some m → m.cutover = true → 0 < m.old → m.new ≠ m.old →
          ∃ t, exec (.redirect src h) s = .next t ∧ t.packets.map (·.id) = s.packets.map (·.id) ∧ t.mem = s.mem
            ∧ ∀ x ∈ s.packets, if x.src = src ∧ m.old ≤ x.body.address ∧ x.body.address < m.old + m.size then
                ∃ y ∈ t.packets, y.id = x.id ∧ y.dst = homeOfPa y.body.address
                  ∧ y.body.address = m.new + (x.body.address - m.old)
              else x ∈ t.packets)
      ∧ ((s.home h).mv = some m → m.cutover = true → oldFrameNamed s m = false →
          ∃ t, exec (.pageMoveEnd h) s = .next t ∧ (t.home h).mv = none ∧ (t.home h).mvState = 0 ∧ (t.home h).mvStatus = 0
            ∧ t.mem = s.mem)

/-- PARTNER takes a home of the domain on another die when no mirrored page is homed here, and keeps its value otherwise; the
other registers of a page move take what is written, and a write at another offset changes nothing (the model's choice: log 22);
an append of one faulty offset by a diagnostic group enters the repair table of its core, or says why it could not, and no other
agent reaches it; an ECC error poisons its granule, that of a line once no access is pending there (log 99), and of a mirrored
page the other copy may then repair it. -/
def Obligations.DeviceRegistersAndErrors : Prop :=
  ∀ (s : State) (h : Nat) (x : DWord),
    (partnerOk s h x = true → ∃ t, exec (.partnerWrite h x) s = .next t ∧ (t.home h).partner = some (x.setWidth 8)
        ∧ { t with homes := s.homes } = s)
      ∧ (partnerOk s h x = false → exec (.partnerWrite h x) s = .next s)
      ∧ (∃ t u, exec (.registerWrite h 0x11008 x) s = .next t ∧ (t.home h).mvPte = x ∧ { t with homes := s.homes } = s
          ∧ exec (.registerWrite h 0x11010 x) s = .next u ∧ (u.home h).mvDest = x ∧ { u with homes := s.homes } = s)
      ∧ (∀ o, o ≠ 0x11008 → o ≠ 0x11010 → exec (.registerWrite h o x) s = .next s)
      ∧ (∀ c vs, (coreResidents s c).any (·.diag) = false → exec (.append c vs) s = .next s)
      ∧ (∀ c v, (coreResidents s c).any (·.diag) = true → let k := s.core c
          ∃ t, exec (.append c [v]) s = .next t ∧ { t with cores := s.cores } = s
            ∧ (v.toNat % 4 ≠ 0 ∨ 0xC1400 ≤ v.toNat → t.core c = { k with bad := true })
            ∧ (v.toNat % 4 = 0 → v.toNat < 0xC1400 → (repairOffsets k).contains v.toNat = true → t.core c = k)
            ∧ (v.toNat % 4 = 0 → v.toNat < 0xC1400 → (repairOffsets k).contains v.toNat = false → k.count = 64 →
                t.core c = { k with ovf := true })
            ∧ (v.toNat % 4 = 0 → v.toNat < 0xC1400 → (repairOffsets k).contains v.toNat = false → k.count < 64 →
                (t.core c).count = k.count + 1 ∧ (t.core c).scratch = k.scratch
                  ∧ repairOffset (Cells.get 0 (t.core c).repair k.count) = v.toNat
                  ∧ entryRes (Cells.get 0 (t.core c).repair k.count) = 0
                  ∧ ∀ j, j ≠ k.count → Cells.get 0 (t.core c).repair j = Cells.get 0 k.repair j))
      ∧ (∀ pa, lineAwaited s (pa / 64) = true →
          exec (.uncorrectableEccError (.line pa)) s = .next { s with agenda := s.agenda ++ [.eccError (.line pa)] })
      ∧ (∀ pa, lineAwaited s (pa / 64) = false → ∃ t, exec (.uncorrectableEccError (.line pa)) s = .next t ∧ poisonedLine t (pa / 64) = true
          ∧ { t with poison := s.poison, agenda := s.agenda } = s ∧ t.agenda = s.agenda ++ [.mirrorRepair (pa / 64 * 64)]
          ∧ ∀ l, l ≠ pa / 64 → poisonedLine t l = poisonedLine s l)
      ∧ (∀ c o, ∃ t, exec (.uncorrectableEccError (.scratch c o)) s = .next t ∧ { t with cores := s.cores } = s
          ∧ (∀ k, Cells.get false (t.core c).poison k = (decide (k = o / 4) || Cells.get false (s.core c).poison k))
          ∧ ∀ k, k ≠ c → t.core k = s.core k)
      ∧ (s.g.life = .live → ∀ r,
          (∃ t, exec (.uncorrectableEccError (.tileRow s.g.gid r)) s = .next t ∧ t.mem = s.mem
              ∧ t.g = { s.g with poisonTile := Cells.set false s.g.poisonTile r true })
            ∧ (∃ t, exec (.uncorrectableEccError (.sreg s.g.gid s.g.sp.idx r)) s = .next t ∧ t.mem = s.mem
              ∧ t.g.sp = { s.g.sp with poisonS := Cells.set false s.g.sp.poisonS r true })
            ∧ ∃ t, exec (.uncorrectableEccError (.preg s.g.gid r)) s = .next t ∧ t.mem = s.mem
              ∧ t.g.sp = { s.g.sp with poisonP := Cells.set false s.g.sp.poisonP r true })
      ∧ (∀ r l, s.g.life = .live → ∃ t, exec (.uncorrectableEccError (.vreg s.g.gid r l)) s = .next t
          ∧ Cells.get false t.g.poisonV (vkey r l) = true ∧ t.g.v = s.g.v ∧ t.mem = s.mem
          ∧ ∀ k, k ≠ vkey r l → Cells.get false t.g.poisonV k = Cells.get false s.g.poisonV k)

namespace Sys2Proof.Rules
open Sys2Proof Sys2Proof.Machine

/-- The port's answer to a request comes behind its others. -/
def answered (s t : State) (q : QpId) (a : Answer) : Prop :=
  (t.pkg q.pkg).answers = (s.pkg q.pkg).answers ++ [(q.port, q.qpn, a)]

/-- A request on a queue pair with a context, whose bytes translate to some runs at homes that take traffic. -/
def hostRun (s : State) (need : Need) (q : QpId) (va n : Nat) (xs : List Span) : Prop :=
  portUp s q = true ∧ q.qpn ≠ 2 ∧ (∃ c, ((qpOf s q).bind (·.ctx)) = some c ∧ userRun need s q c va n = some xs)
    ∧ heldBack s xs = false

/-- The physical addresses of some runs, in order. -/
def addresses (xs : List Span) : List Nat := xs.flatMap fun x => (List.range x.n).map fun i => x.pa + i

/-- A port has accepted a request: it stands behind the others with its operation and steps; nothing else has happened. -/
def Accepted (s t : State) (q : QpId) (op : HostOp) (ls : List HostLine) : Prop :=
  (t.pkg q.pkg).reqs = (s.pkg q.pkg).reqs ++ [{ id := s.fresh, port := q.port, qpn := q.qpn, op := op, lines := ls }]
    ∧ t.mem = s.mem ∧ (t.pkg q.pkg).answers = (s.pkg q.pkg).answers ∧ t.g = s.g ∧ t.others = s.others

/-- Each step of a request lies in one line. -/
def inLines (ls : List HostLine) : Prop := ∀ l ∈ ls, 0 < l.n ∧ l.pa % 64 + l.n ≤ 64

/-- The request r of package p is the next of its number, and its turn has come at home h. -/
def hostTurn (s : State) (p h : Nat) (r : HostReq) : Prop :=
  ((s.pkg p).reqs.find? fun x => x.id == r.id) = some r ∧ inTurn (s.pkg p) h r = true

/-- It may take a step there. -/
def mayStep (s : State) (p h : Nat) (r : HostReq) : Prop := hostTurn s p h r ∧ delivers s (p * 16) h = true

/-- The line that a step reads is sound, in both copies on a mirrored page (25 R369). -/
def lineSound (s : State) (l : HostLine) : Prop :=
  poisonedLine s (l.pa / 64) = false ∧ (pteMirror l.pte = true → poisonedLine s (mirrorOf s l.pa / 64) = false)

/-- A report of ATTEST at an address: the nonce, IDHASH, IMGHASH, HSTATE, the number of failed cores of each home, IDFAIL, 11 bytes of 0,
and the signature over these 160 bytes (26 R383). -/
def report (s t : State) (p pa nonce : Nat) : Prop :=
  let b (i : Nat) : Byte := Bytes.read t.mem (pa + i)
  let page (i : Nat) : Byte := Bytes.read (s.pkg p).page i
  (∀ k, k < 32 → b k = Bytes.read s.mem (nonce + k) ∧ b (32 + k) = page (0xA0 + k))
    ∧ (∀ k, k < 64 → b (64 + k) = page (0xC0 + k)) ∧ (∀ k, k < 8 → b (128 + k) = page (8 + k))
    ∧ (∀ h, h < 12 → (b (136 + h)).toNat
        = ((List.range 64).filter fun i => Nat.testBit (Bytes.readN (s.pkg p).page (0x18 + 8 * h) 8) i).length)
    ∧ b 148 = page 7 ∧ (∀ k, k < 11 → b (149 + k) = 0)
    ∧ ∀ k, k < 3309 → b (160 + k) = ((Config.signature (packageSeed p) ((List.range 160).map b))[k]?).getD 0

/-- A request of package p has become another. -/
def reqIs (t : State) (p : Nat) (r : HostReq) : Prop := ((t.pkg p).reqs.find? fun x => x.id == r.id) = some r

/-- A request is over with its answer. -/
def Over (s t : State) (p : Nat) (r : HostReq) (a : Answer) : Prop :=
  (t.pkg p).answers = (s.pkg p).answers ++ [(r.port, r.qpn, a)] ∧ ∀ x, x ∈ (t.pkg p).reqs ↔ x ∈ (s.pkg p).reqs ∧ x.id ≠ r.id

/-- The next command of a package's ring has a code and these arguments. -/
def commandIs (s : State) (code : Nat) (c : CmdArgs) : Prop :=
  cmdPending s c.pkg = true ∧ cmdCode s c.pkg = code ∧ cmdArgs s c.pkg = c

/-- The command is over: its entry holds STATUS, and CMDHEAD has passed it. -/
def Ended (s t : State) (c : CmdArgs) (status : Nat) : Prop :=
  t.pageN c.pkg (cmdEntry s c.pkg + 1) 1 = status ∧ cmdHead t c.pkg = (cmdHead s c.pkg + 1) % 2 ^ 64

/-- The home that A0 names. -/
def homeArg (c : CmdArgs) (h : Nat) : Prop := c.a0.toNat < 12 ∧ h = c.pkg * 16 + c.a0.toNat

end Sys2Proof.Rules

/-- Host requests are accepted with one step for each line of their bytes: RDMA_WRITE and RDMA_READ through a queue pair's
context, the atomics on a SYSATOM page, RDMA_SEND of a card; a refused atomic is counted. Through the management pair WRITE and
READ reach the control page at once; a request outside the subset performs nothing. That a port translates at home 0 of its
package is the model's choice (log 37). The steps of a host request, each a turn of its own: a line of a WRITE or of a SEND's
card enters memory; a line of a READ is kept for the answer; an atomic replaces 8 bytes at once and keeps the old value; a SEND
begins with the slot of its queue's tail, and ends by raising the tail. After the last step the port answers. A step that comes
to a home which holds host traffic back ends its request with an RNR NAK. -/
def Obligations.HostRequests : Prop :=
  (∀ (s : State) (q : QpId) (va : Nat) (bs : List Byte) (xs : List Span) (y z : DWord),
      (Rules.hostRun s .write q va bs.length xs →
          ∃ t ls, exec (.rdmaWrite q va bs) s = .next t ∧ Rules.Accepted s t q .write ls ∧ Rules.inLines ls
            ∧ (∀ l ∈ ls, l.bytes.length = l.n) ∧ ls.flatMap (fun l => bytesAt l.pa l.bytes) = (Rules.addresses xs).zip bs)
        ∧ (∀ n, Rules.hostRun s .read q va n xs →
            ∃ t ls, exec (.rdmaRead q va n) s = .next t ∧ Rules.Accepted s t q (.read n) ls ∧ Rules.inLines ls
              ∧ ls.flatMap (fun l => (List.range l.n).map fun i => (l.at_ + i, l.pa + i)) = (List.range n).zip (Rules.addresses xs))
        ∧ (∀ x rest, Rules.hostRun s .write q va 1 (x :: rest) → heldBack s [x] = false →
            (pteSysAtom x.pte = true → va % 8 = 0 → ∃ t u, exec (.atomicFetchAdd q va y) s = .next t
                ∧ Rules.Accepted s t q (.fetchAdd y) [{ at_ := 0, pa := x.pa, pte := x.pte, n := 8 }]
                ∧ exec (.atomicCompareSwap q va y z) s = .next u
                ∧ Rules.Accepted s u q (.compareSwap y z) [{ at_ := 0, pa := x.pa, pte := x.pte, n := 8 }])
              ∧ (pteSysAtom x.pte = false ∨ va % 8 ≠ 0 → ∃ t u, exec (.atomicFetchAdd q va y) s = .next t
                ∧ Rules.answered s t q .accessError ∧ t.mem = s.mem ∧ exec (.atomicCompareSwap q va y z) s = .next u
                ∧ Rules.answered s u q .accessError ∧ u.mem = s.mem
                ∧ t.pageN q.pkg (0x78 + 8 * q.port) 8 = (s.pageN q.pkg (0x78 + 8 * q.port) 8 + 1) % 2 ^ 64))
        ∧ (∀ hdr, portUp s q = true → ((qpOf s q).bind (·.queue)) = some hdr → bs.length = 128 →
            (∃ jq ∈ (s.home (homeOfPa hdr)).queues, jq.hdr = hdr) → takesTraffic s (homeOfPa hdr) = true →
            ∃ t, exec (.rdmaSend q bs) s = .next t ∧ Rules.Accepted s t q (.send hdr bs none) [])
        ∧ (portUp s q = true → q.qpn = 2 →
            (hostMayWrite va bs.length = true →
                ∃ t, exec (.rdmaWrite q va bs) s = .next t ∧ Rules.answered s t q (.ack []) ∧ t.mem = s.mem
                  ∧ ∀ o, Bytes.read (t.pkg q.pkg).page o
                      = if va ≤ o ∧ o < va + bs.length then (bs[o - va]?).getD 0 else Bytes.read (s.pkg q.pkg).page o)
              ∧ (hostMayWrite va bs.length = false →
                ∃ t, exec (.rdmaWrite q va bs) s = .next t ∧ Rules.answered s t q .accessError ∧ t.mem = s.mem
                  ∧ (t.pkg q.pkg).page = (s.pkg q.pkg).page)
              ∧ ∀ n, va + n ≤ 0x10000 → ∃ t, exec (.rdmaRead q va n) s = .next t ∧ { t with pkgs := s.pkgs } = s
                  ∧ Rules.answered s t q (.ack ((List.range n).map fun i => Bytes.read (s.pkg q.pkg).page (va + i))))
        ∧ (portUp s q = true → ∃ t, exec (.invalidRequest q) s = .next t ∧ Rules.answered s t q .invalidRequest
            ∧ { t with pkgs := s.pkgs } = s))
    ∧ (∀ (s : State) (p h : Nat) (r : HostReq),
      (∀ l, Rules.mayStep s p h r → (r.lines.find? fun x => homeOfPa x.pa == h) = some l → paTier l.pa < 3 →
          0 < l.n → l.pa % 64 + l.n ≤ 64 →
          let u := performTurn (.hostStep p r.id h) s
          let r' : HostReq := { r with lines := r.lines.erase l }
          (∀ hdr card n, (r.op = .write ∨ r.op = .send hdr card n) → l.bytes.length = l.n → Rules.Distinct s l.pa l.n →
              ∃ t, u = .next t ∧ Rules.reqIs t p r' ∧ t.packets = s.packets ∧ t.g.v = s.g.v
                ∧ (∀ i, i < l.n → t.byte (l.pa + i) = (l.bytes[i]?).getD 0) ∧ ∀ a, Rules.Elsewhere s l.pa l.n a → t.byte a = s.byte a)
            ∧ (∀ n, r.op = .read n → Rules.lineSound s l →
                ∃ t got, u = .next t ∧ Rules.reqIs t p { r' with got := got } ∧ t.mem = s.mem ∧ t.hostMem = s.hostMem ∧ t.packets = s.packets
                  ∧ ∀ i, Bytes.read got i = if l.at_ ≤ i ∧ i < l.at_ + l.n then s.byte (l.pa + (i - l.at_)) else Bytes.read r.got i)
            ∧ ∀ (x c : DWord), r.op = .fetchAdd x ∨ r.op = .compareSwap c x → Rules.lineSound s l → l.pa % 8 = 0 → Rules.Distinct s l.pa 8 →
                let old := s.readN l.pa 8
                let new := if r.op = .fetchAdd x then (old + x.toNat) % 2 ^ 64 else if old = c.toNat then x.toNat else old
                ∃ t got, u = .next t ∧ Rules.reqIs t p { r' with got := got } ∧ Bytes.readN got 0 8 = old
                  ∧ t.readN l.pa 8 = new ∧ ∀ a, Rules.Elsewhere s l.pa 8 a → t.byte a = s.byte a)
        ∧ (∀ l, Rules.hostTurn s p h r → (r.lines.find? fun x => homeOfPa x.pa == h) = some l → Rules.lineSound s l →
            takesTraffic s h = false →
            ∃ t, performTurn (.hostStep p r.id h) s = .next t ∧ Rules.Over s t p r .notReady ∧ t.mem = s.mem)
        ∧ (∀ hdr card jq, Rules.mayStep s p h r → r.op = .send hdr card none → r.lines = [] → homeOfPa hdr = h → card.length = 128 →
            ((s.home h).queues.find? fun x => x.hdr == hdr) = some jq →
            let tail := Bytes.readN s.mem hdr 8
            (queueWaiting s hdr < 2 ^ queueLog s hdr → ∀ pa pte, cardSpot s h jq.ctx .write (queueSlotVa s hdr tail) = some (pa, pte) →
                ∃ t ls, performTurn (.hostStep p r.id h) s = .next t ∧ t.mem = s.mem ∧ Rules.inLines ls
                  ∧ Rules.reqIs t p { r with op := .send hdr card (some tail), lines := ls }
                  ∧ ls.flatMap (fun l => bytesAt l.pa l.bytes) = bytesAt pa card)
              ∧ (2 ^ queueLog s hdr ≤ queueWaiting s hdr →
                ∃ t, performTurn (.hostStep p r.id h) s = .next t ∧ Rules.Over s t p r .notReady ∧ t.mem = s.mem))
        ∧ (((s.pkg p).reqs.find? fun x => x.id == r.id) = some r → r.lines = [] → stillPending s r.id = false →
            let ends (a : Answer) : Prop := ∃ t, performTurn (.hostStep p r.id h) s = .next t ∧ Rules.Over s t p r a ∧ t.mem = s.mem
            (r.op = .write → ends (.ack []))
              ∧ (∀ n, r.op = .read n → ends (.ack ((List.range n).map fun i => Bytes.read r.got i)))
              ∧ (∀ (x c : DWord), r.op = .fetchAdd x ∨ r.op = .compareSwap c x → ends (.ack ((List.range 8).map fun i => Bytes.read r.got i)))
              ∧ ∀ hdr card n, r.op = .send hdr card (some n) → hdr % 64 = 0 → paTier hdr < 2 → Rules.mayStep s p (homeOfPa hdr) r →
                  ∃ t, performTurn (.hostStep p r.id h) s = .next t ∧ Rules.Over s t p r (.ack [])
                    ∧ Bytes.readN t.mem hdr 8 = (n + 1) % 2 ^ 64
                    ∧ ∀ a, ¬(hdr ≤ a ∧ a < hdr + 8) → Bytes.read t.mem a = Bytes.read s.mem a))

/-- The commands on queues and groups: REGQ registers a queue, binds the queue pair that it names, and answers the queue's
number; UNREGQ removes it; PREEMPT requests the stop of every group that its identity names on the package; RESUME sends a saved
group to admission, and the jacket of a roaming one to the home recorded for it; KILL ends a group; REPLAY, once its log can be
read, enters a card with its recovery point. Each ends with its STATUS. The rkey of a new queue pair is a free value (log 35).
-/
def Obligations.CommandsOnQueuesAndGroups : Prop :=
  ∀ (s : State) (c : CmdArgs),
    (∀ id, Rules.commandIs s 1 c →
        let h := homeOfPa c.a0.toNat
        memRun s c.a0.toNat 64 = true → homePkg h = c.pkg → contextBad s c.a1.toNat h = false →
        ringOk s h c.a1.toNat c.a0.toNat = true → overflowOk s h c = true → (binds c = true → bindQpn c ≠ 2 ∧ bindQpn c < 4096) →
        takesQueues s h = true →
        freeQueue s h c.a0.toNat = some id →
        ∃ t, exec (.regq c) s = .next t ∧ Rules.Ended s t c 1 ∧ t.pageN c.pkg (cmdEntry s c.pkg + 0x38) 8 = id
          ∧ Bytes.readN t.mem (c.a0.toNat + 0x1C) 4 = 0
          ∧ ∃ q ∈ (t.home h).queues, q.id = id ∧ q.hdr = c.a0.toNat ∧ q.ctx = c.a1.toNat
              ∧ q.trapvec.toNat = c.a2.toNat % 2 ^ 56 / 4 * 4 ∧ q.open_ = true
          ∧ (binds c = true → ∃ x ∈ (t.pkg c.pkg).qps, x.port = bindPort c ∧ x.qpn = bindQpn c ∧ x.queue = some c.a0.toNat
              ∧ ((∀ y ∈ (s.pkg c.pkg).qps, ¬(y.port = bindPort c ∧ y.qpn = bindQpn c)) →
                  x.ctx = some c.a1.toNat ∧ x.rkey = Config.queueRkey s.free)))
      ∧ (∀ h q, Rules.commandIs s 2 c → queueHome s c.pkg c.a0.toNat = some (h, q) →
          ∃ t, exec (.unregq c) s = .next t ∧ Rules.Ended s t c 1 ∧ (∀ x ∈ (t.home h).queues, x.hdr ≠ q.hdr)
            ∧ (∀ x ∈ (s.home h).queues, x.hdr ≠ q.hdr → x ∈ (t.home h).queues) ∧ t.mem = s.mem)
      ∧ (Rules.commandIs s 3 c → c.a0.toNat < 3 → let chosen := Rules.requested s c.pkg c.a0.toNat c.a1.toNat c.a1
          ∃ t, exec (.preemptCommand c) s = .next t ∧ Rules.Ended s t c 1 ∧ t.mem = s.mem
            ∧ (∀ g ∈ s.groups, g.life = .live → g.diag = false → chosen g →
                ∃ u ∈ t.groups, u.gid = g.gid ∧ u.preempt = true ∧ u.v = g.v)
            ∧ (∀ g ∈ s.groups, g.life ≠ .live ∨ g.diag = true → g ∈ t.groups)
            ∧ ∀ g ∈ s.groups, g.team = none → ¬chosen g → g ∈ t.groups)
      ∧ (Rules.commandIs s 4 c → c.a0 = 0 → c.a1 = s.g.gid.setWidth 64 → s.g.life = .saved → homePkg s.g.baseHome = c.pkg →
          s.g.team = none → s.g.seams = [] → s.g.sibs = [] → s.g.sp.status ≠ .atSeam → s.g.sp.watch = none → s.g.sp.sent = none →
          (∀ g ∈ s.others, g.gid ≠ s.g.gid) →
          ∃ t, exec (.resume c) s = .next t ∧ Rules.Ended s t c 1 ∧ t.g.life = .live ∧ t.g.sp.safe = 0
            ∧ t.g.sp.resgen = s.g.sp.resgen + 1 ∧ t.g.sp.pc = s.g.sp.pc ∧ Rules.SameRegisters s t ∧ t.mem = s.mem
            ∧ (t.home s.g.sp.home).adm = (s.home s.g.sp.home).adm ++ (if s.g.tileRows ≠ 0 then [(s.g.prio, .groups [s.g.gid])]
                else if s.g.sp.home = s.g.baseHome then [(levelOf s.g s.g.sp, .split s.g.gid s.g.sp.idx)] else [])
            ∧ (s.g.tileRows = 0 → s.g.sp.home ≠ s.g.baseHome → t.g.sp.move = some s.g.sp.home ∧ t.g.sp.sent = some (s.g.baseHome, 0)))
      ∧ (Rules.commandIs s 5 c → c.a0 = 0 → c.a1 = s.g.gid.setWidth 64 → s.g.life = .live → homePkg s.g.baseHome = c.pkg →
          (∀ g ∈ s.others, g.gid ≠ s.g.gid) →
          ∃ t, exec (.kill c) s = .next t ∧ Rules.Ended s t c 1 ∧ (t.g.life = .vacant ∨ t.g.life = .ghost))
      ∧ ∀ h q slot pte, Rules.commandIs s 6 c → queueHome s c.pkg c.a0.toNat = some (h, q) → c.a1.toNat % 128 = 0 →
          cardSpot s h q.ctx .read c.a1.toNat = some (slot, pte) →
          (readLog h q.ctx c.a2.toNat s = none → exec (.replay c) s = .next s)
          ∧ ∀ u r, readLog h q.ctx c.a2.toNat s = some u → cardCode u h q.ctx q.boot (slotNow u slot) = 0 →
          oneTeam (slotNow u slot) = true → selectedRecord u h q.ctx c.a2.toNat = some r →
          (s.cards.filter fun x => x.home == h).length < 256 →
          ∃ t k, exec (.replay c) s = .next t ∧ Rules.Ended s t c 1 ∧ k ∈ t.cards ∧ k.replay = some r ∧ k.slot = slot
            ∧ k.ctx = q.ctx ∧ t.cards.length = s.cards.length + 1

/-- The commands on homes: DRAIN, RETURN and UPDATE change HSTATE along its states; ROUTE, MOVLIST, HWIN and PARTNER set what
they name. Each ends with its STATUS, and memory stays. That an argument names a home by its number in the package is the
model's reading (log 34). -/
def Obligations.CommandsOnHomes : Prop :=
  (∀ (s : State) (c : CmdArgs) (h : Nat), Rules.homeArg c h →
    (Rules.commandIs s 7 c → (s.home h).st = .ready → (∀ q ∈ (s.home h).queues, q.open_ = false) →
        ∃ t, exec (.drain c) s = .next t ∧ Rules.Ended s t c 1 ∧ (t.home h).st = .draining ∧ Rules.hstate t h = 3 ∧ t.mem = s.mem)
      ∧ (Rules.commandIs s 9 c → (s.home h).st = .drained →
          ∃ t, exec (.homeReturn c) s = .next t ∧ Rules.Ended s t c 1 ∧ (t.home h).st = .ready ∧ Rules.hstate t h = 2
            ∧ (t.home h).held = false ∧ t.mem = s.mem)
      ∧ (Rules.commandIs s 9 c → (s.home h).st ≠ .drained →
          ∃ t, exec (.homeReturn c) s = .next t ∧ Rules.Ended s t c 3 ∧ (t.home h).st = (s.home h).st ∧ t.mem = s.mem)
      ∧ (Rules.commandIs s 8 c → (s.home h).st = .drained → memRun s c.a1.toNat c.a2.toNat = true →
          ∃ t u v, exec (.update c false true) s = .next t ∧ Rules.Ended s t c 2 ∧ (t.home h).st = .drained
            ∧ exec (.update c true false) s = .next u ∧ Rules.Ended s u c 1 ∧ (u.home h).st = .failed
            ∧ exec (.update c true true) s = .next v ∧ Rules.Ended s v c 1 ∧ (v.home h).st = .drained)
      ∧ (Rules.commandIs s 0xB c → c.a2.toNat ≤ 256 → memRun s c.a1.toNat (16 * c.a2.toNat) = true →
          ∃ t, exec (.movlist c) s = .next t ∧ Rules.Ended s t c 1 ∧ t.mem = s.mem ∧ (t.home h).counts = [] ∧ (t.home h).movable.length = c.a2.toNat
            ∧ ∀ k, k < c.a2.toNat → (t.home h).movable[k]?
                = some (Bytes.readN s.mem (c.a1.toNat + 16 * k) 8, Bytes.readN s.mem (c.a1.toNat + 16 * k + 8) 8))
      ∧ (Rules.commandIs s 0xC c → c.a1.toNat < 64 → c.a3.toNat % 2 ^ 16 = 0 → c.a3 ≠ 0 → c.a2.toNat + c.a3.toNat ≤ 2 ^ 44 →
          ∃ t w, exec (.hwin c) s = .next t ∧ Rules.Ended s t c 1 ∧ t.mem = s.mem ∧ w ∈ (t.pkg c.pkg).windows ∧ w.home = h
            ∧ w.window = c.a1.toNat ∧ w.base = c.a2.toNat ∧ w.len = c.a3.toNat ∧ w.remote = c.a4
            ∧ ∀ x ∈ (t.pkg c.pkg).windows, x.home = h → x.window = w.window → x = w)
      ∧ (Rules.commandIs s 0xC c → c.a1.toNat < 64 → c.a3 = 0 → c.a2.toNat ≤ 2 ^ 44 →
          ∃ t, exec (.hwin c) s = .next t ∧ Rules.Ended s t c 1 ∧ t.mem = s.mem
            ∧ ∀ x, x ∈ (t.pkg c.pkg).windows ↔ x ∈ (s.pkg c.pkg).windows ∧ ¬(x.home = h ∧ x.window = c.a1.toNat))
      ∧ (Rules.commandIs s 0xF c → partnerOk s h c.a1 = true →
          ∃ t, exec (.partner c) s = .next t ∧ Rules.Ended s t c 1 ∧ (t.home h).partner = some (c.a1.setWidth 8) ∧ t.mem = s.mem))
    ∧ ∀ (s : State) (c : CmdArgs), Rules.commandIs s 0xA c → memRun s c.a0.toNat 128 = true →
        routeOk s c.pkg ((List.range 16).map fun d => s.mem.readN (c.a0.toNat + 8 * d) 8) = true →
        ∃ t, exec (.route c) s = .next t ∧ Rules.Ended s t c 1 ∧ t.mem = s.mem
          ∧ ∀ d, d < 16 → (Cells.get 0 (t.pkg c.pkg).routes d).toNat = Bytes.readN s.mem (c.a0.toNat + 8 * d) 8

/-- ATTEST writes its report of 3469 bytes, signed; MOVE starts a page move; TLBINV and ICINV register their invalidation, whose
completion, once it has reached every unit, discards what they name and ends them; any other CODE is refused. That home 0 of the
command's package registers the invalidation is the model's choice (log 37). -/
def Obligations.CommandsOnPagesAndReports : Prop :=
  ∀ (s : State) (c : CmdArgs),
    (Rules.commandIs s 0xD c → memRun s c.a0.toNat 32 = true → memRun s c.a1.toNat 3469 = true → hasIdentity s c.pkg = true →
        ∃ t, exec (.attest c) s = .next t ∧ Rules.Ended s t c 1
          ∧ Rules.report s t c.pkg c.a1.toNat c.a0.toNat
          ∧ ∀ a, ¬(c.a1.toNat ≤ a ∧ a < c.a1.toNat + 3469) → Bytes.read t.mem a = Bytes.read s.mem a)
      ∧ (∀ e n, Rules.commandIs s 0xE c → c.a0.toNat % 8 = 0 → leafAt s c.a0.toNat = some (e, n) →
          let h := homeOfPa (servedFrame s e)
          let u := s.setHome h fun x => { x with mvPte := c.a0, mvDest := c.a1 }
          moveCode s h c.a0.toNat c.a1.toNat = 0 → moveCode u h c.a0.toNat c.a1.toNat = 0 → leafAt u c.a0.toNat = some (e, n) →
          ∃ t, exec (.move c) s = .next t ∧ Rules.Ended s t c 1 ∧ (t.home h).mvState = 1 ∧ (t.home h).mvPte = c.a0
            ∧ (t.home h).mv = some { old := servedFrame u e, new := c.a1.toNat, size := n, pte := c.a0.toNat } ∧ t.mem = s.mem)
      ∧ (memRun s c.a0.toNat 64 = true → c.a0.toNat % 64 = 0 → c.a1.toNat < 2 ^ 56 →
          let n := c.a2.toNat
          let waits (t : State) (ic : Bool) (unit : Nat) : Prop :=
            t.invals = s.invals ++ [{ id := s.fresh, icache := ic, ctx := some c.a0.toNat, home := c.pkg * 16, cmd := some c.pkg
                                      lo := if n = 0 then 0 else c.a1.toNat / unit * unit
                                      hi := if n = 0 then 2 ^ 56 else (c.a1.toNat / unit + n) * unit }]
              ∧ cmdHead t c.pkg = cmdHead s c.pkg ∧ t.mem = s.mem ∧ t.homes = s.homes ∧ t.stale = s.stale
          (Rules.commandIs s 0x10 c → ∃ t, exec (.tlbinvCommand c) s = .next t ∧ waits t false (2 ^ 16))
            ∧ (Rules.commandIs s 0x11 c → ∃ t, exec (.icinvCommand c) s = .next t ∧ waits t true 64))
      ∧ (∀ v, (s.invals.find? fun y => y.id == v.id) = some v → allReached s v.home = false →
          exec (.invalidationComplete v.id) s = .next s)
      ∧ (∀ v, (s.invals.find? fun y => y.id == v.id) = some v → v.icache = false → allReached s v.home = true →
          ∃ t, exec (.invalidationComplete v.id) s = .next t ∧ (∀ y ∈ t.invals, y.id ≠ v.id) ∧ t.mem = s.mem
            ∧ (∀ h, ∀ e ∈ (t.home h).tlb, ¬((v.ctx = none ∨ v.ctx = some e.1) ∧ e.2.1 < v.hi ∧ v.lo < e.2.1 + e.2.2.2))
            ∧ (v.cmd = none → s.g.sp.inval = some v.id → t.g.sp.inval = none ∧ t.g.sp.pc = (complete s).g.sp.pc)
            ∧ (v.cmd = some c.pkg → Rules.Ended s t c 1))
      ∧ ∀ k, Rules.commandIs s k c → k = 0 ∨ 0x11 < k →
          ∃ t, exec (.unknownCommand c) s = .next t ∧ Rules.Ended s t c 2 ∧ { t with pkgs := s.pkgs } = s

/-- Bring-up: a package joins at power-on with its number and a fresh control page, and one of a number in use does not join;
IDFAIL of a die follows what its correction gave, and IDHASH is zero while a die has no identity; each die passes its stages 0,
1 and 3, or fails them; a home with a sound core reports ready, another fails; a draining home that holds nothing is drained.
Temperature, supply and clocks: a stack is hot above 85 °C, no more below 80 °C, and keeps its state between; a droop is counted
at both homes of its die; CLOCK of a die rises by one; a core's reset is noted, and the record of a forwarded diagnostic card
that belongs to the core is launched there. -/
def Obligations.BringUpAndEnvironment : Prop :=
  (∀ (s : State) (p d : Nat),
      (∀ pins : BitVec 4, (s.pkg pins.toNat).present = false →
          ∃ t, exec (.powerOn pins) s = .next t ∧ (t.pkg pins.toNat).present = true ∧ t.pageN pins.toNat 6 1 = pins.toNat
            ∧ (∀ k, t.die pins.toNat k = {}) ∧ cmdHead t pins.toNat = cmdTail t pins.toNat ∧ { t with pkgs := s.pkgs } = s)
        ∧ (∀ pins : BitVec 4, (s.pkg pins.toNat).present = true →
            ∃ t, exec (.powerOn pins) s = .next t ∧ t.mem = s.mem ∧ t.homes = s.homes ∧ t.g = s.g ∧ t.others = s.others
              ∧ (∀ q, q < 16 → (t.pkg q).present = (s.pkg q).present) ∧ ∀ q k, q < 16 → t.die q k = s.die q k)
        ∧ (∀ image, inStage s p d 0 = true →
            ∃ t u, exec (.bootImageVerify p d true image) s = .next t ∧ (t.die p d).stage = 1 ∧ (t.die p d).failed = false
              ∧ (∀ h ∈ [p * 16 + 2 * d, p * 16 + 2 * d + 1], (t.home h).st = .down ∧ Rules.hstate t h = 1)
              ∧ (d = 0 → ∃ q ∈ (t.home (p * 16)).queues, q.boot = true ∧ q.hdr = (Config.bootQueue image).1)
              ∧ exec (.bootImageVerify p d false image) s = .next u ∧ (u.die p d).failed = true ∧ (u.die p d).identity = false
              ∧ (∀ h ∈ [p * 16 + 2 * d, p * 16 + 2 * d + 1], (u.home h).st = .failed ∧ Rules.hstate u h = 6)
              ∧ t.mem = s.mem ∧ u.mem = s.mem)
        ∧ (∀ ok, inStage s p d 1 = true → ∃ t, exec (.dieIdentity p d ok) s = .next t ∧ (t.die p d).stage = 2
              ∧ (t.die p d).identity = ok ∧ t.mem = s.mem
              ∧ Nat.testBit (Bytes.readN (t.pkg p).page 7 1) d = !ok
              ∧ (∀ j, j < 6 → j ≠ d → Nat.testBit (Bytes.readN (t.pkg p).page 7 1) j = Nat.testBit (Bytes.readN (s.pkg p).page 7 1) j)
              ∧ (ok = false → ∀ k, k < 32 → Bytes.read (t.pkg p).page (0xA0 + k) = 0))
        ∧ (inStage s p d 2 = true → diagnosed s p d = true →
            ∃ t u, exec (.calibration p d true) s = .next t ∧ (t.die p d).stage = 3 ∧ t.homes = s.homes
              ∧ exec (.calibration p d false) s = .next u
              ∧ ∀ h ∈ [p * 16 + 2 * d, p * 16 + 2 * d + 1], (u.home h).st = .failed)
        ∧ (∀ h, inStage s (homePkg h) (homeDie h) 3 = true → (s.home h).st = .down → h % 16 < 12 →
            ((homeCores h).all (coreMarked s) = false →
                ∃ t, exec (.homeReady h) s = .next t ∧ (t.home h).st = .ready ∧ Rules.hstate t h = 2 ∧ t.mem = s.mem)
              ∧ ((homeCores h).all (coreMarked s) = true →
                ∃ t, exec (.homeReady h) s = .next t ∧ (t.home h).st = .failed ∧ Rules.hstate t h = 6 ∧ t.mem = s.mem))
        ∧ ∀ h, (s.home h).st = .draining → homeEmpty s h = true →
            ∃ t, exec (.homeDrained h) s = .next t ∧ (t.home h).st = .drained ∧ Rules.hstate t h = 4 ∧ (t.home h).held = true ∧ t.mem = s.mem)
    ∧ (∀ (s : State) (h p d c n : Nat),
      (∃ t, exec (.temperatureChange h n) s = .next t ∧ (t.home h).stemp = BitVec.ofNat 8 n ∧ t.mem = s.mem ∧ t.g = s.g
          ∧ ((t.home h).hot = true ↔ 85 < n ∨ (80 ≤ n ∧ (s.home h).hot = true)) ∧ ∀ k, k ≠ h → t.home k = s.home k)
        ∧ (∃ t, exec (.supplyDroop p d) s = .next t ∧ { t with homes := s.homes } = s
            ∧ ∀ k, t.home k = if k = p * 16 + 2 * d ∨ k = p * 16 + 2 * d + 1 then { s.home k with droops := (s.home k).droops + 1 }
                              else s.home k)
        ∧ (∃ t, exec (.clockIncrement p d) s = .next t ∧ { t with pkgs := s.pkgs } = s
            ∧ t.die p d = { s.die p d with clock := (s.die p d).clock + 1 } ∧ ∀ q k, (q, k) ≠ (p, d) → t.die q k = s.die q k)
        ∧ (∃ t, exec (.coreResetComplete c) s = .next t ∧ (t.core c).wasReset = true
            ∧ ((∀ x ∈ s.cards, x.diag = false) → { t with cores := s.cores } = s)
            ∧ ∀ x r a b, s.cards = [x] → x.diag = true → homePkg x.home = homePkg (coreHome c) → x.ranges = [r] → r.routed = true →
                r.owner = coreHome c → r.recs = [(a, b)] → a ≤ 40 * (coreHome c % 16) + c % 64 → 40 * (coreHome c % 16) + c % 64 < b →
                coreResidents s c = [] →
                ∃ g, t.others = s.others ++ [g] ∧ g.life = .live ∧ g.diag = true ∧ g.sp.part = some (c * 4) ∧ g.baseHome = coreHome c
                  ∧ g.v = [] ∧ g.card = x.id ∧ (t.core c).count = 0 ∧ (t.core c).status = 0))

/-! ### The step, the encodings, reset -/

/-- A STEP RUNS THE DECODED INSTRUCTION. Where the turn of a split has come (levels without a candidate have lost their counts)
that may go on in its issued clause, its words decode to i, and nothing makes i wait (a register that a load still writes, a
back-edge that compares loaded values, a region that closes while MATRIX is not 0, a copy fault in WAITC), the step is exec of i
in that state with its length counted, under the checks that surround every instruction: a trap of the instruction stands as
exec leaves it; without poison in its operands and without an error to inject, the step is exec's next state behind what follows
an instruction that took effect. -/
def Obligations.StepRunsDecodedInstruction : Prop :=
  ∀ (s0 s u : State) (i : Instr) (rest : List Turn), s0.agenda = .run s.g.gid s.g.sp.idx :: rest → s = settleLevels { s0 with agenda := rest } →
    mayGo s.g = true → s.g.sp.clause.stage = .issued → onPath s.g = none → u = withLength s → overruns u.g = false →
    decode s.g.sp.clause.hdr.cls (s.g.sp.clause.words.drop s.g.sp.clause.pos) = .ok i → faultInWait i u = none →
    hazard (uses u i) u.g = false → awaitsLoads u i = false →
    (closes u i (uses u i) = false ∨ (s.g.sp.err = none ∧ counter .matrix s.g.sp = 0)) →
    { u with g := { u.g with sp := { u.g.sp with clause := s.g.sp.clause } } } = s
      ∧ u.g.sp.clause.len = wordCount s.g.sp.clause.hdr.cls (lit0 (s.g.sp.clause.words.drop s.g.sp.clause.pos))
      ∧ step s0 = checkInstr i false u (exec i u)
      ∧ ∀ t, exec i u = .next t →
          (trapped u t = true → step s0 = .next t)
            ∧ (trapped u t = false → poisonRead u i = none → countsAsOne u = false →
                step s0 = .next (afterEffect u i (uses u i) t))

/-- Words written out from the encodings of 02, with every field at a value of its own, decode to their instructions. -/
def Obligations.DecodedWordsAreRight : Prop :=
  decode .sctl [0x14304200] = .ok (.sadd 3 1 2)
    ∧ decode .sctl [0x98500007] = .ok (.loop 5 7)
    ∧ decode .valu [0x04850102] = .ok (.vadd { nwb := true, d := 5, a := .v 1, b := .v 2 })
    ∧ decode .vspc [0x40060300] = .ok (.popc { nwb := false, d := 6, a := .v 3 })
    ∧ decode .mem [0x1030A042] = .ok (.ldw { ls := 3, vd := 5, va := 1, sb := 2 })
    ∧ decode .mtx [0x00280C40]
        = .ok (.mma { shape := 1, fs := 2, reuse := false, a := 3, desc := 4, acc := false, neg := false, trb := false, evt := false })
    ∧ decode .copy [0x00100280] = .ok (.itld 1 2 true false)
    ∧ decode .sync [0xA0100015] = .ok (.seam 1 .join 5)
    ∧ decode .sys [0x00000005] = .ok (.trap 5)

/-- The machine after reset: no group, nothing in flight, no package powered, and memory in its canonical form (what unlisted
memory reads as, and CLOCK, are the model's choices: log 2, log 3). -/
def Obligations.ResetIsCanonical : Prop :=
  Memory.wf State.reset.mem = true ∧ State.reset.g.life = .vacant ∧ State.reset.others = [] ∧ State.reset.packets = []
    ∧ State.reset.cards = [] ∧ (∀ p, (State.reset.pkg p).present = false) ∧ State.reset.hostMem = [] ∧ ∀ a, Bytes.read State.reset.mem a = 0

namespace Sys2Proof.Rules
open Sys2Proof Sys2Proof.Machine

/-- The rows of the opcode table that are steps of the machine and its environment, without words (spec/95). -/
def isStep : Instr → Bool
  | .clauseFetch .. | .clauseIssue .. | .issueDueLevel .. | .counterRoom .. | .safePointOverrunTrap ..
  | .translationWalkDone .. | .inPlaceAccessComplete .. | .packetAccept .. | .hotLineRunClose ..
  | .arrivalAcknowledge .. | .hierarchicalArrival .. | .orderingHoldEnd .. | .jacketDepart ..
  | .jacketArrive .. | .admitItem .. | .waitWake .. | .spinDetectorFire .. | .spinWaitTimeout .. | .brpResolve ..
  | .matrixOperandsConsumed .. | .matrixComplete .. | .copyStart .. | .copyFinish .. | .copyFaultReport ..
  | .waitCounterSatisfied .. | .trapEntry .. | .handlerStart .. | .regionRestart .. | .teamRollback ..
  | .preemptSave .. | .teamSave .. | .groupRetire .. | .append .. | .cardTake .. | .chunkDeal .. | .steal ..
  | .balancerMove .. | .mirrorCopyAccept .. | .dieReset .. | .flitReceive .. | .linkDown .. | .linkRetrained ..
  | .reorderWindowRoom .. | .packageLost .. | .pageMoveStart .. | .cutover .. | .redirect .. | .pageMoveEnd ..
  | .autoPageMove .. | .partnerWrite .. | .registerWrite .. | .rdmaWrite .. | .rdmaRead .. | .rdmaSend ..
  | .atomicFetchAdd .. | .atomicCompareSwap .. | .invalidRequest .. | .regq .. | .unregq ..
  | .preemptCommand .. | .resume .. | .kill .. | .replay .. | .drain .. | .update .. | .homeReturn ..
  | .route .. | .movlist .. | .hwin .. | .attest .. | .move .. | .partner .. | .tlbinvCommand ..
  | .icinvCommand .. | .unknownCommand .. | .homeDrained .. | .powerOn .. | .bootImageVerify ..
  | .dieIdentity .. | .calibration .. | .homeReady .. | .temperatureChange .. | .supplyDroop ..
  | .portStateChange .. | .coreResetComplete .. | .uncorrectableEccError .. | .invalidationComplete ..
  | .checkpointCrcComplete .. | .roceAcknowledgement .. | .clockIncrement .. => true
  | _ => false

end Sys2Proof.Rules

/-- DECODE AND ENCODE AGREE: the words of every well-formed instruction decode, in its class, to it, and every well-formed
instruction of the rows of spec/02 has words, one or two. -/
def Obligations.DecodeEncodeRoundTrip : Prop :=
  (∀ (i : Instr) (c : EngineClass) (ws : List Word), WellFormed i = true → encode i = some (c, ws) → decode c ws = .ok i)
    ∧ ∀ i : Instr, WellFormed i = true → Rules.isStep i = false →
        ∃ c ws, encode i = some (c, ws) ∧ 0 < ws.length ∧ ws.length = wordCount c (lit0 ws) ∧ decode c ws = .ok i

/-- Every step keeps the device's memory and the host's in their canonical form: strictly rising addresses, and no listed byte
that an unlisted address reads as. -/
def Obligations.StepKeepsMemoryCanonical : Prop :=
  ∀ (s t : State), step s = .next t →
    (Memory.wf s.mem = true → Memory.wf t.mem = true) ∧ (Memory.wf s.hostMem = true → Memory.wf t.hostMem = true)
end

