-- ==== Sys2Proof/Laws/Cells.lean ====
section
/-! SUPPORT. Laws of the sparse maps: what a read gives after a write, and that every operation keeps the canonical form. -/

namespace Sys2Proof.Machine

variable {α : Type}

@[simp] theorem Cells.get_nil (d : α) (k : Nat) : Cells.get d [] k = d := rfl

theorem Cells.get_cons (d : α) (e : Nat × α) (m : Cells α) (k : Nat) :
    Cells.get d (e :: m) k = if k = e.1 then e.2 else Cells.get d m k := rfl

theorem Cells.get_insert (d v : α) (k j : Nat) :
    ∀ m : Cells α, Cells.get d (m.insert k v) j = if j = k then v else Cells.get d m j
  | [] => rfl
  | (k', v') :: m => by
    unfold Cells.insert
    split
    · rfl
    · split
      · subst k'; by_cases h : j = k <;> simp [Cells.get_cons, h]
      · rename_i h1 h2
        simp only [Cells.get_cons, Cells.get_insert d v k j m]
        by_cases h : j = k
        · subst h; simp [h2]
        · simp [h]

/-- A filter on keys keeps what it lets through. -/
theorem Cells.get_filter (d : α) (p : Nat → Bool) (k : Nat) :
    ∀ m : Cells α, Cells.get d (m.filter fun e => p e.1) k = if p k then Cells.get d m k else d
  | [] => by simp
  | e :: m => by
    by_cases h : p e.1 <;> by_cases hk : k = e.1
    · subst hk; simp [h, Cells.get_cons]
    · simp [h, Cells.get_cons, hk, Cells.get_filter d p k m]
    · subst hk; simp [h, Cells.get_filter d p e.1 m]
    · simp [h, Cells.get_cons, hk, Cells.get_filter d p k m]

theorem Cells.get_drop (d : α) (m : Cells α) (p : Nat → Bool) (k : Nat) :
    Cells.get d (m.drop p) k = if p k then d else Cells.get d m k := by
  have h := Cells.get_filter d (fun k => !p k) k m
  unfold Cells.drop
  rw [h]
  cases p k <;> simp

theorem Cells.get_erase (d : α) (m : Cells α) (k j : Nat) :
    Cells.get d (m.erase k) j = if j = k then d else Cells.get d m j := by
  have h := Cells.get_filter d (fun j => decide (j ≠ k)) j m
  unfold Cells.erase
  rw [h]
  by_cases h : j = k <;> simp [h]

variable [DecidableEq α]

/-- A read after a write. -/
@[simp] theorem Cells.get_set (d v : α) (m : Cells α) (k j : Nat) :
    Cells.get d (Cells.set d m k v) j = if j = k then v else Cells.get d m j := by
  unfold Cells.set
  split
  · rename_i h; subst h; exact Cells.get_erase v m k j
  · exact Cells.get_insert d v k j m

/-- A read after consecutive writes. -/
theorem Cells.get_setMany (d : α) (vs : List α) (j : Nat) :
    ∀ (m : Cells α) (k : Nat), Cells.get d (Cells.setMany d m k vs) j
      = if k ≤ j ∧ j < k + vs.length then (vs[j - k]?).getD d else Cells.get d m j := by
  induction vs with
  | nil => intro m k; simp [Cells.setMany]
  | cons v vs ih =>
    intro m k
    unfold Cells.setMany
    rw [ih, Cells.get_set]
    by_cases h1 : j = k
    · subst h1; simp
    · by_cases h2 : k < j
      · have e : j - k = (j - (k + 1)) + 1 := by omega
        by_cases h3 : j < k + 1 + vs.length
        · rw [if_pos ⟨h2, h3⟩, if_pos ⟨by omega, by simp; omega⟩, e]; simp
        · rw [if_neg (by omega), if_neg h1, if_neg (by simp; omega)]
      · rw [if_neg (by omega), if_neg h1, if_neg (by omega)]

/-! ### The canonical form -/

theorem Cells.wfFrom_mono (d : α) {n k : Nat} (h : k ≤ n) : ∀ {m : Cells α}, Cells.wfFrom d n m = true → Cells.wfFrom d k m = true
  | [], _ => rfl
  | (k', v) :: m, hm => by
    simp only [Cells.wfFrom, Bool.and_eq_true, decide_eq_true_eq] at hm ⊢
    exact ⟨⟨by omega, hm.1.2⟩, hm.2⟩

theorem Cells.wfFrom_filter (d : α) (p : Nat × α → Bool) :
    ∀ {m : Cells α} {n : Nat}, Cells.wfFrom d n m = true → Cells.wfFrom d n (m.filter p) = true
  | [], _, _ => rfl
  | (k', v) :: m, n, hm => by
    simp only [Cells.wfFrom, Bool.and_eq_true, decide_eq_true_eq] at hm
    have ih := Cells.wfFrom_filter d p (m := m) (n := k' + 1) hm.2
    simp only [List.filter_cons]
    split
    · simp only [Cells.wfFrom, Bool.and_eq_true, decide_eq_true_eq]; exact ⟨hm.1, ih⟩
    · exact Cells.wfFrom_mono d (by omega) ih

theorem Cells.wfFrom_insert (d v : α) (hv : v ≠ d) (k : Nat) :
    ∀ {m : Cells α} {n : Nat}, n ≤ k → Cells.wfFrom d n m = true → Cells.wfFrom d n (m.insert k v) = true
  | [], n, hn, _ => by simp [Cells.insert, Cells.wfFrom, hn, hv]
  | (k', v') :: m, n, hn, hm => by
    simp only [Cells.wfFrom, Bool.and_eq_true, decide_eq_true_eq] at hm
    unfold Cells.insert
    split
    · simp only [Cells.wfFrom, Bool.and_eq_true, decide_eq_true_eq]; exact ⟨⟨hn, hv⟩, ⟨by omega, hm.1.2⟩, hm.2⟩
    · split
      · subst k'; simp only [Cells.wfFrom, Bool.and_eq_true, decide_eq_true_eq]; exact ⟨⟨hn, hv⟩, hm.2⟩
      · simp only [Cells.wfFrom, Bool.and_eq_true, decide_eq_true_eq]
        exact ⟨hm.1, Cells.wfFrom_insert d v hv k (by omega) hm.2⟩

/-- A write keeps the canonical form. -/
theorem Cells.wf_set (d v : α) (k : Nat) {m : Cells α} (h : Cells.wf d m = true) : Cells.wf d (Cells.set d m k v) = true := by
  unfold Cells.set
  split
  · exact Cells.wfFrom_filter d _ h
  · rename_i hv; exact Cells.wfFrom_insert d v hv k (Nat.zero_le k) h

theorem Cells.wf_drop (d : α) (p : Nat → Bool) {m : Cells α} (h : Cells.wf d m = true) : Cells.wf d (m.drop p) = true :=
  Cells.wfFrom_filter d _ h

theorem Cells.wf_setMany (d : α) (vs : List α) : ∀ {m : Cells α} {k : Nat}, Cells.wf d m = true → Cells.wf d (Cells.setMany d m k vs) = true := by
  induction vs with
  | nil => intro m k h; exact h
  | cons v vs ih => intro m k h; exact ih (Cells.wf_set d v k h)

/-! ### Bytes -/

@[simp] theorem Bytes.read_set (m : Bytes) (k a : Nat) (v : Byte) : Bytes.read (Cells.set 0 m k v) a = if a = k then v else Bytes.read m a :=
  Cells.get_set 0 v m k a

theorem Bytes.read_write (m : Bytes) (k a : Nat) (bs : List Byte) :
    Bytes.read (Bytes.write m k bs) a = if k ≤ a ∧ a < k + bs.length then (bs[a - k]?).getD 0 else Bytes.read m a :=
  Cells.get_setMany 0 bs a m k

@[simp] theorem leBytes_length (n x : Nat) : (leBytes n x).length = n := by
  induction n generalizing x with
  | zero => rfl
  | succ n ih => simp [leBytes, ih]

/-- The bytes of a number give it back. -/
theorem leNat_leBytes (n x : Nat) : leNat (leBytes n x) = x % 2 ^ (8 * n) := by
  induction n generalizing x with
  | zero => simp [leBytes, leNat]; omega
  | succ n ih =>
    simp only [leBytes, leNat, ih, BitVec.toNat_ofNat]
    have e : 2 ^ (8 * (n + 1)) = 256 * 2 ^ (8 * n) := by rw [Nat.mul_add, Nat.pow_add]; ring
    rw [e, Nat.mod_mul]

end Sys2Proof.Machine
end

