-- ==== Sys2Proof/Laws/State.lean ====
section
/-! SUPPORT. One law for each field and each named update of the state, so that no later proof unfolds a record update. -/

namespace Sys2Proof.Machine


/-! ### The focused split -/

@[simp] theorem setSp_others (s : State) (f : Split → Split) : (s.setSp f).others = s.others := rfl
@[simp] theorem setSp_mem (s : State) (f : Split → Split) : (s.setSp f).mem = s.mem := rfl
@[simp] theorem setSp_poison (s : State) (f : Split → Split) : (s.setSp f).poison = s.poison := rfl
@[simp] theorem setSp_drowned (s : State) (f : Split → Split) : (s.setSp f).drowned = s.drowned := rfl
@[simp] theorem setSp_hostMem (s : State) (f : Split → Split) : (s.setSp f).hostMem = s.hostMem := rfl
@[simp] theorem setSp_packets (s : State) (f : Split → Split) : (s.setSp f).packets = s.packets := rfl
@[simp] theorem setSp_parts (s : State) (f : Split → Split) : (s.setSp f).parts = s.parts := rfl
@[simp] theorem setSp_cores (s : State) (f : Split → Split) : (s.setSp f).cores = s.cores := rfl
@[simp] theorem setSp_leases (s : State) (f : Split → Split) : (s.setSp f).leases = s.leases := rfl
@[simp] theorem setSp_homes (s : State) (f : Split → Split) : (s.setSp f).homes = s.homes := rfl
@[simp] theorem setSp_cards (s : State) (f : Split → Split) : (s.setSp f).cards = s.cards := rfl
@[simp] theorem setSp_launches (s : State) (f : Split → Split) : (s.setSp f).launches = s.launches := rfl
@[simp] theorem setSp_pkgs (s : State) (f : Split → Split) : (s.setSp f).pkgs = s.pkgs := rfl
@[simp] theorem setSp_stale (s : State) (f : Split → Split) : (s.setSp f).stale = s.stale := rfl
@[simp] theorem setSp_invals (s : State) (f : Split → Split) : (s.setSp f).invals = s.invals := rfl
@[simp] theorem setSp_roce (s : State) (f : Split → Split) : (s.setSp f).roce = s.roce := rfl
@[simp] theorem setSp_mirrors (s : State) (f : Split → Split) : (s.setSp f).mirrors = s.mirrors := rfl
@[simp] theorem setSp_degraded (s : State) (f : Split → Split) : (s.setSp f).degraded = s.degraded := rfl
@[simp] theorem setSp_agenda (s : State) (f : Split → Split) : (s.setSp f).agenda = s.agenda := rfl
@[simp] theorem setSp_free (s : State) (f : Split → Split) : (s.setSp f).free = s.free := rfl
@[simp] theorem setSp_fresh (s : State) (f : Split → Split) : (s.setSp f).fresh = s.fresh := rfl
@[simp] theorem setSp_sp (s : State) (f : Split → Split) : (s.setSp f).g.sp = f s.g.sp := rfl
@[simp] theorem setSp_g_life (s : State) (f : Split → Split) : (s.setSp f).g.life = s.g.life := rfl
@[simp] theorem setSp_g_gid (s : State) (f : Split → Split) : (s.setSp f).g.gid = s.g.gid := rfl
@[simp] theorem setSp_g_w (s : State) (f : Split → Split) : (s.setSp f).g.w = s.g.w := rfl
@[simp] theorem setSp_g_v (s : State) (f : Split → Split) : (s.setSp f).g.v = s.g.v := rfl
@[simp] theorem setSp_g_p (s : State) (f : Split → Split) : (s.setSp f).g.p = s.g.p := rfl
@[simp] theorem setSp_g_em (s : State) (f : Split → Split) : (s.setSp f).g.em = s.g.em := rfl
@[simp] theorem setSp_g_bcur (s : State) (f : Split → Split) : (s.setSp f).g.bcur = s.g.bcur := rfl
@[simp] theorem setSp_g_fs (s : State) (f : Split → Split) : (s.setSp f).g.fs = s.g.fs := rfl
@[simp] theorem setSp_g_baseHome (s : State) (f : Split → Split) : (s.setSp f).g.baseHome = s.g.baseHome := rfl
@[simp] theorem setSp_g_recIdx (s : State) (f : Split → Split) : (s.setSp f).g.recIdx = s.g.recIdx := rfl
@[simp] theorem setSp_g_grpInRec (s : State) (f : Split → Split) : (s.setSp f).g.grpInRec = s.g.grpInRec := rfl
@[simp] theorem setSp_g_ctx (s : State) (f : Split → Split) : (s.setSp f).g.ctx = s.g.ctx := rfl
@[simp] theorem setSp_g_card (s : State) (f : Split → Split) : (s.setSp f).g.card = s.g.card := rfl
@[simp] theorem setSp_g_diag (s : State) (f : Split → Split) : (s.setSp f).g.diag = s.g.diag := rfl
@[simp] theorem setSp_g_prio (s : State) (f : Split → Split) : (s.setSp f).g.prio = s.g.prio := rfl
@[simp] theorem setSp_g_floorPrio (s : State) (f : Split → Split) : (s.setSp f).g.floorPrio = s.g.floorPrio := rfl
@[simp] theorem setSp_g_team (s : State) (f : Split → Split) : (s.setSp f).g.team = s.g.team := rfl
@[simp] theorem setSp_g_teamVa (s : State) (f : Split → Split) : (s.setSp f).g.teamVa = s.g.teamVa := rfl
@[simp] theorem setSp_g_teamPte (s : State) (f : Split → Split) : (s.setSp f).g.teamPte = s.g.teamPte := rfl
@[simp] theorem setSp_g_teamId (s : State) (f : Split → Split) : (s.setSp f).g.teamId = s.g.teamId := rfl
@[simp] theorem setSp_g_note (s : State) (f : Split → Split) : (s.setSp f).g.note = s.g.note := rfl
@[simp] theorem setSp_g_acks (s : State) (f : Split → Split) : (s.setSp f).g.acks = s.g.acks := rfl
@[simp] theorem setSp_g_slot (s : State) (f : Split → Split) : (s.setSp f).g.slot = s.g.slot := rfl
@[simp] theorem setSp_g_tileRows (s : State) (f : Split → Split) : (s.setSp f).g.tileRows = s.g.tileRows := rfl
@[simp] theorem setSp_g_tile (s : State) (f : Split → Split) : (s.setSp f).g.tile = s.g.tile := rfl
@[simp] theorem setSp_g_ovf (s : State) (f : Split → Split) : (s.setSp f).g.ovf = s.g.ovf := rfl
@[simp] theorem setSp_g_ovfLate (s : State) (f : Split → Split) : (s.setSp f).g.ovfLate = s.g.ovfLate := rfl
@[simp] theorem setSp_g_seams (s : State) (f : Split → Split) : (s.setSp f).g.seams = s.g.seams := rfl
@[simp] theorem setSp_g_sup (s : State) (f : Split → Split) : (s.setSp f).g.sup = s.g.sup := rfl
@[simp] theorem setSp_g_floor (s : State) (f : Split → Split) : (s.setSp f).g.floor = s.g.floor := rfl
@[simp] theorem setSp_g_handler (s : State) (f : Split → Split) : (s.setSp f).g.handler = s.g.handler := rfl
@[simp] theorem setSp_g_seamSv (s : State) (f : Split → Split) : (s.setSp f).g.seamSv = s.g.seamSv := rfl
@[simp] theorem setSp_g_trapvec (s : State) (f : Split → Split) : (s.setSp f).g.trapvec = s.g.trapvec := rfl
@[simp] theorem setSp_g_trapcause (s : State) (f : Split → Split) : (s.setSp f).g.trapcause = s.g.trapcause := rfl
@[simp] theorem setSp_g_trappc (s : State) (f : Split → Split) : (s.setSp f).g.trappc = s.g.trappc := rfl
@[simp] theorem setSp_g_trapaddr (s : State) (f : Split → Split) : (s.setSp f).g.trapaddr = s.g.trapaddr := rfl
@[simp] theorem setSp_g_trapmask (s : State) (f : Split → Split) : (s.setSp f).g.trapmask = s.g.trapmask := rfl
@[simp] theorem setSp_g_traphdr (s : State) (f : Split → Split) : (s.setSp f).g.traphdr = s.g.traphdr := rfl
@[simp] theorem setSp_g_ctxbase (s : State) (f : Split → Split) : (s.setSp f).g.ctxbase = s.g.ctxbase := rfl
@[simp] theorem setSp_g_rpseq (s : State) (f : Split → Split) : (s.setSp f).g.rpseq = s.g.rpseq := rfl
@[simp] theorem setSp_g_rppc (s : State) (f : Split → Split) : (s.setSp f).g.rppc = s.g.rppc := rfl
@[simp] theorem setSp_g_rpjkt (s : State) (f : Split → Split) : (s.setSp f).g.rpjkt = s.g.rpjkt := rfl
@[simp] theorem setSp_g_teamstat (s : State) (f : Split → Split) : (s.setSp f).g.teamstat = s.g.teamstat := rfl
@[simp] theorem setSp_g_diaginj (s : State) (f : Split → Split) : (s.setSp f).g.diaginj = s.g.diaginj := rfl
@[simp] theorem setSp_g_ck (s : State) (f : Split → Split) : (s.setSp f).g.ck = s.g.ck := rfl
@[simp] theorem setSp_g_rcnt (s : State) (f : Split → Split) : (s.setSp f).g.rcnt = s.g.rcnt := rfl
@[simp] theorem setSp_g_path (s : State) (f : Split → Split) : (s.setSp f).g.path = s.g.path := rfl
@[simp] theorem setSp_g_accs (s : State) (f : Split → Split) : (s.setSp f).g.accs = s.g.accs := rfl
@[simp] theorem setSp_g_mtx (s : State) (f : Split → Split) : (s.setSp f).g.mtx = s.g.mtx := rfl
@[simp] theorem setSp_g_copies (s : State) (f : Split → Split) : (s.setSp f).g.copies = s.g.copies := rfl
@[simp] theorem setSp_g_copyFault (s : State) (f : Split → Split) : (s.setSp f).g.copyFault = s.g.copyFault := rfl
@[simp] theorem setSp_g_preempt (s : State) (f : Split → Split) : (s.setSp f).g.preempt = s.g.preempt := rfl
@[simp] theorem setSp_g_halted (s : State) (f : Split → Split) : (s.setSp f).g.halted = s.g.halted := rfl
@[simp] theorem setSp_g_killed (s : State) (f : Split → Split) : (s.setSp f).g.killed = s.g.killed := rfl
@[simp] theorem setSp_g_rollback (s : State) (f : Split → Split) : (s.setSp f).g.rollback = s.g.rollback := rfl
@[simp] theorem setSp_g_lost (s : State) (f : Split → Split) : (s.setSp f).g.lost = s.g.lost := rfl
@[simp] theorem setSp_g_waitTeam (s : State) (f : Split → Split) : (s.setSp f).g.waitTeam = s.g.waitTeam := rfl
@[simp] theorem setSp_g_poisonV (s : State) (f : Split → Split) : (s.setSp f).g.poisonV = s.g.poisonV := rfl
@[simp] theorem setSp_g_poisonTile (s : State) (f : Split → Split) : (s.setSp f).g.poisonTile = s.g.poisonTile := rfl
@[simp] theorem setSp_g_svV (s : State) (f : Split → Split) : (s.setSp f).g.svV = s.g.svV := rfl
@[simp] theorem setSp_g_svS (s : State) (f : Split → Split) : (s.setSp f).g.svS = s.g.svS := rfl
@[simp] theorem setSp_g_svP (s : State) (f : Split → Split) : (s.setSp f).g.svP = s.g.svP := rfl
@[simp] theorem setSp_g_sibs (s : State) (f : Split → Split) : (s.setSp f).g.sibs = s.g.sibs := rfl
@[simp] theorem setSp_setSp (s : State) (f h : Split → Split) : (s.setSp f).setSp h = s.setSp fun sp => h (f sp) := rfl

/-! ### Numbers and free choices -/

@[simp] theorem nextId_g (s : State) : (s.nextId).g = s.g := rfl
@[simp] theorem nextId_others (s : State) : (s.nextId).others = s.others := rfl
@[simp] theorem nextId_mem (s : State) : (s.nextId).mem = s.mem := rfl
@[simp] theorem nextId_poison (s : State) : (s.nextId).poison = s.poison := rfl
@[simp] theorem nextId_drowned (s : State) : (s.nextId).drowned = s.drowned := rfl
@[simp] theorem nextId_hostMem (s : State) : (s.nextId).hostMem = s.hostMem := rfl
@[simp] theorem nextId_packets (s : State) : (s.nextId).packets = s.packets := rfl
@[simp] theorem nextId_parts (s : State) : (s.nextId).parts = s.parts := rfl
@[simp] theorem nextId_cores (s : State) : (s.nextId).cores = s.cores := rfl
@[simp] theorem nextId_leases (s : State) : (s.nextId).leases = s.leases := rfl
@[simp] theorem nextId_homes (s : State) : (s.nextId).homes = s.homes := rfl
@[simp] theorem nextId_cards (s : State) : (s.nextId).cards = s.cards := rfl
@[simp] theorem nextId_launches (s : State) : (s.nextId).launches = s.launches := rfl
@[simp] theorem nextId_pkgs (s : State) : (s.nextId).pkgs = s.pkgs := rfl
@[simp] theorem nextId_stale (s : State) : (s.nextId).stale = s.stale := rfl
@[simp] theorem nextId_invals (s : State) : (s.nextId).invals = s.invals := rfl
@[simp] theorem nextId_roce (s : State) : (s.nextId).roce = s.roce := rfl
@[simp] theorem nextId_mirrors (s : State) : (s.nextId).mirrors = s.mirrors := rfl
@[simp] theorem nextId_degraded (s : State) : (s.nextId).degraded = s.degraded := rfl
@[simp] theorem nextId_agenda (s : State) : (s.nextId).agenda = s.agenda := rfl
@[simp] theorem nextId_free (s : State) : (s.nextId).free = s.free := rfl
@[simp] theorem nextId_fresh (s : State) : s.nextId.fresh = s.fresh + 1 := rfl
@[simp] theorem spend_g (s : State) : (s.spend).g = s.g := rfl
@[simp] theorem spend_others (s : State) : (s.spend).others = s.others := rfl
@[simp] theorem spend_mem (s : State) : (s.spend).mem = s.mem := rfl
@[simp] theorem spend_poison (s : State) : (s.spend).poison = s.poison := rfl
@[simp] theorem spend_drowned (s : State) : (s.spend).drowned = s.drowned := rfl
@[simp] theorem spend_hostMem (s : State) : (s.spend).hostMem = s.hostMem := rfl
@[simp] theorem spend_packets (s : State) : (s.spend).packets = s.packets := rfl
@[simp] theorem spend_parts (s : State) : (s.spend).parts = s.parts := rfl
@[simp] theorem spend_cores (s : State) : (s.spend).cores = s.cores := rfl
@[simp] theorem spend_leases (s : State) : (s.spend).leases = s.leases := rfl
@[simp] theorem spend_homes (s : State) : (s.spend).homes = s.homes := rfl
@[simp] theorem spend_cards (s : State) : (s.spend).cards = s.cards := rfl
@[simp] theorem spend_launches (s : State) : (s.spend).launches = s.launches := rfl
@[simp] theorem spend_pkgs (s : State) : (s.spend).pkgs = s.pkgs := rfl
@[simp] theorem spend_stale (s : State) : (s.spend).stale = s.stale := rfl
@[simp] theorem spend_invals (s : State) : (s.spend).invals = s.invals := rfl
@[simp] theorem spend_roce (s : State) : (s.spend).roce = s.roce := rfl
@[simp] theorem spend_mirrors (s : State) : (s.spend).mirrors = s.mirrors := rfl
@[simp] theorem spend_degraded (s : State) : (s.spend).degraded = s.degraded := rfl
@[simp] theorem spend_agenda (s : State) : (s.spend).agenda = s.agenda := rfl
@[simp] theorem spend_fresh (s : State) : (s.spend).fresh = s.fresh := rfl
@[simp] theorem spend_free (s : State) : s.spend.free = s.free + 1 := rfl

/-! ### The agenda -/

@[simp] theorem push_g (s : State) (ts : List Turn) : (s.push ts).g = s.g := rfl
@[simp] theorem push_others (s : State) (ts : List Turn) : (s.push ts).others = s.others := rfl
@[simp] theorem push_mem (s : State) (ts : List Turn) : (s.push ts).mem = s.mem := rfl
@[simp] theorem push_poison (s : State) (ts : List Turn) : (s.push ts).poison = s.poison := rfl
@[simp] theorem push_drowned (s : State) (ts : List Turn) : (s.push ts).drowned = s.drowned := rfl
@[simp] theorem push_hostMem (s : State) (ts : List Turn) : (s.push ts).hostMem = s.hostMem := rfl
@[simp] theorem push_packets (s : State) (ts : List Turn) : (s.push ts).packets = s.packets := rfl
@[simp] theorem push_parts (s : State) (ts : List Turn) : (s.push ts).parts = s.parts := rfl
@[simp] theorem push_cores (s : State) (ts : List Turn) : (s.push ts).cores = s.cores := rfl
@[simp] theorem push_leases (s : State) (ts : List Turn) : (s.push ts).leases = s.leases := rfl
@[simp] theorem push_homes (s : State) (ts : List Turn) : (s.push ts).homes = s.homes := rfl
@[simp] theorem push_cards (s : State) (ts : List Turn) : (s.push ts).cards = s.cards := rfl
@[simp] theorem push_launches (s : State) (ts : List Turn) : (s.push ts).launches = s.launches := rfl
@[simp] theorem push_pkgs (s : State) (ts : List Turn) : (s.push ts).pkgs = s.pkgs := rfl
@[simp] theorem push_stale (s : State) (ts : List Turn) : (s.push ts).stale = s.stale := rfl
@[simp] theorem push_invals (s : State) (ts : List Turn) : (s.push ts).invals = s.invals := rfl
@[simp] theorem push_roce (s : State) (ts : List Turn) : (s.push ts).roce = s.roce := rfl
@[simp] theorem push_mirrors (s : State) (ts : List Turn) : (s.push ts).mirrors = s.mirrors := rfl
@[simp] theorem push_degraded (s : State) (ts : List Turn) : (s.push ts).degraded = s.degraded := rfl
@[simp] theorem push_free (s : State) (ts : List Turn) : (s.push ts).free = s.free := rfl
@[simp] theorem push_fresh (s : State) (ts : List Turn) : (s.push ts).fresh = s.fresh := rfl
@[simp] theorem push_agenda (s : State) (ts : List Turn) : (s.push ts).agenda = ts ++ s.agenda := rfl

/-! ### Packages, homes, cores and partitions -/

@[simp] theorem setPkg_g (s : State) (n : Nat) (f : Pkg → Pkg) : (s.setPkg n f).g = s.g := rfl
@[simp] theorem setPkg_others (s : State) (n : Nat) (f : Pkg → Pkg) : (s.setPkg n f).others = s.others := rfl
@[simp] theorem setPkg_mem (s : State) (n : Nat) (f : Pkg → Pkg) : (s.setPkg n f).mem = s.mem := rfl
@[simp] theorem setPkg_poison (s : State) (n : Nat) (f : Pkg → Pkg) : (s.setPkg n f).poison = s.poison := rfl
@[simp] theorem setPkg_drowned (s : State) (n : Nat) (f : Pkg → Pkg) : (s.setPkg n f).drowned = s.drowned := rfl
@[simp] theorem setPkg_hostMem (s : State) (n : Nat) (f : Pkg → Pkg) : (s.setPkg n f).hostMem = s.hostMem := rfl
@[simp] theorem setPkg_packets (s : State) (n : Nat) (f : Pkg → Pkg) : (s.setPkg n f).packets = s.packets := rfl
@[simp] theorem setPkg_parts (s : State) (n : Nat) (f : Pkg → Pkg) : (s.setPkg n f).parts = s.parts := rfl
@[simp] theorem setPkg_cores (s : State) (n : Nat) (f : Pkg → Pkg) : (s.setPkg n f).cores = s.cores := rfl
@[simp] theorem setPkg_leases (s : State) (n : Nat) (f : Pkg → Pkg) : (s.setPkg n f).leases = s.leases := rfl
@[simp] theorem setPkg_homes (s : State) (n : Nat) (f : Pkg → Pkg) : (s.setPkg n f).homes = s.homes := rfl
@[simp] theorem setPkg_cards (s : State) (n : Nat) (f : Pkg → Pkg) : (s.setPkg n f).cards = s.cards := rfl
@[simp] theorem setPkg_launches (s : State) (n : Nat) (f : Pkg → Pkg) : (s.setPkg n f).launches = s.launches := rfl
@[simp] theorem setPkg_stale (s : State) (n : Nat) (f : Pkg → Pkg) : (s.setPkg n f).stale = s.stale := rfl
@[simp] theorem setPkg_invals (s : State) (n : Nat) (f : Pkg → Pkg) : (s.setPkg n f).invals = s.invals := rfl
@[simp] theorem setPkg_roce (s : State) (n : Nat) (f : Pkg → Pkg) : (s.setPkg n f).roce = s.roce := rfl
@[simp] theorem setPkg_mirrors (s : State) (n : Nat) (f : Pkg → Pkg) : (s.setPkg n f).mirrors = s.mirrors := rfl
@[simp] theorem setPkg_degraded (s : State) (n : Nat) (f : Pkg → Pkg) : (s.setPkg n f).degraded = s.degraded := rfl
@[simp] theorem setPkg_agenda (s : State) (n : Nat) (f : Pkg → Pkg) : (s.setPkg n f).agenda = s.agenda := rfl
@[simp] theorem setPkg_free (s : State) (n : Nat) (f : Pkg → Pkg) : (s.setPkg n f).free = s.free := rfl
@[simp] theorem setPkg_fresh (s : State) (n : Nat) (f : Pkg → Pkg) : (s.setPkg n f).fresh = s.fresh := rfl
@[simp] theorem setPkg_pkg (s : State) (n : Nat) (f : Pkg → Pkg) (k : Nat) : (s.setPkg n f).pkg k = if k = n then f (s.pkg n) else s.pkg k :=
  Cells.get_set _ _ _ _ _
@[simp] theorem setHome_g (s : State) (n : Nat) (f : Home → Home) : (s.setHome n f).g = s.g := rfl
@[simp] theorem setHome_others (s : State) (n : Nat) (f : Home → Home) : (s.setHome n f).others = s.others := rfl
@[simp] theorem setHome_mem (s : State) (n : Nat) (f : Home → Home) : (s.setHome n f).mem = s.mem := rfl
@[simp] theorem setHome_poison (s : State) (n : Nat) (f : Home → Home) : (s.setHome n f).poison = s.poison := rfl
@[simp] theorem setHome_drowned (s : State) (n : Nat) (f : Home → Home) : (s.setHome n f).drowned = s.drowned := rfl
@[simp] theorem setHome_hostMem (s : State) (n : Nat) (f : Home → Home) : (s.setHome n f).hostMem = s.hostMem := rfl
@[simp] theorem setHome_packets (s : State) (n : Nat) (f : Home → Home) : (s.setHome n f).packets = s.packets := rfl
@[simp] theorem setHome_parts (s : State) (n : Nat) (f : Home → Home) : (s.setHome n f).parts = s.parts := rfl
@[simp] theorem setHome_cores (s : State) (n : Nat) (f : Home → Home) : (s.setHome n f).cores = s.cores := rfl
@[simp] theorem setHome_leases (s : State) (n : Nat) (f : Home → Home) : (s.setHome n f).leases = s.leases := rfl
@[simp] theorem setHome_cards (s : State) (n : Nat) (f : Home → Home) : (s.setHome n f).cards = s.cards := rfl
@[simp] theorem setHome_launches (s : State) (n : Nat) (f : Home → Home) : (s.setHome n f).launches = s.launches := rfl
@[simp] theorem setHome_pkgs (s : State) (n : Nat) (f : Home → Home) : (s.setHome n f).pkgs = s.pkgs := rfl
@[simp] theorem setHome_stale (s : State) (n : Nat) (f : Home → Home) : (s.setHome n f).stale = s.stale := rfl
@[simp] theorem setHome_invals (s : State) (n : Nat) (f : Home → Home) : (s.setHome n f).invals = s.invals := rfl
@[simp] theorem setHome_roce (s : State) (n : Nat) (f : Home → Home) : (s.setHome n f).roce = s.roce := rfl
@[simp] theorem setHome_mirrors (s : State) (n : Nat) (f : Home → Home) : (s.setHome n f).mirrors = s.mirrors := rfl
@[simp] theorem setHome_degraded (s : State) (n : Nat) (f : Home → Home) : (s.setHome n f).degraded = s.degraded := rfl
@[simp] theorem setHome_agenda (s : State) (n : Nat) (f : Home → Home) : (s.setHome n f).agenda = s.agenda := rfl
@[simp] theorem setHome_free (s : State) (n : Nat) (f : Home → Home) : (s.setHome n f).free = s.free := rfl
@[simp] theorem setHome_fresh (s : State) (n : Nat) (f : Home → Home) : (s.setHome n f).fresh = s.fresh := rfl
@[simp] theorem setHome_home (s : State) (n : Nat) (f : Home → Home) (k : Nat) : (s.setHome n f).home k = if k = n then f (s.home n) else s.home k :=
  Cells.get_set _ _ _ _ _
@[simp] theorem setCore_g (s : State) (n : Nat) (f : Core → Core) : (s.setCore n f).g = s.g := rfl
@[simp] theorem setCore_others (s : State) (n : Nat) (f : Core → Core) : (s.setCore n f).others = s.others := rfl
@[simp] theorem setCore_mem (s : State) (n : Nat) (f : Core → Core) : (s.setCore n f).mem = s.mem := rfl
@[simp] theorem setCore_poison (s : State) (n : Nat) (f : Core → Core) : (s.setCore n f).poison = s.poison := rfl
@[simp] theorem setCore_drowned (s : State) (n : Nat) (f : Core → Core) : (s.setCore n f).drowned = s.drowned := rfl
@[simp] theorem setCore_hostMem (s : State) (n : Nat) (f : Core → Core) : (s.setCore n f).hostMem = s.hostMem := rfl
@[simp] theorem setCore_packets (s : State) (n : Nat) (f : Core → Core) : (s.setCore n f).packets = s.packets := rfl
@[simp] theorem setCore_parts (s : State) (n : Nat) (f : Core → Core) : (s.setCore n f).parts = s.parts := rfl
@[simp] theorem setCore_leases (s : State) (n : Nat) (f : Core → Core) : (s.setCore n f).leases = s.leases := rfl
@[simp] theorem setCore_homes (s : State) (n : Nat) (f : Core → Core) : (s.setCore n f).homes = s.homes := rfl
@[simp] theorem setCore_cards (s : State) (n : Nat) (f : Core → Core) : (s.setCore n f).cards = s.cards := rfl
@[simp] theorem setCore_launches (s : State) (n : Nat) (f : Core → Core) : (s.setCore n f).launches = s.launches := rfl
@[simp] theorem setCore_pkgs (s : State) (n : Nat) (f : Core → Core) : (s.setCore n f).pkgs = s.pkgs := rfl
@[simp] theorem setCore_stale (s : State) (n : Nat) (f : Core → Core) : (s.setCore n f).stale = s.stale := rfl
@[simp] theorem setCore_invals (s : State) (n : Nat) (f : Core → Core) : (s.setCore n f).invals = s.invals := rfl
@[simp] theorem setCore_roce (s : State) (n : Nat) (f : Core → Core) : (s.setCore n f).roce = s.roce := rfl
@[simp] theorem setCore_mirrors (s : State) (n : Nat) (f : Core → Core) : (s.setCore n f).mirrors = s.mirrors := rfl
@[simp] theorem setCore_degraded (s : State) (n : Nat) (f : Core → Core) : (s.setCore n f).degraded = s.degraded := rfl
@[simp] theorem setCore_agenda (s : State) (n : Nat) (f : Core → Core) : (s.setCore n f).agenda = s.agenda := rfl
@[simp] theorem setCore_free (s : State) (n : Nat) (f : Core → Core) : (s.setCore n f).free = s.free := rfl
@[simp] theorem setCore_fresh (s : State) (n : Nat) (f : Core → Core) : (s.setCore n f).fresh = s.fresh := rfl
@[simp] theorem setCore_core (s : State) (n : Nat) (f : Core → Core) (k : Nat) : (s.setCore n f).core k = if k = n then f (s.core n) else s.core k :=
  Cells.get_set _ _ _ _ _
@[simp] theorem setPart_g (s : State) (n : Nat) (f : Part → Part) : (s.setPart n f).g = s.g := rfl
@[simp] theorem setPart_others (s : State) (n : Nat) (f : Part → Part) : (s.setPart n f).others = s.others := rfl
@[simp] theorem setPart_mem (s : State) (n : Nat) (f : Part → Part) : (s.setPart n f).mem = s.mem := rfl
@[simp] theorem setPart_poison (s : State) (n : Nat) (f : Part → Part) : (s.setPart n f).poison = s.poison := rfl
@[simp] theorem setPart_drowned (s : State) (n : Nat) (f : Part → Part) : (s.setPart n f).drowned = s.drowned := rfl
@[simp] theorem setPart_hostMem (s : State) (n : Nat) (f : Part → Part) : (s.setPart n f).hostMem = s.hostMem := rfl
@[simp] theorem setPart_packets (s : State) (n : Nat) (f : Part → Part) : (s.setPart n f).packets = s.packets := rfl
@[simp] theorem setPart_cores (s : State) (n : Nat) (f : Part → Part) : (s.setPart n f).cores = s.cores := rfl
@[simp] theorem setPart_leases (s : State) (n : Nat) (f : Part → Part) : (s.setPart n f).leases = s.leases := rfl
@[simp] theorem setPart_homes (s : State) (n : Nat) (f : Part → Part) : (s.setPart n f).homes = s.homes := rfl
@[simp] theorem setPart_cards (s : State) (n : Nat) (f : Part → Part) : (s.setPart n f).cards = s.cards := rfl
@[simp] theorem setPart_launches (s : State) (n : Nat) (f : Part → Part) : (s.setPart n f).launches = s.launches := rfl
@[simp] theorem setPart_pkgs (s : State) (n : Nat) (f : Part → Part) : (s.setPart n f).pkgs = s.pkgs := rfl
@[simp] theorem setPart_stale (s : State) (n : Nat) (f : Part → Part) : (s.setPart n f).stale = s.stale := rfl
@[simp] theorem setPart_invals (s : State) (n : Nat) (f : Part → Part) : (s.setPart n f).invals = s.invals := rfl
@[simp] theorem setPart_roce (s : State) (n : Nat) (f : Part → Part) : (s.setPart n f).roce = s.roce := rfl
@[simp] theorem setPart_mirrors (s : State) (n : Nat) (f : Part → Part) : (s.setPart n f).mirrors = s.mirrors := rfl
@[simp] theorem setPart_degraded (s : State) (n : Nat) (f : Part → Part) : (s.setPart n f).degraded = s.degraded := rfl
@[simp] theorem setPart_agenda (s : State) (n : Nat) (f : Part → Part) : (s.setPart n f).agenda = s.agenda := rfl
@[simp] theorem setPart_free (s : State) (n : Nat) (f : Part → Part) : (s.setPart n f).free = s.free := rfl
@[simp] theorem setPart_fresh (s : State) (n : Nat) (f : Part → Part) : (s.setPart n f).fresh = s.fresh := rfl
@[simp] theorem setPart_part (s : State) (n : Nat) (f : Part → Part) (k : Nat) : (s.setPart n f).part k = if k = n then f (s.part n) else s.part k :=
  Cells.get_set _ _ _ _ _

/-! ### Every group, every split -/

@[simp] theorem mapGroups_mem (s : State) (f : Group → Group) : (s.mapGroups f).mem = s.mem := rfl
@[simp] theorem mapGroups_poison (s : State) (f : Group → Group) : (s.mapGroups f).poison = s.poison := rfl
@[simp] theorem mapGroups_drowned (s : State) (f : Group → Group) : (s.mapGroups f).drowned = s.drowned := rfl
@[simp] theorem mapGroups_hostMem (s : State) (f : Group → Group) : (s.mapGroups f).hostMem = s.hostMem := rfl
@[simp] theorem mapGroups_packets (s : State) (f : Group → Group) : (s.mapGroups f).packets = s.packets := rfl
@[simp] theorem mapGroups_parts (s : State) (f : Group → Group) : (s.mapGroups f).parts = s.parts := rfl
@[simp] theorem mapGroups_cores (s : State) (f : Group → Group) : (s.mapGroups f).cores = s.cores := rfl
@[simp] theorem mapGroups_leases (s : State) (f : Group → Group) : (s.mapGroups f).leases = s.leases := rfl
@[simp] theorem mapGroups_homes (s : State) (f : Group → Group) : (s.mapGroups f).homes = s.homes := rfl
@[simp] theorem mapGroups_cards (s : State) (f : Group → Group) : (s.mapGroups f).cards = s.cards := rfl
@[simp] theorem mapGroups_launches (s : State) (f : Group → Group) : (s.mapGroups f).launches = s.launches := rfl
@[simp] theorem mapGroups_pkgs (s : State) (f : Group → Group) : (s.mapGroups f).pkgs = s.pkgs := rfl
@[simp] theorem mapGroups_stale (s : State) (f : Group → Group) : (s.mapGroups f).stale = s.stale := rfl
@[simp] theorem mapGroups_invals (s : State) (f : Group → Group) : (s.mapGroups f).invals = s.invals := rfl
@[simp] theorem mapGroups_roce (s : State) (f : Group → Group) : (s.mapGroups f).roce = s.roce := rfl
@[simp] theorem mapGroups_mirrors (s : State) (f : Group → Group) : (s.mapGroups f).mirrors = s.mirrors := rfl
@[simp] theorem mapGroups_degraded (s : State) (f : Group → Group) : (s.mapGroups f).degraded = s.degraded := rfl
@[simp] theorem mapGroups_agenda (s : State) (f : Group → Group) : (s.mapGroups f).agenda = s.agenda := rfl
@[simp] theorem mapGroups_free (s : State) (f : Group → Group) : (s.mapGroups f).free = s.free := rfl
@[simp] theorem mapGroups_fresh (s : State) (f : Group → Group) : (s.mapGroups f).fresh = s.fresh := rfl
@[simp] theorem mapGroups_g (s : State) (f : Group → Group) : (s.mapGroups f).g = f s.g := rfl
@[simp] theorem mapGroups_others (s : State) (f : Group → Group) : (s.mapGroups f).others = s.others.map f := rfl
@[simp] theorem mapSplits_life (g : Group) (f : Split → Split) : (g.mapSplits f).life = g.life := rfl
@[simp] theorem mapSplits_gid (g : Group) (f : Split → Split) : (g.mapSplits f).gid = g.gid := rfl
@[simp] theorem mapSplits_w (g : Group) (f : Split → Split) : (g.mapSplits f).w = g.w := rfl
@[simp] theorem mapSplits_v (g : Group) (f : Split → Split) : (g.mapSplits f).v = g.v := rfl
@[simp] theorem mapSplits_p (g : Group) (f : Split → Split) : (g.mapSplits f).p = g.p := rfl
@[simp] theorem mapSplits_em (g : Group) (f : Split → Split) : (g.mapSplits f).em = g.em := rfl
@[simp] theorem mapSplits_bcur (g : Group) (f : Split → Split) : (g.mapSplits f).bcur = g.bcur := rfl
@[simp] theorem mapSplits_fs (g : Group) (f : Split → Split) : (g.mapSplits f).fs = g.fs := rfl
@[simp] theorem mapSplits_baseHome (g : Group) (f : Split → Split) : (g.mapSplits f).baseHome = g.baseHome := rfl
@[simp] theorem mapSplits_recIdx (g : Group) (f : Split → Split) : (g.mapSplits f).recIdx = g.recIdx := rfl
@[simp] theorem mapSplits_grpInRec (g : Group) (f : Split → Split) : (g.mapSplits f).grpInRec = g.grpInRec := rfl
@[simp] theorem mapSplits_ctx (g : Group) (f : Split → Split) : (g.mapSplits f).ctx = g.ctx := rfl
@[simp] theorem mapSplits_card (g : Group) (f : Split → Split) : (g.mapSplits f).card = g.card := rfl
@[simp] theorem mapSplits_diag (g : Group) (f : Split → Split) : (g.mapSplits f).diag = g.diag := rfl
@[simp] theorem mapSplits_prio (g : Group) (f : Split → Split) : (g.mapSplits f).prio = g.prio := rfl
@[simp] theorem mapSplits_floorPrio (g : Group) (f : Split → Split) : (g.mapSplits f).floorPrio = g.floorPrio := rfl
@[simp] theorem mapSplits_team (g : Group) (f : Split → Split) : (g.mapSplits f).team = g.team := rfl
@[simp] theorem mapSplits_teamVa (g : Group) (f : Split → Split) : (g.mapSplits f).teamVa = g.teamVa := rfl
@[simp] theorem mapSplits_teamPte (g : Group) (f : Split → Split) : (g.mapSplits f).teamPte = g.teamPte := rfl
@[simp] theorem mapSplits_teamId (g : Group) (f : Split → Split) : (g.mapSplits f).teamId = g.teamId := rfl
@[simp] theorem mapSplits_note (g : Group) (f : Split → Split) : (g.mapSplits f).note = g.note := rfl
@[simp] theorem mapSplits_acks (g : Group) (f : Split → Split) : (g.mapSplits f).acks = g.acks := rfl
@[simp] theorem mapSplits_slot (g : Group) (f : Split → Split) : (g.mapSplits f).slot = g.slot := rfl
@[simp] theorem mapSplits_tileRows (g : Group) (f : Split → Split) : (g.mapSplits f).tileRows = g.tileRows := rfl
@[simp] theorem mapSplits_tile (g : Group) (f : Split → Split) : (g.mapSplits f).tile = g.tile := rfl
@[simp] theorem mapSplits_ovf (g : Group) (f : Split → Split) : (g.mapSplits f).ovf = g.ovf := rfl
@[simp] theorem mapSplits_ovfLate (g : Group) (f : Split → Split) : (g.mapSplits f).ovfLate = g.ovfLate := rfl
@[simp] theorem mapSplits_seams (g : Group) (f : Split → Split) : (g.mapSplits f).seams = g.seams := rfl
@[simp] theorem mapSplits_sup (g : Group) (f : Split → Split) : (g.mapSplits f).sup = g.sup := rfl
@[simp] theorem mapSplits_floor (g : Group) (f : Split → Split) : (g.mapSplits f).floor = g.floor := rfl
@[simp] theorem mapSplits_handler (g : Group) (f : Split → Split) : (g.mapSplits f).handler = g.handler := rfl
@[simp] theorem mapSplits_seamSv (g : Group) (f : Split → Split) : (g.mapSplits f).seamSv = g.seamSv := rfl
@[simp] theorem mapSplits_trapvec (g : Group) (f : Split → Split) : (g.mapSplits f).trapvec = g.trapvec := rfl
@[simp] theorem mapSplits_trapcause (g : Group) (f : Split → Split) : (g.mapSplits f).trapcause = g.trapcause := rfl
@[simp] theorem mapSplits_trappc (g : Group) (f : Split → Split) : (g.mapSplits f).trappc = g.trappc := rfl
@[simp] theorem mapSplits_trapaddr (g : Group) (f : Split → Split) : (g.mapSplits f).trapaddr = g.trapaddr := rfl
@[simp] theorem mapSplits_trapmask (g : Group) (f : Split → Split) : (g.mapSplits f).trapmask = g.trapmask := rfl
@[simp] theorem mapSplits_traphdr (g : Group) (f : Split → Split) : (g.mapSplits f).traphdr = g.traphdr := rfl
@[simp] theorem mapSplits_ctxbase (g : Group) (f : Split → Split) : (g.mapSplits f).ctxbase = g.ctxbase := rfl
@[simp] theorem mapSplits_rpseq (g : Group) (f : Split → Split) : (g.mapSplits f).rpseq = g.rpseq := rfl
@[simp] theorem mapSplits_rppc (g : Group) (f : Split → Split) : (g.mapSplits f).rppc = g.rppc := rfl
@[simp] theorem mapSplits_rpjkt (g : Group) (f : Split → Split) : (g.mapSplits f).rpjkt = g.rpjkt := rfl
@[simp] theorem mapSplits_teamstat (g : Group) (f : Split → Split) : (g.mapSplits f).teamstat = g.teamstat := rfl
@[simp] theorem mapSplits_diaginj (g : Group) (f : Split → Split) : (g.mapSplits f).diaginj = g.diaginj := rfl
@[simp] theorem mapSplits_ck (g : Group) (f : Split → Split) : (g.mapSplits f).ck = g.ck := rfl
@[simp] theorem mapSplits_rcnt (g : Group) (f : Split → Split) : (g.mapSplits f).rcnt = g.rcnt := rfl
@[simp] theorem mapSplits_path (g : Group) (f : Split → Split) : (g.mapSplits f).path = g.path := rfl
@[simp] theorem mapSplits_accs (g : Group) (f : Split → Split) : (g.mapSplits f).accs = g.accs := rfl
@[simp] theorem mapSplits_mtx (g : Group) (f : Split → Split) : (g.mapSplits f).mtx = g.mtx := rfl
@[simp] theorem mapSplits_copies (g : Group) (f : Split → Split) : (g.mapSplits f).copies = g.copies := rfl
@[simp] theorem mapSplits_copyFault (g : Group) (f : Split → Split) : (g.mapSplits f).copyFault = g.copyFault := rfl
@[simp] theorem mapSplits_preempt (g : Group) (f : Split → Split) : (g.mapSplits f).preempt = g.preempt := rfl
@[simp] theorem mapSplits_halted (g : Group) (f : Split → Split) : (g.mapSplits f).halted = g.halted := rfl
@[simp] theorem mapSplits_killed (g : Group) (f : Split → Split) : (g.mapSplits f).killed = g.killed := rfl
@[simp] theorem mapSplits_rollback (g : Group) (f : Split → Split) : (g.mapSplits f).rollback = g.rollback := rfl
@[simp] theorem mapSplits_lost (g : Group) (f : Split → Split) : (g.mapSplits f).lost = g.lost := rfl
@[simp] theorem mapSplits_waitTeam (g : Group) (f : Split → Split) : (g.mapSplits f).waitTeam = g.waitTeam := rfl
@[simp] theorem mapSplits_poisonV (g : Group) (f : Split → Split) : (g.mapSplits f).poisonV = g.poisonV := rfl
@[simp] theorem mapSplits_poisonTile (g : Group) (f : Split → Split) : (g.mapSplits f).poisonTile = g.poisonTile := rfl
@[simp] theorem mapSplits_svV (g : Group) (f : Split → Split) : (g.mapSplits f).svV = g.svV := rfl
@[simp] theorem mapSplits_svS (g : Group) (f : Split → Split) : (g.mapSplits f).svS = g.svS := rfl
@[simp] theorem mapSplits_svP (g : Group) (f : Split → Split) : (g.mapSplits f).svP = g.svP := rfl
@[simp] theorem mapSplits_sp (g : Group) (f : Split → Split) : (g.mapSplits f).sp = f g.sp := rfl
@[simp] theorem mapSplits_sibs (g : Group) (f : Split → Split) : (g.mapSplits f).sibs = g.sibs.map f := rfl

/-! ### The end of an instruction -/

@[simp] theorem complete_others (s : State) : (complete s).others = s.others := rfl
@[simp] theorem complete_mem (s : State) : (complete s).mem = s.mem := rfl
@[simp] theorem complete_poison (s : State) : (complete s).poison = s.poison := rfl
@[simp] theorem complete_drowned (s : State) : (complete s).drowned = s.drowned := rfl
@[simp] theorem complete_hostMem (s : State) : (complete s).hostMem = s.hostMem := rfl
@[simp] theorem complete_packets (s : State) : (complete s).packets = s.packets := rfl
@[simp] theorem complete_parts (s : State) : (complete s).parts = s.parts := rfl
@[simp] theorem complete_cores (s : State) : (complete s).cores = s.cores := rfl
@[simp] theorem complete_leases (s : State) : (complete s).leases = s.leases := rfl
@[simp] theorem complete_homes (s : State) : (complete s).homes = s.homes := rfl
@[simp] theorem complete_cards (s : State) : (complete s).cards = s.cards := rfl
@[simp] theorem complete_launches (s : State) : (complete s).launches = s.launches := rfl
@[simp] theorem complete_pkgs (s : State) : (complete s).pkgs = s.pkgs := rfl
@[simp] theorem complete_stale (s : State) : (complete s).stale = s.stale := rfl
@[simp] theorem complete_invals (s : State) : (complete s).invals = s.invals := rfl
@[simp] theorem complete_roce (s : State) : (complete s).roce = s.roce := rfl
@[simp] theorem complete_mirrors (s : State) : (complete s).mirrors = s.mirrors := rfl
@[simp] theorem complete_degraded (s : State) : (complete s).degraded = s.degraded := rfl
@[simp] theorem complete_agenda (s : State) : (complete s).agenda = s.agenda := rfl
@[simp] theorem complete_free (s : State) : (complete s).free = s.free := rfl
@[simp] theorem complete_fresh (s : State) : (complete s).fresh = s.fresh := rfl
@[simp] theorem complete_g_life (s : State) : (complete s).g.life = s.g.life := rfl
@[simp] theorem complete_g_gid (s : State) : (complete s).g.gid = s.g.gid := rfl
@[simp] theorem complete_g_w (s : State) : (complete s).g.w = s.g.w := rfl
@[simp] theorem complete_g_v (s : State) : (complete s).g.v = s.g.v := rfl
@[simp] theorem complete_g_p (s : State) : (complete s).g.p = s.g.p := rfl
@[simp] theorem complete_g_em (s : State) : (complete s).g.em = s.g.em := rfl
@[simp] theorem complete_g_bcur (s : State) : (complete s).g.bcur = s.g.bcur := rfl
@[simp] theorem complete_g_fs (s : State) : (complete s).g.fs = s.g.fs := rfl
@[simp] theorem complete_g_baseHome (s : State) : (complete s).g.baseHome = s.g.baseHome := rfl
@[simp] theorem complete_g_recIdx (s : State) : (complete s).g.recIdx = s.g.recIdx := rfl
@[simp] theorem complete_g_grpInRec (s : State) : (complete s).g.grpInRec = s.g.grpInRec := rfl
@[simp] theorem complete_g_ctx (s : State) : (complete s).g.ctx = s.g.ctx := rfl
@[simp] theorem complete_g_card (s : State) : (complete s).g.card = s.g.card := rfl
@[simp] theorem complete_g_diag (s : State) : (complete s).g.diag = s.g.diag := rfl
@[simp] theorem complete_g_prio (s : State) : (complete s).g.prio = s.g.prio := rfl
@[simp] theorem complete_g_floorPrio (s : State) : (complete s).g.floorPrio = s.g.floorPrio := rfl
@[simp] theorem complete_g_team (s : State) : (complete s).g.team = s.g.team := rfl
@[simp] theorem complete_g_teamVa (s : State) : (complete s).g.teamVa = s.g.teamVa := rfl
@[simp] theorem complete_g_teamPte (s : State) : (complete s).g.teamPte = s.g.teamPte := rfl
@[simp] theorem complete_g_teamId (s : State) : (complete s).g.teamId = s.g.teamId := rfl
@[simp] theorem complete_g_note (s : State) : (complete s).g.note = s.g.note := rfl
@[simp] theorem complete_g_acks (s : State) : (complete s).g.acks = s.g.acks := rfl
@[simp] theorem complete_g_slot (s : State) : (complete s).g.slot = s.g.slot := rfl
@[simp] theorem complete_g_tileRows (s : State) : (complete s).g.tileRows = s.g.tileRows := rfl
@[simp] theorem complete_g_tile (s : State) : (complete s).g.tile = s.g.tile := rfl
@[simp] theorem complete_g_ovf (s : State) : (complete s).g.ovf = s.g.ovf := rfl
@[simp] theorem complete_g_ovfLate (s : State) : (complete s).g.ovfLate = s.g.ovfLate := rfl
@[simp] theorem complete_g_seams (s : State) : (complete s).g.seams = s.g.seams := rfl
@[simp] theorem complete_g_sup (s : State) : (complete s).g.sup = s.g.sup := rfl
@[simp] theorem complete_g_floor (s : State) : (complete s).g.floor = s.g.floor := rfl
@[simp] theorem complete_g_handler (s : State) : (complete s).g.handler = s.g.handler := rfl
@[simp] theorem complete_g_seamSv (s : State) : (complete s).g.seamSv = s.g.seamSv := rfl
@[simp] theorem complete_g_trapvec (s : State) : (complete s).g.trapvec = s.g.trapvec := rfl
@[simp] theorem complete_g_trapcause (s : State) : (complete s).g.trapcause = s.g.trapcause := rfl
@[simp] theorem complete_g_trappc (s : State) : (complete s).g.trappc = s.g.trappc := rfl
@[simp] theorem complete_g_trapaddr (s : State) : (complete s).g.trapaddr = s.g.trapaddr := rfl
@[simp] theorem complete_g_trapmask (s : State) : (complete s).g.trapmask = s.g.trapmask := rfl
@[simp] theorem complete_g_traphdr (s : State) : (complete s).g.traphdr = s.g.traphdr := rfl
@[simp] theorem complete_g_ctxbase (s : State) : (complete s).g.ctxbase = s.g.ctxbase := rfl
@[simp] theorem complete_g_rpseq (s : State) : (complete s).g.rpseq = s.g.rpseq := rfl
@[simp] theorem complete_g_rppc (s : State) : (complete s).g.rppc = s.g.rppc := rfl
@[simp] theorem complete_g_rpjkt (s : State) : (complete s).g.rpjkt = s.g.rpjkt := rfl
@[simp] theorem complete_g_teamstat (s : State) : (complete s).g.teamstat = s.g.teamstat := rfl
@[simp] theorem complete_g_diaginj (s : State) : (complete s).g.diaginj = s.g.diaginj := rfl
@[simp] theorem complete_g_ck (s : State) : (complete s).g.ck = s.g.ck := rfl
@[simp] theorem complete_g_rcnt (s : State) : (complete s).g.rcnt = s.g.rcnt := rfl
@[simp] theorem complete_g_path (s : State) : (complete s).g.path = s.g.path := rfl
@[simp] theorem complete_g_accs (s : State) : (complete s).g.accs = s.g.accs := rfl
@[simp] theorem complete_g_mtx (s : State) : (complete s).g.mtx = s.g.mtx := rfl
@[simp] theorem complete_g_copies (s : State) : (complete s).g.copies = s.g.copies := rfl
@[simp] theorem complete_g_copyFault (s : State) : (complete s).g.copyFault = s.g.copyFault := rfl
@[simp] theorem complete_g_preempt (s : State) : (complete s).g.preempt = s.g.preempt := rfl
@[simp] theorem complete_g_halted (s : State) : (complete s).g.halted = s.g.halted := rfl
@[simp] theorem complete_g_killed (s : State) : (complete s).g.killed = s.g.killed := rfl
@[simp] theorem complete_g_rollback (s : State) : (complete s).g.rollback = s.g.rollback := rfl
@[simp] theorem complete_g_lost (s : State) : (complete s).g.lost = s.g.lost := rfl
@[simp] theorem complete_g_waitTeam (s : State) : (complete s).g.waitTeam = s.g.waitTeam := rfl
@[simp] theorem complete_g_poisonV (s : State) : (complete s).g.poisonV = s.g.poisonV := rfl
@[simp] theorem complete_g_poisonTile (s : State) : (complete s).g.poisonTile = s.g.poisonTile := rfl
@[simp] theorem complete_g_svV (s : State) : (complete s).g.svV = s.g.svV := rfl
@[simp] theorem complete_g_svS (s : State) : (complete s).g.svS = s.g.svS := rfl
@[simp] theorem complete_g_svP (s : State) : (complete s).g.svP = s.g.svP := rfl
@[simp] theorem complete_g_sibs (s : State) : (complete s).g.sibs = s.g.sibs := rfl
@[simp] theorem completeSafe_others (s : State) : (completeSafe s).others = s.others := rfl
@[simp] theorem completeSafe_mem (s : State) : (completeSafe s).mem = s.mem := rfl
@[simp] theorem completeSafe_poison (s : State) : (completeSafe s).poison = s.poison := rfl
@[simp] theorem completeSafe_drowned (s : State) : (completeSafe s).drowned = s.drowned := rfl
@[simp] theorem completeSafe_hostMem (s : State) : (completeSafe s).hostMem = s.hostMem := rfl
@[simp] theorem completeSafe_packets (s : State) : (completeSafe s).packets = s.packets := rfl
@[simp] theorem completeSafe_parts (s : State) : (completeSafe s).parts = s.parts := rfl
@[simp] theorem completeSafe_cores (s : State) : (completeSafe s).cores = s.cores := rfl
@[simp] theorem completeSafe_leases (s : State) : (completeSafe s).leases = s.leases := rfl
@[simp] theorem completeSafe_homes (s : State) : (completeSafe s).homes = s.homes := rfl
@[simp] theorem completeSafe_cards (s : State) : (completeSafe s).cards = s.cards := rfl
@[simp] theorem completeSafe_launches (s : State) : (completeSafe s).launches = s.launches := rfl
@[simp] theorem completeSafe_pkgs (s : State) : (completeSafe s).pkgs = s.pkgs := rfl
@[simp] theorem completeSafe_stale (s : State) : (completeSafe s).stale = s.stale := rfl
@[simp] theorem completeSafe_invals (s : State) : (completeSafe s).invals = s.invals := rfl
@[simp] theorem completeSafe_roce (s : State) : (completeSafe s).roce = s.roce := rfl
@[simp] theorem completeSafe_mirrors (s : State) : (completeSafe s).mirrors = s.mirrors := rfl
@[simp] theorem completeSafe_degraded (s : State) : (completeSafe s).degraded = s.degraded := rfl
@[simp] theorem completeSafe_agenda (s : State) : (completeSafe s).agenda = s.agenda := rfl
@[simp] theorem completeSafe_free (s : State) : (completeSafe s).free = s.free := rfl
@[simp] theorem completeSafe_fresh (s : State) : (completeSafe s).fresh = s.fresh := rfl
@[simp] theorem completeSafe_g_life (s : State) : (completeSafe s).g.life = s.g.life := rfl
@[simp] theorem completeSafe_g_gid (s : State) : (completeSafe s).g.gid = s.g.gid := rfl
@[simp] theorem completeSafe_g_w (s : State) : (completeSafe s).g.w = s.g.w := rfl
@[simp] theorem completeSafe_g_v (s : State) : (completeSafe s).g.v = s.g.v := rfl
@[simp] theorem completeSafe_g_p (s : State) : (completeSafe s).g.p = s.g.p := rfl
@[simp] theorem completeSafe_g_em (s : State) : (completeSafe s).g.em = s.g.em := rfl
@[simp] theorem completeSafe_g_bcur (s : State) : (completeSafe s).g.bcur = s.g.bcur := rfl
@[simp] theorem completeSafe_g_fs (s : State) : (completeSafe s).g.fs = s.g.fs := rfl
@[simp] theorem completeSafe_g_baseHome (s : State) : (completeSafe s).g.baseHome = s.g.baseHome := rfl
@[simp] theorem completeSafe_g_recIdx (s : State) : (completeSafe s).g.recIdx = s.g.recIdx := rfl
@[simp] theorem completeSafe_g_grpInRec (s : State) : (completeSafe s).g.grpInRec = s.g.grpInRec := rfl
@[simp] theorem completeSafe_g_ctx (s : State) : (completeSafe s).g.ctx = s.g.ctx := rfl
@[simp] theorem completeSafe_g_card (s : State) : (completeSafe s).g.card = s.g.card := rfl
@[simp] theorem completeSafe_g_diag (s : State) : (completeSafe s).g.diag = s.g.diag := rfl
@[simp] theorem completeSafe_g_prio (s : State) : (completeSafe s).g.prio = s.g.prio := rfl
@[simp] theorem completeSafe_g_floorPrio (s : State) : (completeSafe s).g.floorPrio = s.g.floorPrio := rfl
@[simp] theorem completeSafe_g_team (s : State) : (completeSafe s).g.team = s.g.team := rfl
@[simp] theorem completeSafe_g_teamVa (s : State) : (completeSafe s).g.teamVa = s.g.teamVa := rfl
@[simp] theorem completeSafe_g_teamPte (s : State) : (completeSafe s).g.teamPte = s.g.teamPte := rfl
@[simp] theorem completeSafe_g_teamId (s : State) : (completeSafe s).g.teamId = s.g.teamId := rfl
@[simp] theorem completeSafe_g_note (s : State) : (completeSafe s).g.note = s.g.note := rfl
@[simp] theorem completeSafe_g_acks (s : State) : (completeSafe s).g.acks = s.g.acks := rfl
@[simp] theorem completeSafe_g_slot (s : State) : (completeSafe s).g.slot = s.g.slot := rfl
@[simp] theorem completeSafe_g_tileRows (s : State) : (completeSafe s).g.tileRows = s.g.tileRows := rfl
@[simp] theorem completeSafe_g_tile (s : State) : (completeSafe s).g.tile = s.g.tile := rfl
@[simp] theorem completeSafe_g_ovf (s : State) : (completeSafe s).g.ovf = s.g.ovf := rfl
@[simp] theorem completeSafe_g_ovfLate (s : State) : (completeSafe s).g.ovfLate = s.g.ovfLate := rfl
@[simp] theorem completeSafe_g_seams (s : State) : (completeSafe s).g.seams = s.g.seams := rfl
@[simp] theorem completeSafe_g_sup (s : State) : (completeSafe s).g.sup = s.g.sup := rfl
@[simp] theorem completeSafe_g_floor (s : State) : (completeSafe s).g.floor = s.g.floor := rfl
@[simp] theorem completeSafe_g_handler (s : State) : (completeSafe s).g.handler = s.g.handler := rfl
@[simp] theorem completeSafe_g_seamSv (s : State) : (completeSafe s).g.seamSv = s.g.seamSv := rfl
@[simp] theorem completeSafe_g_trapvec (s : State) : (completeSafe s).g.trapvec = s.g.trapvec := rfl
@[simp] theorem completeSafe_g_trapcause (s : State) : (completeSafe s).g.trapcause = s.g.trapcause := rfl
@[simp] theorem completeSafe_g_trappc (s : State) : (completeSafe s).g.trappc = s.g.trappc := rfl
@[simp] theorem completeSafe_g_trapaddr (s : State) : (completeSafe s).g.trapaddr = s.g.trapaddr := rfl
@[simp] theorem completeSafe_g_trapmask (s : State) : (completeSafe s).g.trapmask = s.g.trapmask := rfl
@[simp] theorem completeSafe_g_traphdr (s : State) : (completeSafe s).g.traphdr = s.g.traphdr := rfl
@[simp] theorem completeSafe_g_ctxbase (s : State) : (completeSafe s).g.ctxbase = s.g.ctxbase := rfl
@[simp] theorem completeSafe_g_rpseq (s : State) : (completeSafe s).g.rpseq = s.g.rpseq := rfl
@[simp] theorem completeSafe_g_rppc (s : State) : (completeSafe s).g.rppc = s.g.rppc := rfl
@[simp] theorem completeSafe_g_rpjkt (s : State) : (completeSafe s).g.rpjkt = s.g.rpjkt := rfl
@[simp] theorem completeSafe_g_teamstat (s : State) : (completeSafe s).g.teamstat = s.g.teamstat := rfl
@[simp] theorem completeSafe_g_diaginj (s : State) : (completeSafe s).g.diaginj = s.g.diaginj := rfl
@[simp] theorem completeSafe_g_ck (s : State) : (completeSafe s).g.ck = s.g.ck := rfl
@[simp] theorem completeSafe_g_rcnt (s : State) : (completeSafe s).g.rcnt = s.g.rcnt := rfl
@[simp] theorem completeSafe_g_path (s : State) : (completeSafe s).g.path = s.g.path := rfl
@[simp] theorem completeSafe_g_accs (s : State) : (completeSafe s).g.accs = s.g.accs := rfl
@[simp] theorem completeSafe_g_mtx (s : State) : (completeSafe s).g.mtx = s.g.mtx := rfl
@[simp] theorem completeSafe_g_copies (s : State) : (completeSafe s).g.copies = s.g.copies := rfl
@[simp] theorem completeSafe_g_copyFault (s : State) : (completeSafe s).g.copyFault = s.g.copyFault := rfl
@[simp] theorem completeSafe_g_preempt (s : State) : (completeSafe s).g.preempt = s.g.preempt := rfl
@[simp] theorem completeSafe_g_halted (s : State) : (completeSafe s).g.halted = s.g.halted := rfl
@[simp] theorem completeSafe_g_killed (s : State) : (completeSafe s).g.killed = s.g.killed := rfl
@[simp] theorem completeSafe_g_rollback (s : State) : (completeSafe s).g.rollback = s.g.rollback := rfl
@[simp] theorem completeSafe_g_lost (s : State) : (completeSafe s).g.lost = s.g.lost := rfl
@[simp] theorem completeSafe_g_waitTeam (s : State) : (completeSafe s).g.waitTeam = s.g.waitTeam := rfl
@[simp] theorem completeSafe_g_poisonV (s : State) : (completeSafe s).g.poisonV = s.g.poisonV := rfl
@[simp] theorem completeSafe_g_poisonTile (s : State) : (completeSafe s).g.poisonTile = s.g.poisonTile := rfl
@[simp] theorem completeSafe_g_svV (s : State) : (completeSafe s).g.svV = s.g.svV := rfl
@[simp] theorem completeSafe_g_svS (s : State) : (completeSafe s).g.svS = s.g.svS := rfl
@[simp] theorem completeSafe_g_svP (s : State) : (completeSafe s).g.svP = s.g.svP := rfl
@[simp] theorem completeSafe_g_sibs (s : State) : (completeSafe s).g.sibs = s.g.sibs := rfl
@[simp] theorem branchTo_others (s : State) (t : DWord) : (branchTo t s).others = s.others := rfl
@[simp] theorem branchTo_mem (s : State) (t : DWord) : (branchTo t s).mem = s.mem := rfl
@[simp] theorem branchTo_poison (s : State) (t : DWord) : (branchTo t s).poison = s.poison := rfl
@[simp] theorem branchTo_drowned (s : State) (t : DWord) : (branchTo t s).drowned = s.drowned := rfl
@[simp] theorem branchTo_hostMem (s : State) (t : DWord) : (branchTo t s).hostMem = s.hostMem := rfl
@[simp] theorem branchTo_packets (s : State) (t : DWord) : (branchTo t s).packets = s.packets := rfl
@[simp] theorem branchTo_parts (s : State) (t : DWord) : (branchTo t s).parts = s.parts := rfl
@[simp] theorem branchTo_cores (s : State) (t : DWord) : (branchTo t s).cores = s.cores := rfl
@[simp] theorem branchTo_leases (s : State) (t : DWord) : (branchTo t s).leases = s.leases := rfl
@[simp] theorem branchTo_homes (s : State) (t : DWord) : (branchTo t s).homes = s.homes := rfl
@[simp] theorem branchTo_cards (s : State) (t : DWord) : (branchTo t s).cards = s.cards := rfl
@[simp] theorem branchTo_launches (s : State) (t : DWord) : (branchTo t s).launches = s.launches := rfl
@[simp] theorem branchTo_pkgs (s : State) (t : DWord) : (branchTo t s).pkgs = s.pkgs := rfl
@[simp] theorem branchTo_stale (s : State) (t : DWord) : (branchTo t s).stale = s.stale := rfl
@[simp] theorem branchTo_invals (s : State) (t : DWord) : (branchTo t s).invals = s.invals := rfl
@[simp] theorem branchTo_roce (s : State) (t : DWord) : (branchTo t s).roce = s.roce := rfl
@[simp] theorem branchTo_mirrors (s : State) (t : DWord) : (branchTo t s).mirrors = s.mirrors := rfl
@[simp] theorem branchTo_degraded (s : State) (t : DWord) : (branchTo t s).degraded = s.degraded := rfl
@[simp] theorem branchTo_agenda (s : State) (t : DWord) : (branchTo t s).agenda = s.agenda := rfl
@[simp] theorem branchTo_free (s : State) (t : DWord) : (branchTo t s).free = s.free := rfl
@[simp] theorem branchTo_fresh (s : State) (t : DWord) : (branchTo t s).fresh = s.fresh := rfl
@[simp] theorem branchTo_g_life (s : State) (t : DWord) : (branchTo t s).g.life = s.g.life := rfl
@[simp] theorem branchTo_g_gid (s : State) (t : DWord) : (branchTo t s).g.gid = s.g.gid := rfl
@[simp] theorem branchTo_g_w (s : State) (t : DWord) : (branchTo t s).g.w = s.g.w := rfl
@[simp] theorem branchTo_g_v (s : State) (t : DWord) : (branchTo t s).g.v = s.g.v := rfl
@[simp] theorem branchTo_g_p (s : State) (t : DWord) : (branchTo t s).g.p = s.g.p := rfl
@[simp] theorem branchTo_g_em (s : State) (t : DWord) : (branchTo t s).g.em = s.g.em := rfl
@[simp] theorem branchTo_g_bcur (s : State) (t : DWord) : (branchTo t s).g.bcur = s.g.bcur := rfl
@[simp] theorem branchTo_g_fs (s : State) (t : DWord) : (branchTo t s).g.fs = s.g.fs := rfl
@[simp] theorem branchTo_g_baseHome (s : State) (t : DWord) : (branchTo t s).g.baseHome = s.g.baseHome := rfl
@[simp] theorem branchTo_g_recIdx (s : State) (t : DWord) : (branchTo t s).g.recIdx = s.g.recIdx := rfl
@[simp] theorem branchTo_g_grpInRec (s : State) (t : DWord) : (branchTo t s).g.grpInRec = s.g.grpInRec := rfl
@[simp] theorem branchTo_g_ctx (s : State) (t : DWord) : (branchTo t s).g.ctx = s.g.ctx := rfl
@[simp] theorem branchTo_g_card (s : State) (t : DWord) : (branchTo t s).g.card = s.g.card := rfl
@[simp] theorem branchTo_g_diag (s : State) (t : DWord) : (branchTo t s).g.diag = s.g.diag := rfl
@[simp] theorem branchTo_g_prio (s : State) (t : DWord) : (branchTo t s).g.prio = s.g.prio := rfl
@[simp] theorem branchTo_g_floorPrio (s : State) (t : DWord) : (branchTo t s).g.floorPrio = s.g.floorPrio := rfl
@[simp] theorem branchTo_g_team (s : State) (t : DWord) : (branchTo t s).g.team = s.g.team := rfl
@[simp] theorem branchTo_g_teamVa (s : State) (t : DWord) : (branchTo t s).g.teamVa = s.g.teamVa := rfl
@[simp] theorem branchTo_g_teamPte (s : State) (t : DWord) : (branchTo t s).g.teamPte = s.g.teamPte := rfl
@[simp] theorem branchTo_g_teamId (s : State) (t : DWord) : (branchTo t s).g.teamId = s.g.teamId := rfl
@[simp] theorem branchTo_g_note (s : State) (t : DWord) : (branchTo t s).g.note = s.g.note := rfl
@[simp] theorem branchTo_g_acks (s : State) (t : DWord) : (branchTo t s).g.acks = s.g.acks := rfl
@[simp] theorem branchTo_g_slot (s : State) (t : DWord) : (branchTo t s).g.slot = s.g.slot := rfl
@[simp] theorem branchTo_g_tileRows (s : State) (t : DWord) : (branchTo t s).g.tileRows = s.g.tileRows := rfl
@[simp] theorem branchTo_g_tile (s : State) (t : DWord) : (branchTo t s).g.tile = s.g.tile := rfl
@[simp] theorem branchTo_g_ovf (s : State) (t : DWord) : (branchTo t s).g.ovf = s.g.ovf := rfl
@[simp] theorem branchTo_g_ovfLate (s : State) (t : DWord) : (branchTo t s).g.ovfLate = s.g.ovfLate := rfl
@[simp] theorem branchTo_g_seams (s : State) (t : DWord) : (branchTo t s).g.seams = s.g.seams := rfl
@[simp] theorem branchTo_g_sup (s : State) (t : DWord) : (branchTo t s).g.sup = s.g.sup := rfl
@[simp] theorem branchTo_g_floor (s : State) (t : DWord) : (branchTo t s).g.floor = s.g.floor := rfl
@[simp] theorem branchTo_g_handler (s : State) (t : DWord) : (branchTo t s).g.handler = s.g.handler := rfl
@[simp] theorem branchTo_g_seamSv (s : State) (t : DWord) : (branchTo t s).g.seamSv = s.g.seamSv := rfl
@[simp] theorem branchTo_g_trapvec (s : State) (t : DWord) : (branchTo t s).g.trapvec = s.g.trapvec := rfl
@[simp] theorem branchTo_g_trapcause (s : State) (t : DWord) : (branchTo t s).g.trapcause = s.g.trapcause := rfl
@[simp] theorem branchTo_g_trappc (s : State) (t : DWord) : (branchTo t s).g.trappc = s.g.trappc := rfl
@[simp] theorem branchTo_g_trapaddr (s : State) (t : DWord) : (branchTo t s).g.trapaddr = s.g.trapaddr := rfl
@[simp] theorem branchTo_g_trapmask (s : State) (t : DWord) : (branchTo t s).g.trapmask = s.g.trapmask := rfl
@[simp] theorem branchTo_g_traphdr (s : State) (t : DWord) : (branchTo t s).g.traphdr = s.g.traphdr := rfl
@[simp] theorem branchTo_g_ctxbase (s : State) (t : DWord) : (branchTo t s).g.ctxbase = s.g.ctxbase := rfl
@[simp] theorem branchTo_g_rpseq (s : State) (t : DWord) : (branchTo t s).g.rpseq = s.g.rpseq := rfl
@[simp] theorem branchTo_g_rppc (s : State) (t : DWord) : (branchTo t s).g.rppc = s.g.rppc := rfl
@[simp] theorem branchTo_g_rpjkt (s : State) (t : DWord) : (branchTo t s).g.rpjkt = s.g.rpjkt := rfl
@[simp] theorem branchTo_g_teamstat (s : State) (t : DWord) : (branchTo t s).g.teamstat = s.g.teamstat := rfl
@[simp] theorem branchTo_g_diaginj (s : State) (t : DWord) : (branchTo t s).g.diaginj = s.g.diaginj := rfl
@[simp] theorem branchTo_g_ck (s : State) (t : DWord) : (branchTo t s).g.ck = s.g.ck := rfl
@[simp] theorem branchTo_g_rcnt (s : State) (t : DWord) : (branchTo t s).g.rcnt = s.g.rcnt := rfl
@[simp] theorem branchTo_g_path (s : State) (t : DWord) : (branchTo t s).g.path = s.g.path := rfl
@[simp] theorem branchTo_g_accs (s : State) (t : DWord) : (branchTo t s).g.accs = s.g.accs := rfl
@[simp] theorem branchTo_g_mtx (s : State) (t : DWord) : (branchTo t s).g.mtx = s.g.mtx := rfl
@[simp] theorem branchTo_g_copies (s : State) (t : DWord) : (branchTo t s).g.copies = s.g.copies := rfl
@[simp] theorem branchTo_g_copyFault (s : State) (t : DWord) : (branchTo t s).g.copyFault = s.g.copyFault := rfl
@[simp] theorem branchTo_g_preempt (s : State) (t : DWord) : (branchTo t s).g.preempt = s.g.preempt := rfl
@[simp] theorem branchTo_g_halted (s : State) (t : DWord) : (branchTo t s).g.halted = s.g.halted := rfl
@[simp] theorem branchTo_g_killed (s : State) (t : DWord) : (branchTo t s).g.killed = s.g.killed := rfl
@[simp] theorem branchTo_g_rollback (s : State) (t : DWord) : (branchTo t s).g.rollback = s.g.rollback := rfl
@[simp] theorem branchTo_g_lost (s : State) (t : DWord) : (branchTo t s).g.lost = s.g.lost := rfl
@[simp] theorem branchTo_g_waitTeam (s : State) (t : DWord) : (branchTo t s).g.waitTeam = s.g.waitTeam := rfl
@[simp] theorem branchTo_g_poisonV (s : State) (t : DWord) : (branchTo t s).g.poisonV = s.g.poisonV := rfl
@[simp] theorem branchTo_g_poisonTile (s : State) (t : DWord) : (branchTo t s).g.poisonTile = s.g.poisonTile := rfl
@[simp] theorem branchTo_g_svV (s : State) (t : DWord) : (branchTo t s).g.svV = s.g.svV := rfl
@[simp] theorem branchTo_g_svS (s : State) (t : DWord) : (branchTo t s).g.svS = s.g.svS := rfl
@[simp] theorem branchTo_g_svP (s : State) (t : DWord) : (branchTo t s).g.svP = s.g.svP := rfl
@[simp] theorem branchTo_g_sibs (s : State) (t : DWord) : (branchTo t s).g.sibs = s.g.sibs := rfl
@[simp] theorem raiseFlags_others (s : State) (x : Word) : (raiseFlags x s).others = s.others := rfl
@[simp] theorem raiseFlags_mem (s : State) (x : Word) : (raiseFlags x s).mem = s.mem := rfl
@[simp] theorem raiseFlags_poison (s : State) (x : Word) : (raiseFlags x s).poison = s.poison := rfl
@[simp] theorem raiseFlags_drowned (s : State) (x : Word) : (raiseFlags x s).drowned = s.drowned := rfl
@[simp] theorem raiseFlags_hostMem (s : State) (x : Word) : (raiseFlags x s).hostMem = s.hostMem := rfl
@[simp] theorem raiseFlags_packets (s : State) (x : Word) : (raiseFlags x s).packets = s.packets := rfl
@[simp] theorem raiseFlags_parts (s : State) (x : Word) : (raiseFlags x s).parts = s.parts := rfl
@[simp] theorem raiseFlags_cores (s : State) (x : Word) : (raiseFlags x s).cores = s.cores := rfl
@[simp] theorem raiseFlags_leases (s : State) (x : Word) : (raiseFlags x s).leases = s.leases := rfl
@[simp] theorem raiseFlags_homes (s : State) (x : Word) : (raiseFlags x s).homes = s.homes := rfl
@[simp] theorem raiseFlags_cards (s : State) (x : Word) : (raiseFlags x s).cards = s.cards := rfl
@[simp] theorem raiseFlags_launches (s : State) (x : Word) : (raiseFlags x s).launches = s.launches := rfl
@[simp] theorem raiseFlags_pkgs (s : State) (x : Word) : (raiseFlags x s).pkgs = s.pkgs := rfl
@[simp] theorem raiseFlags_stale (s : State) (x : Word) : (raiseFlags x s).stale = s.stale := rfl
@[simp] theorem raiseFlags_invals (s : State) (x : Word) : (raiseFlags x s).invals = s.invals := rfl
@[simp] theorem raiseFlags_roce (s : State) (x : Word) : (raiseFlags x s).roce = s.roce := rfl
@[simp] theorem raiseFlags_mirrors (s : State) (x : Word) : (raiseFlags x s).mirrors = s.mirrors := rfl
@[simp] theorem raiseFlags_degraded (s : State) (x : Word) : (raiseFlags x s).degraded = s.degraded := rfl
@[simp] theorem raiseFlags_agenda (s : State) (x : Word) : (raiseFlags x s).agenda = s.agenda := rfl
@[simp] theorem raiseFlags_free (s : State) (x : Word) : (raiseFlags x s).free = s.free := rfl
@[simp] theorem raiseFlags_fresh (s : State) (x : Word) : (raiseFlags x s).fresh = s.fresh := rfl
@[simp] theorem raiseFlags_g_life (s : State) (x : Word) : (raiseFlags x s).g.life = s.g.life := rfl
@[simp] theorem raiseFlags_g_gid (s : State) (x : Word) : (raiseFlags x s).g.gid = s.g.gid := rfl
@[simp] theorem raiseFlags_g_w (s : State) (x : Word) : (raiseFlags x s).g.w = s.g.w := rfl
@[simp] theorem raiseFlags_g_v (s : State) (x : Word) : (raiseFlags x s).g.v = s.g.v := rfl
@[simp] theorem raiseFlags_g_p (s : State) (x : Word) : (raiseFlags x s).g.p = s.g.p := rfl
@[simp] theorem raiseFlags_g_em (s : State) (x : Word) : (raiseFlags x s).g.em = s.g.em := rfl
@[simp] theorem raiseFlags_g_bcur (s : State) (x : Word) : (raiseFlags x s).g.bcur = s.g.bcur := rfl
@[simp] theorem raiseFlags_g_fs (s : State) (x : Word) : (raiseFlags x s).g.fs = s.g.fs := rfl
@[simp] theorem raiseFlags_g_baseHome (s : State) (x : Word) : (raiseFlags x s).g.baseHome = s.g.baseHome := rfl
@[simp] theorem raiseFlags_g_recIdx (s : State) (x : Word) : (raiseFlags x s).g.recIdx = s.g.recIdx := rfl
@[simp] theorem raiseFlags_g_grpInRec (s : State) (x : Word) : (raiseFlags x s).g.grpInRec = s.g.grpInRec := rfl
@[simp] theorem raiseFlags_g_ctx (s : State) (x : Word) : (raiseFlags x s).g.ctx = s.g.ctx := rfl
@[simp] theorem raiseFlags_g_card (s : State) (x : Word) : (raiseFlags x s).g.card = s.g.card := rfl
@[simp] theorem raiseFlags_g_diag (s : State) (x : Word) : (raiseFlags x s).g.diag = s.g.diag := rfl
@[simp] theorem raiseFlags_g_prio (s : State) (x : Word) : (raiseFlags x s).g.prio = s.g.prio := rfl
@[simp] theorem raiseFlags_g_floorPrio (s : State) (x : Word) : (raiseFlags x s).g.floorPrio = s.g.floorPrio := rfl
@[simp] theorem raiseFlags_g_team (s : State) (x : Word) : (raiseFlags x s).g.team = s.g.team := rfl
@[simp] theorem raiseFlags_g_teamVa (s : State) (x : Word) : (raiseFlags x s).g.teamVa = s.g.teamVa := rfl
@[simp] theorem raiseFlags_g_teamPte (s : State) (x : Word) : (raiseFlags x s).g.teamPte = s.g.teamPte := rfl
@[simp] theorem raiseFlags_g_teamId (s : State) (x : Word) : (raiseFlags x s).g.teamId = s.g.teamId := rfl
@[simp] theorem raiseFlags_g_note (s : State) (x : Word) : (raiseFlags x s).g.note = s.g.note := rfl
@[simp] theorem raiseFlags_g_acks (s : State) (x : Word) : (raiseFlags x s).g.acks = s.g.acks := rfl
@[simp] theorem raiseFlags_g_slot (s : State) (x : Word) : (raiseFlags x s).g.slot = s.g.slot := rfl
@[simp] theorem raiseFlags_g_tileRows (s : State) (x : Word) : (raiseFlags x s).g.tileRows = s.g.tileRows := rfl
@[simp] theorem raiseFlags_g_tile (s : State) (x : Word) : (raiseFlags x s).g.tile = s.g.tile := rfl
@[simp] theorem raiseFlags_g_ovf (s : State) (x : Word) : (raiseFlags x s).g.ovf = s.g.ovf := rfl
@[simp] theorem raiseFlags_g_ovfLate (s : State) (x : Word) : (raiseFlags x s).g.ovfLate = s.g.ovfLate := rfl
@[simp] theorem raiseFlags_g_seams (s : State) (x : Word) : (raiseFlags x s).g.seams = s.g.seams := rfl
@[simp] theorem raiseFlags_g_sup (s : State) (x : Word) : (raiseFlags x s).g.sup = s.g.sup := rfl
@[simp] theorem raiseFlags_g_floor (s : State) (x : Word) : (raiseFlags x s).g.floor = s.g.floor := rfl
@[simp] theorem raiseFlags_g_handler (s : State) (x : Word) : (raiseFlags x s).g.handler = s.g.handler := rfl
@[simp] theorem raiseFlags_g_seamSv (s : State) (x : Word) : (raiseFlags x s).g.seamSv = s.g.seamSv := rfl
@[simp] theorem raiseFlags_g_trapvec (s : State) (x : Word) : (raiseFlags x s).g.trapvec = s.g.trapvec := rfl
@[simp] theorem raiseFlags_g_trapcause (s : State) (x : Word) : (raiseFlags x s).g.trapcause = s.g.trapcause := rfl
@[simp] theorem raiseFlags_g_trappc (s : State) (x : Word) : (raiseFlags x s).g.trappc = s.g.trappc := rfl
@[simp] theorem raiseFlags_g_trapaddr (s : State) (x : Word) : (raiseFlags x s).g.trapaddr = s.g.trapaddr := rfl
@[simp] theorem raiseFlags_g_trapmask (s : State) (x : Word) : (raiseFlags x s).g.trapmask = s.g.trapmask := rfl
@[simp] theorem raiseFlags_g_traphdr (s : State) (x : Word) : (raiseFlags x s).g.traphdr = s.g.traphdr := rfl
@[simp] theorem raiseFlags_g_ctxbase (s : State) (x : Word) : (raiseFlags x s).g.ctxbase = s.g.ctxbase := rfl
@[simp] theorem raiseFlags_g_rpseq (s : State) (x : Word) : (raiseFlags x s).g.rpseq = s.g.rpseq := rfl
@[simp] theorem raiseFlags_g_rppc (s : State) (x : Word) : (raiseFlags x s).g.rppc = s.g.rppc := rfl
@[simp] theorem raiseFlags_g_rpjkt (s : State) (x : Word) : (raiseFlags x s).g.rpjkt = s.g.rpjkt := rfl
@[simp] theorem raiseFlags_g_teamstat (s : State) (x : Word) : (raiseFlags x s).g.teamstat = s.g.teamstat := rfl
@[simp] theorem raiseFlags_g_diaginj (s : State) (x : Word) : (raiseFlags x s).g.diaginj = s.g.diaginj := rfl
@[simp] theorem raiseFlags_g_ck (s : State) (x : Word) : (raiseFlags x s).g.ck = s.g.ck := rfl
@[simp] theorem raiseFlags_g_rcnt (s : State) (x : Word) : (raiseFlags x s).g.rcnt = s.g.rcnt := rfl
@[simp] theorem raiseFlags_g_path (s : State) (x : Word) : (raiseFlags x s).g.path = s.g.path := rfl
@[simp] theorem raiseFlags_g_accs (s : State) (x : Word) : (raiseFlags x s).g.accs = s.g.accs := rfl
@[simp] theorem raiseFlags_g_mtx (s : State) (x : Word) : (raiseFlags x s).g.mtx = s.g.mtx := rfl
@[simp] theorem raiseFlags_g_copies (s : State) (x : Word) : (raiseFlags x s).g.copies = s.g.copies := rfl
@[simp] theorem raiseFlags_g_copyFault (s : State) (x : Word) : (raiseFlags x s).g.copyFault = s.g.copyFault := rfl
@[simp] theorem raiseFlags_g_preempt (s : State) (x : Word) : (raiseFlags x s).g.preempt = s.g.preempt := rfl
@[simp] theorem raiseFlags_g_halted (s : State) (x : Word) : (raiseFlags x s).g.halted = s.g.halted := rfl
@[simp] theorem raiseFlags_g_killed (s : State) (x : Word) : (raiseFlags x s).g.killed = s.g.killed := rfl
@[simp] theorem raiseFlags_g_rollback (s : State) (x : Word) : (raiseFlags x s).g.rollback = s.g.rollback := rfl
@[simp] theorem raiseFlags_g_lost (s : State) (x : Word) : (raiseFlags x s).g.lost = s.g.lost := rfl
@[simp] theorem raiseFlags_g_waitTeam (s : State) (x : Word) : (raiseFlags x s).g.waitTeam = s.g.waitTeam := rfl
@[simp] theorem raiseFlags_g_poisonV (s : State) (x : Word) : (raiseFlags x s).g.poisonV = s.g.poisonV := rfl
@[simp] theorem raiseFlags_g_poisonTile (s : State) (x : Word) : (raiseFlags x s).g.poisonTile = s.g.poisonTile := rfl
@[simp] theorem raiseFlags_g_svV (s : State) (x : Word) : (raiseFlags x s).g.svV = s.g.svV := rfl
@[simp] theorem raiseFlags_g_svS (s : State) (x : Word) : (raiseFlags x s).g.svS = s.g.svS := rfl
@[simp] theorem raiseFlags_g_svP (s : State) (x : Word) : (raiseFlags x s).g.svP = s.g.svP := rfl
@[simp] theorem raiseFlags_g_sibs (s : State) (x : Word) : (raiseFlags x s).g.sibs = s.g.sibs := rfl
@[simp] theorem writeFpstat_others (s : State) (x : Word) : (writeFpstat x s).others = s.others := rfl
@[simp] theorem writeFpstat_mem (s : State) (x : Word) : (writeFpstat x s).mem = s.mem := rfl
@[simp] theorem writeFpstat_poison (s : State) (x : Word) : (writeFpstat x s).poison = s.poison := rfl
@[simp] theorem writeFpstat_drowned (s : State) (x : Word) : (writeFpstat x s).drowned = s.drowned := rfl
@[simp] theorem writeFpstat_hostMem (s : State) (x : Word) : (writeFpstat x s).hostMem = s.hostMem := rfl
@[simp] theorem writeFpstat_packets (s : State) (x : Word) : (writeFpstat x s).packets = s.packets := rfl
@[simp] theorem writeFpstat_parts (s : State) (x : Word) : (writeFpstat x s).parts = s.parts := rfl
@[simp] theorem writeFpstat_cores (s : State) (x : Word) : (writeFpstat x s).cores = s.cores := rfl
@[simp] theorem writeFpstat_leases (s : State) (x : Word) : (writeFpstat x s).leases = s.leases := rfl
@[simp] theorem writeFpstat_homes (s : State) (x : Word) : (writeFpstat x s).homes = s.homes := rfl
@[simp] theorem writeFpstat_cards (s : State) (x : Word) : (writeFpstat x s).cards = s.cards := rfl
@[simp] theorem writeFpstat_launches (s : State) (x : Word) : (writeFpstat x s).launches = s.launches := rfl
@[simp] theorem writeFpstat_pkgs (s : State) (x : Word) : (writeFpstat x s).pkgs = s.pkgs := rfl
@[simp] theorem writeFpstat_stale (s : State) (x : Word) : (writeFpstat x s).stale = s.stale := rfl
@[simp] theorem writeFpstat_invals (s : State) (x : Word) : (writeFpstat x s).invals = s.invals := rfl
@[simp] theorem writeFpstat_roce (s : State) (x : Word) : (writeFpstat x s).roce = s.roce := rfl
@[simp] theorem writeFpstat_mirrors (s : State) (x : Word) : (writeFpstat x s).mirrors = s.mirrors := rfl
@[simp] theorem writeFpstat_degraded (s : State) (x : Word) : (writeFpstat x s).degraded = s.degraded := rfl
@[simp] theorem writeFpstat_agenda (s : State) (x : Word) : (writeFpstat x s).agenda = s.agenda := rfl
@[simp] theorem writeFpstat_free (s : State) (x : Word) : (writeFpstat x s).free = s.free := rfl
@[simp] theorem writeFpstat_fresh (s : State) (x : Word) : (writeFpstat x s).fresh = s.fresh := rfl
@[simp] theorem writeFpstat_g_life (s : State) (x : Word) : (writeFpstat x s).g.life = s.g.life := rfl
@[simp] theorem writeFpstat_g_gid (s : State) (x : Word) : (writeFpstat x s).g.gid = s.g.gid := rfl
@[simp] theorem writeFpstat_g_w (s : State) (x : Word) : (writeFpstat x s).g.w = s.g.w := rfl
@[simp] theorem writeFpstat_g_v (s : State) (x : Word) : (writeFpstat x s).g.v = s.g.v := rfl
@[simp] theorem writeFpstat_g_p (s : State) (x : Word) : (writeFpstat x s).g.p = s.g.p := rfl
@[simp] theorem writeFpstat_g_em (s : State) (x : Word) : (writeFpstat x s).g.em = s.g.em := rfl
@[simp] theorem writeFpstat_g_bcur (s : State) (x : Word) : (writeFpstat x s).g.bcur = s.g.bcur := rfl
@[simp] theorem writeFpstat_g_fs (s : State) (x : Word) : (writeFpstat x s).g.fs = s.g.fs := rfl
@[simp] theorem writeFpstat_g_baseHome (s : State) (x : Word) : (writeFpstat x s).g.baseHome = s.g.baseHome := rfl
@[simp] theorem writeFpstat_g_recIdx (s : State) (x : Word) : (writeFpstat x s).g.recIdx = s.g.recIdx := rfl
@[simp] theorem writeFpstat_g_grpInRec (s : State) (x : Word) : (writeFpstat x s).g.grpInRec = s.g.grpInRec := rfl
@[simp] theorem writeFpstat_g_ctx (s : State) (x : Word) : (writeFpstat x s).g.ctx = s.g.ctx := rfl
@[simp] theorem writeFpstat_g_card (s : State) (x : Word) : (writeFpstat x s).g.card = s.g.card := rfl
@[simp] theorem writeFpstat_g_diag (s : State) (x : Word) : (writeFpstat x s).g.diag = s.g.diag := rfl
@[simp] theorem writeFpstat_g_prio (s : State) (x : Word) : (writeFpstat x s).g.prio = s.g.prio := rfl
@[simp] theorem writeFpstat_g_floorPrio (s : State) (x : Word) : (writeFpstat x s).g.floorPrio = s.g.floorPrio := rfl
@[simp] theorem writeFpstat_g_team (s : State) (x : Word) : (writeFpstat x s).g.team = s.g.team := rfl
@[simp] theorem writeFpstat_g_teamVa (s : State) (x : Word) : (writeFpstat x s).g.teamVa = s.g.teamVa := rfl
@[simp] theorem writeFpstat_g_teamPte (s : State) (x : Word) : (writeFpstat x s).g.teamPte = s.g.teamPte := rfl
@[simp] theorem writeFpstat_g_teamId (s : State) (x : Word) : (writeFpstat x s).g.teamId = s.g.teamId := rfl
@[simp] theorem writeFpstat_g_note (s : State) (x : Word) : (writeFpstat x s).g.note = s.g.note := rfl
@[simp] theorem writeFpstat_g_acks (s : State) (x : Word) : (writeFpstat x s).g.acks = s.g.acks := rfl
@[simp] theorem writeFpstat_g_slot (s : State) (x : Word) : (writeFpstat x s).g.slot = s.g.slot := rfl
@[simp] theorem writeFpstat_g_tileRows (s : State) (x : Word) : (writeFpstat x s).g.tileRows = s.g.tileRows := rfl
@[simp] theorem writeFpstat_g_tile (s : State) (x : Word) : (writeFpstat x s).g.tile = s.g.tile := rfl
@[simp] theorem writeFpstat_g_ovf (s : State) (x : Word) : (writeFpstat x s).g.ovf = s.g.ovf := rfl
@[simp] theorem writeFpstat_g_ovfLate (s : State) (x : Word) : (writeFpstat x s).g.ovfLate = s.g.ovfLate := rfl
@[simp] theorem writeFpstat_g_seams (s : State) (x : Word) : (writeFpstat x s).g.seams = s.g.seams := rfl
@[simp] theorem writeFpstat_g_sup (s : State) (x : Word) : (writeFpstat x s).g.sup = s.g.sup := rfl
@[simp] theorem writeFpstat_g_floor (s : State) (x : Word) : (writeFpstat x s).g.floor = s.g.floor := rfl
@[simp] theorem writeFpstat_g_handler (s : State) (x : Word) : (writeFpstat x s).g.handler = s.g.handler := rfl
@[simp] theorem writeFpstat_g_seamSv (s : State) (x : Word) : (writeFpstat x s).g.seamSv = s.g.seamSv := rfl
@[simp] theorem writeFpstat_g_trapvec (s : State) (x : Word) : (writeFpstat x s).g.trapvec = s.g.trapvec := rfl
@[simp] theorem writeFpstat_g_trapcause (s : State) (x : Word) : (writeFpstat x s).g.trapcause = s.g.trapcause := rfl
@[simp] theorem writeFpstat_g_trappc (s : State) (x : Word) : (writeFpstat x s).g.trappc = s.g.trappc := rfl
@[simp] theorem writeFpstat_g_trapaddr (s : State) (x : Word) : (writeFpstat x s).g.trapaddr = s.g.trapaddr := rfl
@[simp] theorem writeFpstat_g_trapmask (s : State) (x : Word) : (writeFpstat x s).g.trapmask = s.g.trapmask := rfl
@[simp] theorem writeFpstat_g_traphdr (s : State) (x : Word) : (writeFpstat x s).g.traphdr = s.g.traphdr := rfl
@[simp] theorem writeFpstat_g_ctxbase (s : State) (x : Word) : (writeFpstat x s).g.ctxbase = s.g.ctxbase := rfl
@[simp] theorem writeFpstat_g_rpseq (s : State) (x : Word) : (writeFpstat x s).g.rpseq = s.g.rpseq := rfl
@[simp] theorem writeFpstat_g_rppc (s : State) (x : Word) : (writeFpstat x s).g.rppc = s.g.rppc := rfl
@[simp] theorem writeFpstat_g_rpjkt (s : State) (x : Word) : (writeFpstat x s).g.rpjkt = s.g.rpjkt := rfl
@[simp] theorem writeFpstat_g_teamstat (s : State) (x : Word) : (writeFpstat x s).g.teamstat = s.g.teamstat := rfl
@[simp] theorem writeFpstat_g_diaginj (s : State) (x : Word) : (writeFpstat x s).g.diaginj = s.g.diaginj := rfl
@[simp] theorem writeFpstat_g_ck (s : State) (x : Word) : (writeFpstat x s).g.ck = s.g.ck := rfl
@[simp] theorem writeFpstat_g_rcnt (s : State) (x : Word) : (writeFpstat x s).g.rcnt = s.g.rcnt := rfl
@[simp] theorem writeFpstat_g_path (s : State) (x : Word) : (writeFpstat x s).g.path = s.g.path := rfl
@[simp] theorem writeFpstat_g_accs (s : State) (x : Word) : (writeFpstat x s).g.accs = s.g.accs := rfl
@[simp] theorem writeFpstat_g_mtx (s : State) (x : Word) : (writeFpstat x s).g.mtx = s.g.mtx := rfl
@[simp] theorem writeFpstat_g_copies (s : State) (x : Word) : (writeFpstat x s).g.copies = s.g.copies := rfl
@[simp] theorem writeFpstat_g_copyFault (s : State) (x : Word) : (writeFpstat x s).g.copyFault = s.g.copyFault := rfl
@[simp] theorem writeFpstat_g_preempt (s : State) (x : Word) : (writeFpstat x s).g.preempt = s.g.preempt := rfl
@[simp] theorem writeFpstat_g_halted (s : State) (x : Word) : (writeFpstat x s).g.halted = s.g.halted := rfl
@[simp] theorem writeFpstat_g_killed (s : State) (x : Word) : (writeFpstat x s).g.killed = s.g.killed := rfl
@[simp] theorem writeFpstat_g_rollback (s : State) (x : Word) : (writeFpstat x s).g.rollback = s.g.rollback := rfl
@[simp] theorem writeFpstat_g_lost (s : State) (x : Word) : (writeFpstat x s).g.lost = s.g.lost := rfl
@[simp] theorem writeFpstat_g_waitTeam (s : State) (x : Word) : (writeFpstat x s).g.waitTeam = s.g.waitTeam := rfl
@[simp] theorem writeFpstat_g_poisonV (s : State) (x : Word) : (writeFpstat x s).g.poisonV = s.g.poisonV := rfl
@[simp] theorem writeFpstat_g_poisonTile (s : State) (x : Word) : (writeFpstat x s).g.poisonTile = s.g.poisonTile := rfl
@[simp] theorem writeFpstat_g_svV (s : State) (x : Word) : (writeFpstat x s).g.svV = s.g.svV := rfl
@[simp] theorem writeFpstat_g_svS (s : State) (x : Word) : (writeFpstat x s).g.svS = s.g.svS := rfl
@[simp] theorem writeFpstat_g_svP (s : State) (x : Word) : (writeFpstat x s).g.svP = s.g.svP := rfl
@[simp] theorem writeFpstat_g_sibs (s : State) (x : Word) : (writeFpstat x s).g.sibs = s.g.sibs := rfl
@[simp] theorem branchTo_pc (s : State) (t : DWord) : (branchTo t s).g.sp.pc = t := rfl
@[simp] theorem branchTo_clause (s : State) (t : DWord) : (branchTo t s).g.sp.clause = {} := rfl
@[simp] theorem raiseFlags_fpstat (s : State) (x : Word) : (raiseFlags x s).g.sp.fpstat = s.g.sp.fpstat ||| x := rfl
@[simp] theorem writeFpstat_fpstat (s : State) (x : Word) : (writeFpstat x s).g.sp.fpstat = x &&& fpstatMask := rfl
@[simp] theorem advance_idx (sp : Split) : sp.advance.idx = sp.idx := by unfold Split.advance; dsimp only; split <;> rfl
@[simp] theorem advance_lanes (sp : Split) : sp.advance.lanes = sp.lanes := by unfold Split.advance; dsimp only; split <;> rfl
@[simp] theorem advance_status (sp : Split) : sp.advance.status = sp.status := by unfold Split.advance; dsimp only; split <;> rfl
@[simp] theorem advance_seam (sp : Split) : sp.advance.seam = sp.seam := by unfold Split.advance; dsimp only; split <;> rfl
@[simp] theorem advance_home (sp : Split) : sp.advance.home = sp.home := by unfold Split.advance; dsimp only; split <;> rfl
@[simp] theorem advance_demoted (sp : Split) : sp.advance.demoted = sp.demoted := by unfold Split.advance; dsimp only; split <;> rfl
@[simp] theorem advance_part (sp : Split) : sp.advance.part = sp.part := by unfold Split.advance; dsimp only; split <;> rfl
@[simp] theorem advance_s (sp : Split) : sp.advance.s = sp.s := by unfold Split.advance; dsimp only; split <;> rfl
@[simp] theorem advance_fpstat (sp : Split) : sp.advance.fpstat = sp.fpstat := by unfold Split.advance; dsimp only; split <;> rfl
@[simp] theorem advance_resgen (sp : Split) : sp.advance.resgen = sp.resgen := by unfold Split.advance; dsimp only; split <;> rfl
@[simp] theorem advance_ops (sp : Split) : sp.advance.ops = sp.ops := by unfold Split.advance; dsimp only; split <;> rfl
@[simp] theorem advance_acquire (sp : Split) : sp.advance.acquire = sp.acquire := by unfold Split.advance; dsimp only; split <;> rfl
@[simp] theorem advance_fence (sp : Split) : sp.advance.fence = sp.fence := by unfold Split.advance; dsimp only; split <;> rfl
@[simp] theorem advance_await (sp : Split) : sp.advance.await = sp.await := by unfold Split.advance; dsimp only; split <;> rfl
@[simp] theorem advance_sent (sp : Split) : sp.advance.sent = sp.sent := by unfold Split.advance; dsimp only; split <;> rfl
@[simp] theorem advance_cross (sp : Split) : sp.advance.cross = sp.cross := by unfold Split.advance; dsimp only; split <;> rfl
@[simp] theorem advance_lastPart (sp : Split) : sp.advance.lastPart = sp.lastPart := by unfold Split.advance; dsimp only; split <;> rfl
@[simp] theorem advance_jacket (sp : Split) : sp.advance.jacket = sp.jacket := by unfold Split.advance; dsimp only; split <;> rfl
@[simp] theorem advance_strands (sp : Split) : sp.advance.strands = sp.strands := by unfold Split.advance; dsimp only; split <;> rfl
@[simp] theorem advance_safe (sp : Split) : sp.advance.safe = sp.safe := by unfold Split.advance; dsimp only; split <;> rfl
@[simp] theorem advance_region (sp : Split) : sp.advance.region = sp.region := by unfold Split.advance; dsimp only; split <;> rfl
@[simp] theorem advance_wait (sp : Split) : sp.advance.wait = sp.wait := by unfold Split.advance; dsimp only; split <;> rfl
@[simp] theorem advance_wonly (sp : Split) : sp.advance.wonly = sp.wonly := by unfold Split.advance; dsimp only; split <;> rfl
@[simp] theorem advance_move (sp : Split) : sp.advance.move = sp.move := by unfold Split.advance; dsimp only; split <;> rfl
@[simp] theorem advance_ls (sp : Split) : sp.advance.ls = sp.ls := by unfold Split.advance; dsimp only; split <;> rfl
@[simp] theorem advance_keep (sp : Split) : sp.advance.keep = sp.keep := by unfold Split.advance; dsimp only; split <;> rfl
@[simp] theorem advance_live (sp : Split) : sp.advance.live = sp.live := by unfold Split.advance; dsimp only; split <;> rfl
@[simp] theorem advance_joins (sp : Split) : sp.advance.joins = sp.joins := by unfold Split.advance; dsimp only; split <;> rfl
@[simp] theorem advance_watch (sp : Split) : sp.advance.watch = sp.watch := by unfold Split.advance; dsimp only; split <;> rfl
@[simp] theorem advance_woken (sp : Split) : sp.advance.woken = sp.woken := by unfold Split.advance; dsimp only; split <;> rfl
@[simp] theorem advance_lastLoad (sp : Split) : sp.advance.lastLoad = sp.lastLoad := by unfold Split.advance; dsimp only; split <;> rfl
@[simp] theorem advance_timeout (sp : Split) : sp.advance.timeout = sp.timeout := by unfold Split.advance; dsimp only; split <;> rfl
@[simp] theorem advance_trap (sp : Split) : sp.advance.trap = sp.trap := by unfold Split.advance; dsimp only; split <;> rfl
@[simp] theorem advance_restart (sp : Split) : sp.advance.restart = sp.restart := by unfold Split.advance; dsimp only; split <;> rfl
@[simp] theorem advance_err (sp : Split) : sp.advance.err = sp.err := by unfold Split.advance; dsimp only; split <;> rfl
@[simp] theorem advance_stopped (sp : Split) : sp.advance.stopped = sp.stopped := by unfold Split.advance; dsimp only; split <;> rfl
@[simp] theorem advance_crc (sp : Split) : sp.advance.crc = sp.crc := by unfold Split.advance; dsimp only; split <;> rfl
@[simp] theorem advance_inval (sp : Split) : sp.advance.inval = sp.inval := by unfold Split.advance; dsimp only; split <;> rfl
@[simp] theorem advance_spin (sp : Split) : sp.advance.spin = sp.spin := by unfold Split.advance; dsimp only; split <;> rfl
@[simp] theorem advance_trace (sp : Split) : sp.advance.trace = sp.trace := by unfold Split.advance; dsimp only; split <;> rfl
@[simp] theorem advance_prev (sp : Split) : sp.advance.prev = sp.prev := by unfold Split.advance; dsimp only; split <;> rfl
@[simp] theorem advance_past (sp : Split) : sp.advance.past = sp.past := by unfold Split.advance; dsimp only; split <;> rfl
@[simp] theorem advance_dirty (sp : Split) : sp.advance.dirty = sp.dirty := by unfold Split.advance; dsimp only; split <;> rfl
@[simp] theorem advance_poisonS (sp : Split) : sp.advance.poisonS = sp.poisonS := by unfold Split.advance; dsimp only; split <;> rfl
@[simp] theorem advance_poisonP (sp : Split) : sp.advance.poisonP = sp.poisonP := by unfold Split.advance; dsimp only; split <;> rfl
@[simp] theorem complete_sp_idx (s : State) : (complete s).g.sp.idx = s.g.sp.idx := advance_idx s.g.sp
@[simp] theorem complete_sp_lanes (s : State) : (complete s).g.sp.lanes = s.g.sp.lanes := advance_lanes s.g.sp
@[simp] theorem complete_sp_status (s : State) : (complete s).g.sp.status = s.g.sp.status := advance_status s.g.sp
@[simp] theorem complete_sp_seam (s : State) : (complete s).g.sp.seam = s.g.sp.seam := advance_seam s.g.sp
@[simp] theorem complete_sp_home (s : State) : (complete s).g.sp.home = s.g.sp.home := advance_home s.g.sp
@[simp] theorem complete_sp_demoted (s : State) : (complete s).g.sp.demoted = s.g.sp.demoted := advance_demoted s.g.sp
@[simp] theorem complete_sp_part (s : State) : (complete s).g.sp.part = s.g.sp.part := advance_part s.g.sp
@[simp] theorem complete_sp_s (s : State) : (complete s).g.sp.s = s.g.sp.s := advance_s s.g.sp
@[simp] theorem complete_sp_fpstat (s : State) : (complete s).g.sp.fpstat = s.g.sp.fpstat := advance_fpstat s.g.sp
@[simp] theorem complete_sp_resgen (s : State) : (complete s).g.sp.resgen = s.g.sp.resgen := advance_resgen s.g.sp
@[simp] theorem complete_sp_ops (s : State) : (complete s).g.sp.ops = s.g.sp.ops := advance_ops s.g.sp
@[simp] theorem complete_sp_acquire (s : State) : (complete s).g.sp.acquire = s.g.sp.acquire := advance_acquire s.g.sp
@[simp] theorem complete_sp_fence (s : State) : (complete s).g.sp.fence = s.g.sp.fence := advance_fence s.g.sp
@[simp] theorem complete_sp_await (s : State) : (complete s).g.sp.await = s.g.sp.await := advance_await s.g.sp
@[simp] theorem complete_sp_sent (s : State) : (complete s).g.sp.sent = s.g.sp.sent := advance_sent s.g.sp
@[simp] theorem complete_sp_cross (s : State) : (complete s).g.sp.cross = s.g.sp.cross := advance_cross s.g.sp
@[simp] theorem complete_sp_lastPart (s : State) : (complete s).g.sp.lastPart = s.g.sp.lastPart := advance_lastPart s.g.sp
@[simp] theorem complete_sp_jacket (s : State) : (complete s).g.sp.jacket = s.g.sp.jacket := advance_jacket s.g.sp
@[simp] theorem complete_sp_strands (s : State) : (complete s).g.sp.strands = s.g.sp.strands := advance_strands s.g.sp
@[simp] theorem complete_sp_region (s : State) : (complete s).g.sp.region = s.g.sp.region := advance_region s.g.sp
@[simp] theorem complete_sp_wait (s : State) : (complete s).g.sp.wait = s.g.sp.wait := advance_wait s.g.sp
@[simp] theorem complete_sp_wonly (s : State) : (complete s).g.sp.wonly = s.g.sp.wonly := advance_wonly s.g.sp
@[simp] theorem complete_sp_move (s : State) : (complete s).g.sp.move = s.g.sp.move := advance_move s.g.sp
@[simp] theorem complete_sp_ls (s : State) : (complete s).g.sp.ls = s.g.sp.ls := advance_ls s.g.sp
@[simp] theorem complete_sp_keep (s : State) : (complete s).g.sp.keep = s.g.sp.keep := advance_keep s.g.sp
@[simp] theorem complete_sp_live (s : State) : (complete s).g.sp.live = s.g.sp.live := advance_live s.g.sp
@[simp] theorem complete_sp_joins (s : State) : (complete s).g.sp.joins = s.g.sp.joins := advance_joins s.g.sp
@[simp] theorem complete_sp_watch (s : State) : (complete s).g.sp.watch = s.g.sp.watch := advance_watch s.g.sp
@[simp] theorem complete_sp_woken (s : State) : (complete s).g.sp.woken = s.g.sp.woken := advance_woken s.g.sp
@[simp] theorem complete_sp_lastLoad (s : State) : (complete s).g.sp.lastLoad = s.g.sp.lastLoad := advance_lastLoad s.g.sp
@[simp] theorem complete_sp_timeout (s : State) : (complete s).g.sp.timeout = s.g.sp.timeout := advance_timeout s.g.sp
@[simp] theorem complete_sp_trap (s : State) : (complete s).g.sp.trap = s.g.sp.trap := advance_trap s.g.sp
@[simp] theorem complete_sp_restart (s : State) : (complete s).g.sp.restart = s.g.sp.restart := advance_restart s.g.sp
@[simp] theorem complete_sp_err (s : State) : (complete s).g.sp.err = s.g.sp.err := advance_err s.g.sp
@[simp] theorem complete_sp_stopped (s : State) : (complete s).g.sp.stopped = s.g.sp.stopped := advance_stopped s.g.sp
@[simp] theorem complete_sp_crc (s : State) : (complete s).g.sp.crc = s.g.sp.crc := advance_crc s.g.sp
@[simp] theorem complete_sp_inval (s : State) : (complete s).g.sp.inval = s.g.sp.inval := advance_inval s.g.sp
@[simp] theorem complete_sp_spin (s : State) : (complete s).g.sp.spin = s.g.sp.spin := advance_spin s.g.sp
@[simp] theorem complete_sp_trace (s : State) : (complete s).g.sp.trace = s.g.sp.trace := advance_trace s.g.sp
@[simp] theorem complete_sp_prev (s : State) : (complete s).g.sp.prev = s.g.sp.prev := advance_prev s.g.sp
@[simp] theorem complete_sp_past (s : State) : (complete s).g.sp.past = s.g.sp.past := advance_past s.g.sp
@[simp] theorem complete_sp_dirty (s : State) : (complete s).g.sp.dirty = s.g.sp.dirty := advance_dirty s.g.sp
@[simp] theorem complete_sp_poisonS (s : State) : (complete s).g.sp.poisonS = s.g.sp.poisonS := advance_poisonS s.g.sp
@[simp] theorem complete_sp_poisonP (s : State) : (complete s).g.sp.poisonP = s.g.sp.poisonP := advance_poisonP s.g.sp
@[simp] theorem complete_sp_safe (s : State) : (complete s).g.sp.safe = s.g.sp.safe + 1 := rfl
@[simp] theorem completeSafe_sp_safe (s : State) : (completeSafe s).g.sp.safe = 0 := rfl

/-! ### Registers -/

@[simp] theorem writeS_others (s : State) (n : SReg) (x : DWord) : (writeS n x s).others = s.others := by unfold writeS; split <;> rfl
@[simp] theorem writeS_mem (s : State) (n : SReg) (x : DWord) : (writeS n x s).mem = s.mem := by unfold writeS; split <;> rfl
@[simp] theorem writeS_poison (s : State) (n : SReg) (x : DWord) : (writeS n x s).poison = s.poison := by unfold writeS; split <;> rfl
@[simp] theorem writeS_drowned (s : State) (n : SReg) (x : DWord) : (writeS n x s).drowned = s.drowned := by unfold writeS; split <;> rfl
@[simp] theorem writeS_hostMem (s : State) (n : SReg) (x : DWord) : (writeS n x s).hostMem = s.hostMem := by unfold writeS; split <;> rfl
@[simp] theorem writeS_packets (s : State) (n : SReg) (x : DWord) : (writeS n x s).packets = s.packets := by unfold writeS; split <;> rfl
@[simp] theorem writeS_parts (s : State) (n : SReg) (x : DWord) : (writeS n x s).parts = s.parts := by unfold writeS; split <;> rfl
@[simp] theorem writeS_cores (s : State) (n : SReg) (x : DWord) : (writeS n x s).cores = s.cores := by unfold writeS; split <;> rfl
@[simp] theorem writeS_leases (s : State) (n : SReg) (x : DWord) : (writeS n x s).leases = s.leases := by unfold writeS; split <;> rfl
@[simp] theorem writeS_homes (s : State) (n : SReg) (x : DWord) : (writeS n x s).homes = s.homes := by unfold writeS; split <;> rfl
@[simp] theorem writeS_cards (s : State) (n : SReg) (x : DWord) : (writeS n x s).cards = s.cards := by unfold writeS; split <;> rfl
@[simp] theorem writeS_launches (s : State) (n : SReg) (x : DWord) : (writeS n x s).launches = s.launches := by unfold writeS; split <;> rfl
@[simp] theorem writeS_pkgs (s : State) (n : SReg) (x : DWord) : (writeS n x s).pkgs = s.pkgs := by unfold writeS; split <;> rfl
@[simp] theorem writeS_stale (s : State) (n : SReg) (x : DWord) : (writeS n x s).stale = s.stale := by unfold writeS; split <;> rfl
@[simp] theorem writeS_invals (s : State) (n : SReg) (x : DWord) : (writeS n x s).invals = s.invals := by unfold writeS; split <;> rfl
@[simp] theorem writeS_roce (s : State) (n : SReg) (x : DWord) : (writeS n x s).roce = s.roce := by unfold writeS; split <;> rfl
@[simp] theorem writeS_mirrors (s : State) (n : SReg) (x : DWord) : (writeS n x s).mirrors = s.mirrors := by unfold writeS; split <;> rfl
@[simp] theorem writeS_degraded (s : State) (n : SReg) (x : DWord) : (writeS n x s).degraded = s.degraded := by unfold writeS; split <;> rfl
@[simp] theorem writeS_agenda (s : State) (n : SReg) (x : DWord) : (writeS n x s).agenda = s.agenda := by unfold writeS; split <;> rfl
@[simp] theorem writeS_free (s : State) (n : SReg) (x : DWord) : (writeS n x s).free = s.free := by unfold writeS; split <;> rfl
@[simp] theorem writeS_fresh (s : State) (n : SReg) (x : DWord) : (writeS n x s).fresh = s.fresh := by unfold writeS; split <;> rfl
@[simp] theorem writeS_g_life (s : State) (n : SReg) (x : DWord) : (writeS n x s).g.life = s.g.life := by unfold writeS; split <;> rfl
@[simp] theorem writeS_g_gid (s : State) (n : SReg) (x : DWord) : (writeS n x s).g.gid = s.g.gid := by unfold writeS; split <;> rfl
@[simp] theorem writeS_g_w (s : State) (n : SReg) (x : DWord) : (writeS n x s).g.w = s.g.w := by unfold writeS; split <;> rfl
@[simp] theorem writeS_g_v (s : State) (n : SReg) (x : DWord) : (writeS n x s).g.v = s.g.v := by unfold writeS; split <;> rfl
@[simp] theorem writeS_g_p (s : State) (n : SReg) (x : DWord) : (writeS n x s).g.p = s.g.p := by unfold writeS; split <;> rfl
@[simp] theorem writeS_g_em (s : State) (n : SReg) (x : DWord) : (writeS n x s).g.em = s.g.em := by unfold writeS; split <;> rfl
@[simp] theorem writeS_g_bcur (s : State) (n : SReg) (x : DWord) : (writeS n x s).g.bcur = s.g.bcur := by unfold writeS; split <;> rfl
@[simp] theorem writeS_g_fs (s : State) (n : SReg) (x : DWord) : (writeS n x s).g.fs = s.g.fs := by unfold writeS; split <;> rfl
@[simp] theorem writeS_g_baseHome (s : State) (n : SReg) (x : DWord) : (writeS n x s).g.baseHome = s.g.baseHome := by unfold writeS; split <;> rfl
@[simp] theorem writeS_g_recIdx (s : State) (n : SReg) (x : DWord) : (writeS n x s).g.recIdx = s.g.recIdx := by unfold writeS; split <;> rfl
@[simp] theorem writeS_g_grpInRec (s : State) (n : SReg) (x : DWord) : (writeS n x s).g.grpInRec = s.g.grpInRec := by unfold writeS; split <;> rfl
@[simp] theorem writeS_g_ctx (s : State) (n : SReg) (x : DWord) : (writeS n x s).g.ctx = s.g.ctx := by unfold writeS; split <;> rfl
@[simp] theorem writeS_g_card (s : State) (n : SReg) (x : DWord) : (writeS n x s).g.card = s.g.card := by unfold writeS; split <;> rfl
@[simp] theorem writeS_g_diag (s : State) (n : SReg) (x : DWord) : (writeS n x s).g.diag = s.g.diag := by unfold writeS; split <;> rfl
@[simp] theorem writeS_g_prio (s : State) (n : SReg) (x : DWord) : (writeS n x s).g.prio = s.g.prio := by unfold writeS; split <;> rfl
@[simp] theorem writeS_g_floorPrio (s : State) (n : SReg) (x : DWord) : (writeS n x s).g.floorPrio = s.g.floorPrio := by unfold writeS; split <;> rfl
@[simp] theorem writeS_g_team (s : State) (n : SReg) (x : DWord) : (writeS n x s).g.team = s.g.team := by unfold writeS; split <;> rfl
@[simp] theorem writeS_g_teamVa (s : State) (n : SReg) (x : DWord) : (writeS n x s).g.teamVa = s.g.teamVa := by unfold writeS; split <;> rfl
@[simp] theorem writeS_g_teamPte (s : State) (n : SReg) (x : DWord) : (writeS n x s).g.teamPte = s.g.teamPte := by unfold writeS; split <;> rfl
@[simp] theorem writeS_g_teamId (s : State) (n : SReg) (x : DWord) : (writeS n x s).g.teamId = s.g.teamId := by unfold writeS; split <;> rfl
@[simp] theorem writeS_g_note (s : State) (n : SReg) (x : DWord) : (writeS n x s).g.note = s.g.note := by unfold writeS; split <;> rfl
@[simp] theorem writeS_g_acks (s : State) (n : SReg) (x : DWord) : (writeS n x s).g.acks = s.g.acks := by unfold writeS; split <;> rfl
@[simp] theorem writeS_g_slot (s : State) (n : SReg) (x : DWord) : (writeS n x s).g.slot = s.g.slot := by unfold writeS; split <;> rfl
@[simp] theorem writeS_g_tileRows (s : State) (n : SReg) (x : DWord) : (writeS n x s).g.tileRows = s.g.tileRows := by unfold writeS; split <;> rfl
@[simp] theorem writeS_g_tile (s : State) (n : SReg) (x : DWord) : (writeS n x s).g.tile = s.g.tile := by unfold writeS; split <;> rfl
@[simp] theorem writeS_g_ovf (s : State) (n : SReg) (x : DWord) : (writeS n x s).g.ovf = s.g.ovf := by unfold writeS; split <;> rfl
@[simp] theorem writeS_g_ovfLate (s : State) (n : SReg) (x : DWord) : (writeS n x s).g.ovfLate = s.g.ovfLate := by unfold writeS; split <;> rfl
@[simp] theorem writeS_g_seams (s : State) (n : SReg) (x : DWord) : (writeS n x s).g.seams = s.g.seams := by unfold writeS; split <;> rfl
@[simp] theorem writeS_g_sup (s : State) (n : SReg) (x : DWord) : (writeS n x s).g.sup = s.g.sup := by unfold writeS; split <;> rfl
@[simp] theorem writeS_g_floor (s : State) (n : SReg) (x : DWord) : (writeS n x s).g.floor = s.g.floor := by unfold writeS; split <;> rfl
@[simp] theorem writeS_g_handler (s : State) (n : SReg) (x : DWord) : (writeS n x s).g.handler = s.g.handler := by unfold writeS; split <;> rfl
@[simp] theorem writeS_g_seamSv (s : State) (n : SReg) (x : DWord) : (writeS n x s).g.seamSv = s.g.seamSv := by unfold writeS; split <;> rfl
@[simp] theorem writeS_g_trapvec (s : State) (n : SReg) (x : DWord) : (writeS n x s).g.trapvec = s.g.trapvec := by unfold writeS; split <;> rfl
@[simp] theorem writeS_g_trapcause (s : State) (n : SReg) (x : DWord) : (writeS n x s).g.trapcause = s.g.trapcause := by unfold writeS; split <;> rfl
@[simp] theorem writeS_g_trappc (s : State) (n : SReg) (x : DWord) : (writeS n x s).g.trappc = s.g.trappc := by unfold writeS; split <;> rfl
@[simp] theorem writeS_g_trapaddr (s : State) (n : SReg) (x : DWord) : (writeS n x s).g.trapaddr = s.g.trapaddr := by unfold writeS; split <;> rfl
@[simp] theorem writeS_g_trapmask (s : State) (n : SReg) (x : DWord) : (writeS n x s).g.trapmask = s.g.trapmask := by unfold writeS; split <;> rfl
@[simp] theorem writeS_g_traphdr (s : State) (n : SReg) (x : DWord) : (writeS n x s).g.traphdr = s.g.traphdr := by unfold writeS; split <;> rfl
@[simp] theorem writeS_g_ctxbase (s : State) (n : SReg) (x : DWord) : (writeS n x s).g.ctxbase = s.g.ctxbase := by unfold writeS; split <;> rfl
@[simp] theorem writeS_g_rpseq (s : State) (n : SReg) (x : DWord) : (writeS n x s).g.rpseq = s.g.rpseq := by unfold writeS; split <;> rfl
@[simp] theorem writeS_g_rppc (s : State) (n : SReg) (x : DWord) : (writeS n x s).g.rppc = s.g.rppc := by unfold writeS; split <;> rfl
@[simp] theorem writeS_g_rpjkt (s : State) (n : SReg) (x : DWord) : (writeS n x s).g.rpjkt = s.g.rpjkt := by unfold writeS; split <;> rfl
@[simp] theorem writeS_g_teamstat (s : State) (n : SReg) (x : DWord) : (writeS n x s).g.teamstat = s.g.teamstat := by unfold writeS; split <;> rfl
@[simp] theorem writeS_g_diaginj (s : State) (n : SReg) (x : DWord) : (writeS n x s).g.diaginj = s.g.diaginj := by unfold writeS; split <;> rfl
@[simp] theorem writeS_g_ck (s : State) (n : SReg) (x : DWord) : (writeS n x s).g.ck = s.g.ck := by unfold writeS; split <;> rfl
@[simp] theorem writeS_g_rcnt (s : State) (n : SReg) (x : DWord) : (writeS n x s).g.rcnt = s.g.rcnt := by unfold writeS; split <;> rfl
@[simp] theorem writeS_g_path (s : State) (n : SReg) (x : DWord) : (writeS n x s).g.path = s.g.path := by unfold writeS; split <;> rfl
@[simp] theorem writeS_g_accs (s : State) (n : SReg) (x : DWord) : (writeS n x s).g.accs = s.g.accs := by unfold writeS; split <;> rfl
@[simp] theorem writeS_g_mtx (s : State) (n : SReg) (x : DWord) : (writeS n x s).g.mtx = s.g.mtx := by unfold writeS; split <;> rfl
@[simp] theorem writeS_g_copies (s : State) (n : SReg) (x : DWord) : (writeS n x s).g.copies = s.g.copies := by unfold writeS; split <;> rfl
@[simp] theorem writeS_g_copyFault (s : State) (n : SReg) (x : DWord) : (writeS n x s).g.copyFault = s.g.copyFault := by unfold writeS; split <;> rfl
@[simp] theorem writeS_g_preempt (s : State) (n : SReg) (x : DWord) : (writeS n x s).g.preempt = s.g.preempt := by unfold writeS; split <;> rfl
@[simp] theorem writeS_g_halted (s : State) (n : SReg) (x : DWord) : (writeS n x s).g.halted = s.g.halted := by unfold writeS; split <;> rfl
@[simp] theorem writeS_g_killed (s : State) (n : SReg) (x : DWord) : (writeS n x s).g.killed = s.g.killed := by unfold writeS; split <;> rfl
@[simp] theorem writeS_g_rollback (s : State) (n : SReg) (x : DWord) : (writeS n x s).g.rollback = s.g.rollback := by unfold writeS; split <;> rfl
@[simp] theorem writeS_g_lost (s : State) (n : SReg) (x : DWord) : (writeS n x s).g.lost = s.g.lost := by unfold writeS; split <;> rfl
@[simp] theorem writeS_g_waitTeam (s : State) (n : SReg) (x : DWord) : (writeS n x s).g.waitTeam = s.g.waitTeam := by unfold writeS; split <;> rfl
@[simp] theorem writeS_g_poisonV (s : State) (n : SReg) (x : DWord) : (writeS n x s).g.poisonV = s.g.poisonV := by unfold writeS; split <;> rfl
@[simp] theorem writeS_g_poisonTile (s : State) (n : SReg) (x : DWord) : (writeS n x s).g.poisonTile = s.g.poisonTile := by unfold writeS; split <;> rfl
@[simp] theorem writeS_g_svV (s : State) (n : SReg) (x : DWord) : (writeS n x s).g.svV = s.g.svV := by unfold writeS; split <;> rfl
@[simp] theorem writeS_g_svS (s : State) (n : SReg) (x : DWord) : (writeS n x s).g.svS = s.g.svS := by unfold writeS; split <;> rfl
@[simp] theorem writeS_g_svP (s : State) (n : SReg) (x : DWord) : (writeS n x s).g.svP = s.g.svP := by unfold writeS; split <;> rfl
@[simp] theorem writeS_g_sibs (s : State) (n : SReg) (x : DWord) : (writeS n x s).g.sibs = s.g.sibs := by unfold writeS; split <;> rfl
@[simp] theorem writeS_sp_idx (s : State) (n : SReg) (x : DWord) : (writeS n x s).g.sp.idx = s.g.sp.idx := by unfold writeS; split <;> rfl
@[simp] theorem writeS_sp_pc (s : State) (n : SReg) (x : DWord) : (writeS n x s).g.sp.pc = s.g.sp.pc := by unfold writeS; split <;> rfl
@[simp] theorem writeS_sp_lanes (s : State) (n : SReg) (x : DWord) : (writeS n x s).g.sp.lanes = s.g.sp.lanes := by unfold writeS; split <;> rfl
@[simp] theorem writeS_sp_status (s : State) (n : SReg) (x : DWord) : (writeS n x s).g.sp.status = s.g.sp.status := by unfold writeS; split <;> rfl
@[simp] theorem writeS_sp_seam (s : State) (n : SReg) (x : DWord) : (writeS n x s).g.sp.seam = s.g.sp.seam := by unfold writeS; split <;> rfl
@[simp] theorem writeS_sp_home (s : State) (n : SReg) (x : DWord) : (writeS n x s).g.sp.home = s.g.sp.home := by unfold writeS; split <;> rfl
@[simp] theorem writeS_sp_demoted (s : State) (n : SReg) (x : DWord) : (writeS n x s).g.sp.demoted = s.g.sp.demoted := by unfold writeS; split <;> rfl
@[simp] theorem writeS_sp_part (s : State) (n : SReg) (x : DWord) : (writeS n x s).g.sp.part = s.g.sp.part := by unfold writeS; split <;> rfl
@[simp] theorem writeS_sp_fpstat (s : State) (n : SReg) (x : DWord) : (writeS n x s).g.sp.fpstat = s.g.sp.fpstat := by unfold writeS; split <;> rfl
@[simp] theorem writeS_sp_resgen (s : State) (n : SReg) (x : DWord) : (writeS n x s).g.sp.resgen = s.g.sp.resgen := by unfold writeS; split <;> rfl
@[simp] theorem writeS_sp_clause (s : State) (n : SReg) (x : DWord) : (writeS n x s).g.sp.clause = s.g.sp.clause := by unfold writeS; split <;> rfl
@[simp] theorem writeS_sp_ops (s : State) (n : SReg) (x : DWord) : (writeS n x s).g.sp.ops = s.g.sp.ops := by unfold writeS; split <;> rfl
@[simp] theorem writeS_sp_acquire (s : State) (n : SReg) (x : DWord) : (writeS n x s).g.sp.acquire = s.g.sp.acquire := by unfold writeS; split <;> rfl
@[simp] theorem writeS_sp_fence (s : State) (n : SReg) (x : DWord) : (writeS n x s).g.sp.fence = s.g.sp.fence := by unfold writeS; split <;> rfl
@[simp] theorem writeS_sp_await (s : State) (n : SReg) (x : DWord) : (writeS n x s).g.sp.await = s.g.sp.await := by unfold writeS; split <;> rfl
@[simp] theorem writeS_sp_sent (s : State) (n : SReg) (x : DWord) : (writeS n x s).g.sp.sent = s.g.sp.sent := by unfold writeS; split <;> rfl
@[simp] theorem writeS_sp_cross (s : State) (n : SReg) (x : DWord) : (writeS n x s).g.sp.cross = s.g.sp.cross := by unfold writeS; split <;> rfl
@[simp] theorem writeS_sp_lastPart (s : State) (n : SReg) (x : DWord) : (writeS n x s).g.sp.lastPart = s.g.sp.lastPart := by unfold writeS; split <;> rfl
@[simp] theorem writeS_sp_jacket (s : State) (n : SReg) (x : DWord) : (writeS n x s).g.sp.jacket = s.g.sp.jacket := by unfold writeS; split <;> rfl
@[simp] theorem writeS_sp_strands (s : State) (n : SReg) (x : DWord) : (writeS n x s).g.sp.strands = s.g.sp.strands := by unfold writeS; split <;> rfl
@[simp] theorem writeS_sp_safe (s : State) (n : SReg) (x : DWord) : (writeS n x s).g.sp.safe = s.g.sp.safe := by unfold writeS; split <;> rfl
@[simp] theorem writeS_sp_region (s : State) (n : SReg) (x : DWord) : (writeS n x s).g.sp.region = s.g.sp.region := by unfold writeS; split <;> rfl
@[simp] theorem writeS_sp_wait (s : State) (n : SReg) (x : DWord) : (writeS n x s).g.sp.wait = s.g.sp.wait := by unfold writeS; split <;> rfl
@[simp] theorem writeS_sp_wonly (s : State) (n : SReg) (x : DWord) : (writeS n x s).g.sp.wonly = s.g.sp.wonly := by unfold writeS; split <;> rfl
@[simp] theorem writeS_sp_move (s : State) (n : SReg) (x : DWord) : (writeS n x s).g.sp.move = s.g.sp.move := by unfold writeS; split <;> rfl
@[simp] theorem writeS_sp_ls (s : State) (n : SReg) (x : DWord) : (writeS n x s).g.sp.ls = s.g.sp.ls := by unfold writeS; split <;> rfl
@[simp] theorem writeS_sp_keep (s : State) (n : SReg) (x : DWord) : (writeS n x s).g.sp.keep = s.g.sp.keep := by unfold writeS; split <;> rfl
@[simp] theorem writeS_sp_live (s : State) (n : SReg) (x : DWord) : (writeS n x s).g.sp.live = s.g.sp.live := by unfold writeS; split <;> rfl
@[simp] theorem writeS_sp_joins (s : State) (n : SReg) (x : DWord) : (writeS n x s).g.sp.joins = s.g.sp.joins := by unfold writeS; split <;> rfl
@[simp] theorem writeS_sp_tail (s : State) (n : SReg) (x : DWord) : (writeS n x s).g.sp.tail = s.g.sp.tail := by unfold writeS; split <;> rfl
@[simp] theorem writeS_sp_watch (s : State) (n : SReg) (x : DWord) : (writeS n x s).g.sp.watch = s.g.sp.watch := by unfold writeS; split <;> rfl
@[simp] theorem writeS_sp_woken (s : State) (n : SReg) (x : DWord) : (writeS n x s).g.sp.woken = s.g.sp.woken := by unfold writeS; split <;> rfl
@[simp] theorem writeS_sp_lastLoad (s : State) (n : SReg) (x : DWord) : (writeS n x s).g.sp.lastLoad = s.g.sp.lastLoad := by unfold writeS; split <;> rfl
@[simp] theorem writeS_sp_timeout (s : State) (n : SReg) (x : DWord) : (writeS n x s).g.sp.timeout = s.g.sp.timeout := by unfold writeS; split <;> rfl
@[simp] theorem writeS_sp_trap (s : State) (n : SReg) (x : DWord) : (writeS n x s).g.sp.trap = s.g.sp.trap := by unfold writeS; split <;> rfl
@[simp] theorem writeS_sp_restart (s : State) (n : SReg) (x : DWord) : (writeS n x s).g.sp.restart = s.g.sp.restart := by unfold writeS; split <;> rfl
@[simp] theorem writeS_sp_err (s : State) (n : SReg) (x : DWord) : (writeS n x s).g.sp.err = s.g.sp.err := by unfold writeS; split <;> rfl
@[simp] theorem writeS_sp_defer (s : State) (n : SReg) (x : DWord) : (writeS n x s).g.sp.defer = s.g.sp.defer := by unfold writeS; split <;> rfl
@[simp] theorem writeS_sp_stopped (s : State) (n : SReg) (x : DWord) : (writeS n x s).g.sp.stopped = s.g.sp.stopped := by unfold writeS; split <;> rfl
@[simp] theorem writeS_sp_crc (s : State) (n : SReg) (x : DWord) : (writeS n x s).g.sp.crc = s.g.sp.crc := by unfold writeS; split <;> rfl
@[simp] theorem writeS_sp_inval (s : State) (n : SReg) (x : DWord) : (writeS n x s).g.sp.inval = s.g.sp.inval := by unfold writeS; split <;> rfl
@[simp] theorem writeS_sp_yielded (s : State) (n : SReg) (x : DWord) : (writeS n x s).g.sp.yielded = s.g.sp.yielded := by unfold writeS; split <;> rfl
@[simp] theorem writeS_sp_spin (s : State) (n : SReg) (x : DWord) : (writeS n x s).g.sp.spin = s.g.sp.spin := by unfold writeS; split <;> rfl
@[simp] theorem writeS_sp_trace (s : State) (n : SReg) (x : DWord) : (writeS n x s).g.sp.trace = s.g.sp.trace := by unfold writeS; split <;> rfl
@[simp] theorem writeS_sp_prev (s : State) (n : SReg) (x : DWord) : (writeS n x s).g.sp.prev = s.g.sp.prev := by unfold writeS; split <;> rfl
@[simp] theorem writeS_sp_past (s : State) (n : SReg) (x : DWord) : (writeS n x s).g.sp.past = s.g.sp.past := by unfold writeS; split <;> rfl
@[simp] theorem writeS_sp_dirty (s : State) (n : SReg) (x : DWord) : (writeS n x s).g.sp.dirty = s.g.sp.dirty := by unfold writeS; split <;> rfl
@[simp] theorem writeS_sp_poisonP (s : State) (n : SReg) (x : DWord) : (writeS n x s).g.sp.poisonP = s.g.sp.poisonP := by unfold writeS; split <;> rfl
@[simp] theorem writeP_others (s : State) (n : PReg) (m x : LaneSet) : (writeP n m x s).others = s.others := by unfold writeP; split <;> rfl
@[simp] theorem writeP_mem (s : State) (n : PReg) (m x : LaneSet) : (writeP n m x s).mem = s.mem := by unfold writeP; split <;> rfl
@[simp] theorem writeP_poison (s : State) (n : PReg) (m x : LaneSet) : (writeP n m x s).poison = s.poison := by unfold writeP; split <;> rfl
@[simp] theorem writeP_drowned (s : State) (n : PReg) (m x : LaneSet) : (writeP n m x s).drowned = s.drowned := by unfold writeP; split <;> rfl
@[simp] theorem writeP_hostMem (s : State) (n : PReg) (m x : LaneSet) : (writeP n m x s).hostMem = s.hostMem := by unfold writeP; split <;> rfl
@[simp] theorem writeP_packets (s : State) (n : PReg) (m x : LaneSet) : (writeP n m x s).packets = s.packets := by unfold writeP; split <;> rfl
@[simp] theorem writeP_parts (s : State) (n : PReg) (m x : LaneSet) : (writeP n m x s).parts = s.parts := by unfold writeP; split <;> rfl
@[simp] theorem writeP_cores (s : State) (n : PReg) (m x : LaneSet) : (writeP n m x s).cores = s.cores := by unfold writeP; split <;> rfl
@[simp] theorem writeP_leases (s : State) (n : PReg) (m x : LaneSet) : (writeP n m x s).leases = s.leases := by unfold writeP; split <;> rfl
@[simp] theorem writeP_homes (s : State) (n : PReg) (m x : LaneSet) : (writeP n m x s).homes = s.homes := by unfold writeP; split <;> rfl
@[simp] theorem writeP_cards (s : State) (n : PReg) (m x : LaneSet) : (writeP n m x s).cards = s.cards := by unfold writeP; split <;> rfl
@[simp] theorem writeP_launches (s : State) (n : PReg) (m x : LaneSet) : (writeP n m x s).launches = s.launches := by unfold writeP; split <;> rfl
@[simp] theorem writeP_pkgs (s : State) (n : PReg) (m x : LaneSet) : (writeP n m x s).pkgs = s.pkgs := by unfold writeP; split <;> rfl
@[simp] theorem writeP_stale (s : State) (n : PReg) (m x : LaneSet) : (writeP n m x s).stale = s.stale := by unfold writeP; split <;> rfl
@[simp] theorem writeP_invals (s : State) (n : PReg) (m x : LaneSet) : (writeP n m x s).invals = s.invals := by unfold writeP; split <;> rfl
@[simp] theorem writeP_roce (s : State) (n : PReg) (m x : LaneSet) : (writeP n m x s).roce = s.roce := by unfold writeP; split <;> rfl
@[simp] theorem writeP_mirrors (s : State) (n : PReg) (m x : LaneSet) : (writeP n m x s).mirrors = s.mirrors := by unfold writeP; split <;> rfl
@[simp] theorem writeP_degraded (s : State) (n : PReg) (m x : LaneSet) : (writeP n m x s).degraded = s.degraded := by unfold writeP; split <;> rfl
@[simp] theorem writeP_agenda (s : State) (n : PReg) (m x : LaneSet) : (writeP n m x s).agenda = s.agenda := by unfold writeP; split <;> rfl
@[simp] theorem writeP_free (s : State) (n : PReg) (m x : LaneSet) : (writeP n m x s).free = s.free := by unfold writeP; split <;> rfl
@[simp] theorem writeP_fresh (s : State) (n : PReg) (m x : LaneSet) : (writeP n m x s).fresh = s.fresh := by unfold writeP; split <;> rfl
@[simp] theorem writeP_g_life (s : State) (n : PReg) (m x : LaneSet) : (writeP n m x s).g.life = s.g.life := by unfold writeP; split <;> rfl
@[simp] theorem writeP_g_gid (s : State) (n : PReg) (m x : LaneSet) : (writeP n m x s).g.gid = s.g.gid := by unfold writeP; split <;> rfl
@[simp] theorem writeP_g_w (s : State) (n : PReg) (m x : LaneSet) : (writeP n m x s).g.w = s.g.w := by unfold writeP; split <;> rfl
@[simp] theorem writeP_g_v (s : State) (n : PReg) (m x : LaneSet) : (writeP n m x s).g.v = s.g.v := by unfold writeP; split <;> rfl
@[simp] theorem writeP_g_em (s : State) (n : PReg) (m x : LaneSet) : (writeP n m x s).g.em = s.g.em := by unfold writeP; split <;> rfl
@[simp] theorem writeP_g_bcur (s : State) (n : PReg) (m x : LaneSet) : (writeP n m x s).g.bcur = s.g.bcur := by unfold writeP; split <;> rfl
@[simp] theorem writeP_g_fs (s : State) (n : PReg) (m x : LaneSet) : (writeP n m x s).g.fs = s.g.fs := by unfold writeP; split <;> rfl
@[simp] theorem writeP_g_baseHome (s : State) (n : PReg) (m x : LaneSet) : (writeP n m x s).g.baseHome = s.g.baseHome := by unfold writeP; split <;> rfl
@[simp] theorem writeP_g_recIdx (s : State) (n : PReg) (m x : LaneSet) : (writeP n m x s).g.recIdx = s.g.recIdx := by unfold writeP; split <;> rfl
@[simp] theorem writeP_g_grpInRec (s : State) (n : PReg) (m x : LaneSet) : (writeP n m x s).g.grpInRec = s.g.grpInRec := by unfold writeP; split <;> rfl
@[simp] theorem writeP_g_ctx (s : State) (n : PReg) (m x : LaneSet) : (writeP n m x s).g.ctx = s.g.ctx := by unfold writeP; split <;> rfl
@[simp] theorem writeP_g_card (s : State) (n : PReg) (m x : LaneSet) : (writeP n m x s).g.card = s.g.card := by unfold writeP; split <;> rfl
@[simp] theorem writeP_g_diag (s : State) (n : PReg) (m x : LaneSet) : (writeP n m x s).g.diag = s.g.diag := by unfold writeP; split <;> rfl
@[simp] theorem writeP_g_prio (s : State) (n : PReg) (m x : LaneSet) : (writeP n m x s).g.prio = s.g.prio := by unfold writeP; split <;> rfl
@[simp] theorem writeP_g_floorPrio (s : State) (n : PReg) (m x : LaneSet) : (writeP n m x s).g.floorPrio = s.g.floorPrio := by unfold writeP; split <;> rfl
@[simp] theorem writeP_g_team (s : State) (n : PReg) (m x : LaneSet) : (writeP n m x s).g.team = s.g.team := by unfold writeP; split <;> rfl
@[simp] theorem writeP_g_teamVa (s : State) (n : PReg) (m x : LaneSet) : (writeP n m x s).g.teamVa = s.g.teamVa := by unfold writeP; split <;> rfl
@[simp] theorem writeP_g_teamPte (s : State) (n : PReg) (m x : LaneSet) : (writeP n m x s).g.teamPte = s.g.teamPte := by unfold writeP; split <;> rfl
@[simp] theorem writeP_g_teamId (s : State) (n : PReg) (m x : LaneSet) : (writeP n m x s).g.teamId = s.g.teamId := by unfold writeP; split <;> rfl
@[simp] theorem writeP_g_note (s : State) (n : PReg) (m x : LaneSet) : (writeP n m x s).g.note = s.g.note := by unfold writeP; split <;> rfl
@[simp] theorem writeP_g_acks (s : State) (n : PReg) (m x : LaneSet) : (writeP n m x s).g.acks = s.g.acks := by unfold writeP; split <;> rfl
@[simp] theorem writeP_g_slot (s : State) (n : PReg) (m x : LaneSet) : (writeP n m x s).g.slot = s.g.slot := by unfold writeP; split <;> rfl
@[simp] theorem writeP_g_tileRows (s : State) (n : PReg) (m x : LaneSet) : (writeP n m x s).g.tileRows = s.g.tileRows := by unfold writeP; split <;> rfl
@[simp] theorem writeP_g_tile (s : State) (n : PReg) (m x : LaneSet) : (writeP n m x s).g.tile = s.g.tile := by unfold writeP; split <;> rfl
@[simp] theorem writeP_g_ovf (s : State) (n : PReg) (m x : LaneSet) : (writeP n m x s).g.ovf = s.g.ovf := by unfold writeP; split <;> rfl
@[simp] theorem writeP_g_ovfLate (s : State) (n : PReg) (m x : LaneSet) : (writeP n m x s).g.ovfLate = s.g.ovfLate := by unfold writeP; split <;> rfl
@[simp] theorem writeP_g_seams (s : State) (n : PReg) (m x : LaneSet) : (writeP n m x s).g.seams = s.g.seams := by unfold writeP; split <;> rfl
@[simp] theorem writeP_g_sup (s : State) (n : PReg) (m x : LaneSet) : (writeP n m x s).g.sup = s.g.sup := by unfold writeP; split <;> rfl
@[simp] theorem writeP_g_floor (s : State) (n : PReg) (m x : LaneSet) : (writeP n m x s).g.floor = s.g.floor := by unfold writeP; split <;> rfl
@[simp] theorem writeP_g_handler (s : State) (n : PReg) (m x : LaneSet) : (writeP n m x s).g.handler = s.g.handler := by unfold writeP; split <;> rfl
@[simp] theorem writeP_g_seamSv (s : State) (n : PReg) (m x : LaneSet) : (writeP n m x s).g.seamSv = s.g.seamSv := by unfold writeP; split <;> rfl
@[simp] theorem writeP_g_trapvec (s : State) (n : PReg) (m x : LaneSet) : (writeP n m x s).g.trapvec = s.g.trapvec := by unfold writeP; split <;> rfl
@[simp] theorem writeP_g_trapcause (s : State) (n : PReg) (m x : LaneSet) : (writeP n m x s).g.trapcause = s.g.trapcause := by unfold writeP; split <;> rfl
@[simp] theorem writeP_g_trappc (s : State) (n : PReg) (m x : LaneSet) : (writeP n m x s).g.trappc = s.g.trappc := by unfold writeP; split <;> rfl
@[simp] theorem writeP_g_trapaddr (s : State) (n : PReg) (m x : LaneSet) : (writeP n m x s).g.trapaddr = s.g.trapaddr := by unfold writeP; split <;> rfl
@[simp] theorem writeP_g_trapmask (s : State) (n : PReg) (m x : LaneSet) : (writeP n m x s).g.trapmask = s.g.trapmask := by unfold writeP; split <;> rfl
@[simp] theorem writeP_g_traphdr (s : State) (n : PReg) (m x : LaneSet) : (writeP n m x s).g.traphdr = s.g.traphdr := by unfold writeP; split <;> rfl
@[simp] theorem writeP_g_ctxbase (s : State) (n : PReg) (m x : LaneSet) : (writeP n m x s).g.ctxbase = s.g.ctxbase := by unfold writeP; split <;> rfl
@[simp] theorem writeP_g_rpseq (s : State) (n : PReg) (m x : LaneSet) : (writeP n m x s).g.rpseq = s.g.rpseq := by unfold writeP; split <;> rfl
@[simp] theorem writeP_g_rppc (s : State) (n : PReg) (m x : LaneSet) : (writeP n m x s).g.rppc = s.g.rppc := by unfold writeP; split <;> rfl
@[simp] theorem writeP_g_rpjkt (s : State) (n : PReg) (m x : LaneSet) : (writeP n m x s).g.rpjkt = s.g.rpjkt := by unfold writeP; split <;> rfl
@[simp] theorem writeP_g_teamstat (s : State) (n : PReg) (m x : LaneSet) : (writeP n m x s).g.teamstat = s.g.teamstat := by unfold writeP; split <;> rfl
@[simp] theorem writeP_g_diaginj (s : State) (n : PReg) (m x : LaneSet) : (writeP n m x s).g.diaginj = s.g.diaginj := by unfold writeP; split <;> rfl
@[simp] theorem writeP_g_ck (s : State) (n : PReg) (m x : LaneSet) : (writeP n m x s).g.ck = s.g.ck := by unfold writeP; split <;> rfl
@[simp] theorem writeP_g_rcnt (s : State) (n : PReg) (m x : LaneSet) : (writeP n m x s).g.rcnt = s.g.rcnt := by unfold writeP; split <;> rfl
@[simp] theorem writeP_g_path (s : State) (n : PReg) (m x : LaneSet) : (writeP n m x s).g.path = s.g.path := by unfold writeP; split <;> rfl
@[simp] theorem writeP_g_accs (s : State) (n : PReg) (m x : LaneSet) : (writeP n m x s).g.accs = s.g.accs := by unfold writeP; split <;> rfl
@[simp] theorem writeP_g_mtx (s : State) (n : PReg) (m x : LaneSet) : (writeP n m x s).g.mtx = s.g.mtx := by unfold writeP; split <;> rfl
@[simp] theorem writeP_g_copies (s : State) (n : PReg) (m x : LaneSet) : (writeP n m x s).g.copies = s.g.copies := by unfold writeP; split <;> rfl
@[simp] theorem writeP_g_copyFault (s : State) (n : PReg) (m x : LaneSet) : (writeP n m x s).g.copyFault = s.g.copyFault := by unfold writeP; split <;> rfl
@[simp] theorem writeP_g_preempt (s : State) (n : PReg) (m x : LaneSet) : (writeP n m x s).g.preempt = s.g.preempt := by unfold writeP; split <;> rfl
@[simp] theorem writeP_g_halted (s : State) (n : PReg) (m x : LaneSet) : (writeP n m x s).g.halted = s.g.halted := by unfold writeP; split <;> rfl
@[simp] theorem writeP_g_killed (s : State) (n : PReg) (m x : LaneSet) : (writeP n m x s).g.killed = s.g.killed := by unfold writeP; split <;> rfl
@[simp] theorem writeP_g_rollback (s : State) (n : PReg) (m x : LaneSet) : (writeP n m x s).g.rollback = s.g.rollback := by unfold writeP; split <;> rfl
@[simp] theorem writeP_g_lost (s : State) (n : PReg) (m x : LaneSet) : (writeP n m x s).g.lost = s.g.lost := by unfold writeP; split <;> rfl
@[simp] theorem writeP_g_waitTeam (s : State) (n : PReg) (m x : LaneSet) : (writeP n m x s).g.waitTeam = s.g.waitTeam := by unfold writeP; split <;> rfl
@[simp] theorem writeP_g_poisonV (s : State) (n : PReg) (m x : LaneSet) : (writeP n m x s).g.poisonV = s.g.poisonV := by unfold writeP; split <;> rfl
@[simp] theorem writeP_g_poisonTile (s : State) (n : PReg) (m x : LaneSet) : (writeP n m x s).g.poisonTile = s.g.poisonTile := by unfold writeP; split <;> rfl
@[simp] theorem writeP_g_svV (s : State) (n : PReg) (m x : LaneSet) : (writeP n m x s).g.svV = s.g.svV := by unfold writeP; split <;> rfl
@[simp] theorem writeP_g_svS (s : State) (n : PReg) (m x : LaneSet) : (writeP n m x s).g.svS = s.g.svS := by unfold writeP; split <;> rfl
@[simp] theorem writeP_g_svP (s : State) (n : PReg) (m x : LaneSet) : (writeP n m x s).g.svP = s.g.svP := by unfold writeP; split <;> rfl
@[simp] theorem writeP_g_sibs (s : State) (n : PReg) (m x : LaneSet) : (writeP n m x s).g.sibs = s.g.sibs := by unfold writeP; split <;> rfl
@[simp] theorem writeP_sp_idx (s : State) (n : PReg) (m x : LaneSet) : (writeP n m x s).g.sp.idx = s.g.sp.idx := by unfold writeP; split <;> rfl
@[simp] theorem writeP_sp_pc (s : State) (n : PReg) (m x : LaneSet) : (writeP n m x s).g.sp.pc = s.g.sp.pc := by unfold writeP; split <;> rfl
@[simp] theorem writeP_sp_lanes (s : State) (n : PReg) (m x : LaneSet) : (writeP n m x s).g.sp.lanes = s.g.sp.lanes := by unfold writeP; split <;> rfl
@[simp] theorem writeP_sp_status (s : State) (n : PReg) (m x : LaneSet) : (writeP n m x s).g.sp.status = s.g.sp.status := by unfold writeP; split <;> rfl
@[simp] theorem writeP_sp_seam (s : State) (n : PReg) (m x : LaneSet) : (writeP n m x s).g.sp.seam = s.g.sp.seam := by unfold writeP; split <;> rfl
@[simp] theorem writeP_sp_home (s : State) (n : PReg) (m x : LaneSet) : (writeP n m x s).g.sp.home = s.g.sp.home := by unfold writeP; split <;> rfl
@[simp] theorem writeP_sp_demoted (s : State) (n : PReg) (m x : LaneSet) : (writeP n m x s).g.sp.demoted = s.g.sp.demoted := by unfold writeP; split <;> rfl
@[simp] theorem writeP_sp_part (s : State) (n : PReg) (m x : LaneSet) : (writeP n m x s).g.sp.part = s.g.sp.part := by unfold writeP; split <;> rfl
@[simp] theorem writeP_sp_s (s : State) (n : PReg) (m x : LaneSet) : (writeP n m x s).g.sp.s = s.g.sp.s := by unfold writeP; split <;> rfl
@[simp] theorem writeP_sp_fpstat (s : State) (n : PReg) (m x : LaneSet) : (writeP n m x s).g.sp.fpstat = s.g.sp.fpstat := by unfold writeP; split <;> rfl
@[simp] theorem writeP_sp_resgen (s : State) (n : PReg) (m x : LaneSet) : (writeP n m x s).g.sp.resgen = s.g.sp.resgen := by unfold writeP; split <;> rfl
@[simp] theorem writeP_sp_clause (s : State) (n : PReg) (m x : LaneSet) : (writeP n m x s).g.sp.clause = s.g.sp.clause := by unfold writeP; split <;> rfl
@[simp] theorem writeP_sp_ops (s : State) (n : PReg) (m x : LaneSet) : (writeP n m x s).g.sp.ops = s.g.sp.ops := by unfold writeP; split <;> rfl
@[simp] theorem writeP_sp_acquire (s : State) (n : PReg) (m x : LaneSet) : (writeP n m x s).g.sp.acquire = s.g.sp.acquire := by unfold writeP; split <;> rfl
@[simp] theorem writeP_sp_fence (s : State) (n : PReg) (m x : LaneSet) : (writeP n m x s).g.sp.fence = s.g.sp.fence := by unfold writeP; split <;> rfl
@[simp] theorem writeP_sp_await (s : State) (n : PReg) (m x : LaneSet) : (writeP n m x s).g.sp.await = s.g.sp.await := by unfold writeP; split <;> rfl
@[simp] theorem writeP_sp_sent (s : State) (n : PReg) (m x : LaneSet) : (writeP n m x s).g.sp.sent = s.g.sp.sent := by unfold writeP; split <;> rfl
@[simp] theorem writeP_sp_cross (s : State) (n : PReg) (m x : LaneSet) : (writeP n m x s).g.sp.cross = s.g.sp.cross := by unfold writeP; split <;> rfl
@[simp] theorem writeP_sp_lastPart (s : State) (n : PReg) (m x : LaneSet) : (writeP n m x s).g.sp.lastPart = s.g.sp.lastPart := by unfold writeP; split <;> rfl
@[simp] theorem writeP_sp_jacket (s : State) (n : PReg) (m x : LaneSet) : (writeP n m x s).g.sp.jacket = s.g.sp.jacket := by unfold writeP; split <;> rfl
@[simp] theorem writeP_sp_strands (s : State) (n : PReg) (m x : LaneSet) : (writeP n m x s).g.sp.strands = s.g.sp.strands := by unfold writeP; split <;> rfl
@[simp] theorem writeP_sp_safe (s : State) (n : PReg) (m x : LaneSet) : (writeP n m x s).g.sp.safe = s.g.sp.safe := by unfold writeP; split <;> rfl
@[simp] theorem writeP_sp_region (s : State) (n : PReg) (m x : LaneSet) : (writeP n m x s).g.sp.region = s.g.sp.region := by unfold writeP; split <;> rfl
@[simp] theorem writeP_sp_wait (s : State) (n : PReg) (m x : LaneSet) : (writeP n m x s).g.sp.wait = s.g.sp.wait := by unfold writeP; split <;> rfl
@[simp] theorem writeP_sp_wonly (s : State) (n : PReg) (m x : LaneSet) : (writeP n m x s).g.sp.wonly = s.g.sp.wonly := by unfold writeP; split <;> rfl
@[simp] theorem writeP_sp_move (s : State) (n : PReg) (m x : LaneSet) : (writeP n m x s).g.sp.move = s.g.sp.move := by unfold writeP; split <;> rfl
@[simp] theorem writeP_sp_ls (s : State) (n : PReg) (m x : LaneSet) : (writeP n m x s).g.sp.ls = s.g.sp.ls := by unfold writeP; split <;> rfl
@[simp] theorem writeP_sp_keep (s : State) (n : PReg) (m x : LaneSet) : (writeP n m x s).g.sp.keep = s.g.sp.keep := by unfold writeP; split <;> rfl
@[simp] theorem writeP_sp_live (s : State) (n : PReg) (m x : LaneSet) : (writeP n m x s).g.sp.live = s.g.sp.live := by unfold writeP; split <;> rfl
@[simp] theorem writeP_sp_joins (s : State) (n : PReg) (m x : LaneSet) : (writeP n m x s).g.sp.joins = s.g.sp.joins := by unfold writeP; split <;> rfl
@[simp] theorem writeP_sp_tail (s : State) (n : PReg) (m x : LaneSet) : (writeP n m x s).g.sp.tail = s.g.sp.tail := by unfold writeP; split <;> rfl
@[simp] theorem writeP_sp_watch (s : State) (n : PReg) (m x : LaneSet) : (writeP n m x s).g.sp.watch = s.g.sp.watch := by unfold writeP; split <;> rfl
@[simp] theorem writeP_sp_woken (s : State) (n : PReg) (m x : LaneSet) : (writeP n m x s).g.sp.woken = s.g.sp.woken := by unfold writeP; split <;> rfl
@[simp] theorem writeP_sp_lastLoad (s : State) (n : PReg) (m x : LaneSet) : (writeP n m x s).g.sp.lastLoad = s.g.sp.lastLoad := by unfold writeP; split <;> rfl
@[simp] theorem writeP_sp_timeout (s : State) (n : PReg) (m x : LaneSet) : (writeP n m x s).g.sp.timeout = s.g.sp.timeout := by unfold writeP; split <;> rfl
@[simp] theorem writeP_sp_trap (s : State) (n : PReg) (m x : LaneSet) : (writeP n m x s).g.sp.trap = s.g.sp.trap := by unfold writeP; split <;> rfl
@[simp] theorem writeP_sp_restart (s : State) (n : PReg) (m x : LaneSet) : (writeP n m x s).g.sp.restart = s.g.sp.restart := by unfold writeP; split <;> rfl
@[simp] theorem writeP_sp_err (s : State) (n : PReg) (m x : LaneSet) : (writeP n m x s).g.sp.err = s.g.sp.err := by unfold writeP; split <;> rfl
@[simp] theorem writeP_sp_defer (s : State) (n : PReg) (m x : LaneSet) : (writeP n m x s).g.sp.defer = s.g.sp.defer := by unfold writeP; split <;> rfl
@[simp] theorem writeP_sp_stopped (s : State) (n : PReg) (m x : LaneSet) : (writeP n m x s).g.sp.stopped = s.g.sp.stopped := by unfold writeP; split <;> rfl
@[simp] theorem writeP_sp_crc (s : State) (n : PReg) (m x : LaneSet) : (writeP n m x s).g.sp.crc = s.g.sp.crc := by unfold writeP; split <;> rfl
@[simp] theorem writeP_sp_inval (s : State) (n : PReg) (m x : LaneSet) : (writeP n m x s).g.sp.inval = s.g.sp.inval := by unfold writeP; split <;> rfl
@[simp] theorem writeP_sp_yielded (s : State) (n : PReg) (m x : LaneSet) : (writeP n m x s).g.sp.yielded = s.g.sp.yielded := by unfold writeP; split <;> rfl
@[simp] theorem writeP_sp_spin (s : State) (n : PReg) (m x : LaneSet) : (writeP n m x s).g.sp.spin = s.g.sp.spin := by unfold writeP; split <;> rfl
@[simp] theorem writeP_sp_trace (s : State) (n : PReg) (m x : LaneSet) : (writeP n m x s).g.sp.trace = s.g.sp.trace := by unfold writeP; split <;> rfl
@[simp] theorem writeP_sp_prev (s : State) (n : PReg) (m x : LaneSet) : (writeP n m x s).g.sp.prev = s.g.sp.prev := by unfold writeP; split <;> rfl
@[simp] theorem writeP_sp_past (s : State) (n : PReg) (m x : LaneSet) : (writeP n m x s).g.sp.past = s.g.sp.past := by unfold writeP; split <;> rfl
@[simp] theorem writeP_sp_dirty (s : State) (n : PReg) (m x : LaneSet) : (writeP n m x s).g.sp.dirty = s.g.sp.dirty := by unfold writeP; split <;> rfl
@[simp] theorem writeP_sp_poisonS (s : State) (n : PReg) (m x : LaneSet) : (writeP n m x s).g.sp.poisonS = s.g.sp.poisonS := by unfold writeP; split <;> rfl
@[simp] theorem writeEM_others (s : State) (m x : LaneSet) : (writeEM m x s).others = s.others := rfl
@[simp] theorem writeEM_mem (s : State) (m x : LaneSet) : (writeEM m x s).mem = s.mem := rfl
@[simp] theorem writeEM_poison (s : State) (m x : LaneSet) : (writeEM m x s).poison = s.poison := rfl
@[simp] theorem writeEM_drowned (s : State) (m x : LaneSet) : (writeEM m x s).drowned = s.drowned := rfl
@[simp] theorem writeEM_hostMem (s : State) (m x : LaneSet) : (writeEM m x s).hostMem = s.hostMem := rfl
@[simp] theorem writeEM_packets (s : State) (m x : LaneSet) : (writeEM m x s).packets = s.packets := rfl
@[simp] theorem writeEM_parts (s : State) (m x : LaneSet) : (writeEM m x s).parts = s.parts := rfl
@[simp] theorem writeEM_cores (s : State) (m x : LaneSet) : (writeEM m x s).cores = s.cores := rfl
@[simp] theorem writeEM_leases (s : State) (m x : LaneSet) : (writeEM m x s).leases = s.leases := rfl
@[simp] theorem writeEM_homes (s : State) (m x : LaneSet) : (writeEM m x s).homes = s.homes := rfl
@[simp] theorem writeEM_cards (s : State) (m x : LaneSet) : (writeEM m x s).cards = s.cards := rfl
@[simp] theorem writeEM_launches (s : State) (m x : LaneSet) : (writeEM m x s).launches = s.launches := rfl
@[simp] theorem writeEM_pkgs (s : State) (m x : LaneSet) : (writeEM m x s).pkgs = s.pkgs := rfl
@[simp] theorem writeEM_stale (s : State) (m x : LaneSet) : (writeEM m x s).stale = s.stale := rfl
@[simp] theorem writeEM_invals (s : State) (m x : LaneSet) : (writeEM m x s).invals = s.invals := rfl
@[simp] theorem writeEM_roce (s : State) (m x : LaneSet) : (writeEM m x s).roce = s.roce := rfl
@[simp] theorem writeEM_mirrors (s : State) (m x : LaneSet) : (writeEM m x s).mirrors = s.mirrors := rfl
@[simp] theorem writeEM_degraded (s : State) (m x : LaneSet) : (writeEM m x s).degraded = s.degraded := rfl
@[simp] theorem writeEM_agenda (s : State) (m x : LaneSet) : (writeEM m x s).agenda = s.agenda := rfl
@[simp] theorem writeEM_free (s : State) (m x : LaneSet) : (writeEM m x s).free = s.free := rfl
@[simp] theorem writeEM_fresh (s : State) (m x : LaneSet) : (writeEM m x s).fresh = s.fresh := rfl
@[simp] theorem writeEM_g_life (s : State) (m x : LaneSet) : (writeEM m x s).g.life = s.g.life := rfl
@[simp] theorem writeEM_g_gid (s : State) (m x : LaneSet) : (writeEM m x s).g.gid = s.g.gid := rfl
@[simp] theorem writeEM_g_w (s : State) (m x : LaneSet) : (writeEM m x s).g.w = s.g.w := rfl
@[simp] theorem writeEM_g_v (s : State) (m x : LaneSet) : (writeEM m x s).g.v = s.g.v := rfl
@[simp] theorem writeEM_g_p (s : State) (m x : LaneSet) : (writeEM m x s).g.p = s.g.p := rfl
@[simp] theorem writeEM_g_bcur (s : State) (m x : LaneSet) : (writeEM m x s).g.bcur = s.g.bcur := rfl
@[simp] theorem writeEM_g_fs (s : State) (m x : LaneSet) : (writeEM m x s).g.fs = s.g.fs := rfl
@[simp] theorem writeEM_g_baseHome (s : State) (m x : LaneSet) : (writeEM m x s).g.baseHome = s.g.baseHome := rfl
@[simp] theorem writeEM_g_recIdx (s : State) (m x : LaneSet) : (writeEM m x s).g.recIdx = s.g.recIdx := rfl
@[simp] theorem writeEM_g_grpInRec (s : State) (m x : LaneSet) : (writeEM m x s).g.grpInRec = s.g.grpInRec := rfl
@[simp] theorem writeEM_g_ctx (s : State) (m x : LaneSet) : (writeEM m x s).g.ctx = s.g.ctx := rfl
@[simp] theorem writeEM_g_card (s : State) (m x : LaneSet) : (writeEM m x s).g.card = s.g.card := rfl
@[simp] theorem writeEM_g_diag (s : State) (m x : LaneSet) : (writeEM m x s).g.diag = s.g.diag := rfl
@[simp] theorem writeEM_g_prio (s : State) (m x : LaneSet) : (writeEM m x s).g.prio = s.g.prio := rfl
@[simp] theorem writeEM_g_floorPrio (s : State) (m x : LaneSet) : (writeEM m x s).g.floorPrio = s.g.floorPrio := rfl
@[simp] theorem writeEM_g_team (s : State) (m x : LaneSet) : (writeEM m x s).g.team = s.g.team := rfl
@[simp] theorem writeEM_g_teamVa (s : State) (m x : LaneSet) : (writeEM m x s).g.teamVa = s.g.teamVa := rfl
@[simp] theorem writeEM_g_teamPte (s : State) (m x : LaneSet) : (writeEM m x s).g.teamPte = s.g.teamPte := rfl
@[simp] theorem writeEM_g_teamId (s : State) (m x : LaneSet) : (writeEM m x s).g.teamId = s.g.teamId := rfl
@[simp] theorem writeEM_g_note (s : State) (m x : LaneSet) : (writeEM m x s).g.note = s.g.note := rfl
@[simp] theorem writeEM_g_acks (s : State) (m x : LaneSet) : (writeEM m x s).g.acks = s.g.acks := rfl
@[simp] theorem writeEM_g_slot (s : State) (m x : LaneSet) : (writeEM m x s).g.slot = s.g.slot := rfl
@[simp] theorem writeEM_g_tileRows (s : State) (m x : LaneSet) : (writeEM m x s).g.tileRows = s.g.tileRows := rfl
@[simp] theorem writeEM_g_tile (s : State) (m x : LaneSet) : (writeEM m x s).g.tile = s.g.tile := rfl
@[simp] theorem writeEM_g_ovf (s : State) (m x : LaneSet) : (writeEM m x s).g.ovf = s.g.ovf := rfl
@[simp] theorem writeEM_g_ovfLate (s : State) (m x : LaneSet) : (writeEM m x s).g.ovfLate = s.g.ovfLate := rfl
@[simp] theorem writeEM_g_seams (s : State) (m x : LaneSet) : (writeEM m x s).g.seams = s.g.seams := rfl
@[simp] theorem writeEM_g_sup (s : State) (m x : LaneSet) : (writeEM m x s).g.sup = s.g.sup := rfl
@[simp] theorem writeEM_g_floor (s : State) (m x : LaneSet) : (writeEM m x s).g.floor = s.g.floor := rfl
@[simp] theorem writeEM_g_handler (s : State) (m x : LaneSet) : (writeEM m x s).g.handler = s.g.handler := rfl
@[simp] theorem writeEM_g_seamSv (s : State) (m x : LaneSet) : (writeEM m x s).g.seamSv = s.g.seamSv := rfl
@[simp] theorem writeEM_g_trapvec (s : State) (m x : LaneSet) : (writeEM m x s).g.trapvec = s.g.trapvec := rfl
@[simp] theorem writeEM_g_trapcause (s : State) (m x : LaneSet) : (writeEM m x s).g.trapcause = s.g.trapcause := rfl
@[simp] theorem writeEM_g_trappc (s : State) (m x : LaneSet) : (writeEM m x s).g.trappc = s.g.trappc := rfl
@[simp] theorem writeEM_g_trapaddr (s : State) (m x : LaneSet) : (writeEM m x s).g.trapaddr = s.g.trapaddr := rfl
@[simp] theorem writeEM_g_trapmask (s : State) (m x : LaneSet) : (writeEM m x s).g.trapmask = s.g.trapmask := rfl
@[simp] theorem writeEM_g_traphdr (s : State) (m x : LaneSet) : (writeEM m x s).g.traphdr = s.g.traphdr := rfl
@[simp] theorem writeEM_g_ctxbase (s : State) (m x : LaneSet) : (writeEM m x s).g.ctxbase = s.g.ctxbase := rfl
@[simp] theorem writeEM_g_rpseq (s : State) (m x : LaneSet) : (writeEM m x s).g.rpseq = s.g.rpseq := rfl
@[simp] theorem writeEM_g_rppc (s : State) (m x : LaneSet) : (writeEM m x s).g.rppc = s.g.rppc := rfl
@[simp] theorem writeEM_g_rpjkt (s : State) (m x : LaneSet) : (writeEM m x s).g.rpjkt = s.g.rpjkt := rfl
@[simp] theorem writeEM_g_teamstat (s : State) (m x : LaneSet) : (writeEM m x s).g.teamstat = s.g.teamstat := rfl
@[simp] theorem writeEM_g_diaginj (s : State) (m x : LaneSet) : (writeEM m x s).g.diaginj = s.g.diaginj := rfl
@[simp] theorem writeEM_g_ck (s : State) (m x : LaneSet) : (writeEM m x s).g.ck = s.g.ck := rfl
@[simp] theorem writeEM_g_rcnt (s : State) (m x : LaneSet) : (writeEM m x s).g.rcnt = s.g.rcnt := rfl
@[simp] theorem writeEM_g_path (s : State) (m x : LaneSet) : (writeEM m x s).g.path = s.g.path := rfl
@[simp] theorem writeEM_g_accs (s : State) (m x : LaneSet) : (writeEM m x s).g.accs = s.g.accs := rfl
@[simp] theorem writeEM_g_mtx (s : State) (m x : LaneSet) : (writeEM m x s).g.mtx = s.g.mtx := rfl
@[simp] theorem writeEM_g_copies (s : State) (m x : LaneSet) : (writeEM m x s).g.copies = s.g.copies := rfl
@[simp] theorem writeEM_g_copyFault (s : State) (m x : LaneSet) : (writeEM m x s).g.copyFault = s.g.copyFault := rfl
@[simp] theorem writeEM_g_preempt (s : State) (m x : LaneSet) : (writeEM m x s).g.preempt = s.g.preempt := rfl
@[simp] theorem writeEM_g_halted (s : State) (m x : LaneSet) : (writeEM m x s).g.halted = s.g.halted := rfl
@[simp] theorem writeEM_g_killed (s : State) (m x : LaneSet) : (writeEM m x s).g.killed = s.g.killed := rfl
@[simp] theorem writeEM_g_rollback (s : State) (m x : LaneSet) : (writeEM m x s).g.rollback = s.g.rollback := rfl
@[simp] theorem writeEM_g_lost (s : State) (m x : LaneSet) : (writeEM m x s).g.lost = s.g.lost := rfl
@[simp] theorem writeEM_g_waitTeam (s : State) (m x : LaneSet) : (writeEM m x s).g.waitTeam = s.g.waitTeam := rfl
@[simp] theorem writeEM_g_poisonV (s : State) (m x : LaneSet) : (writeEM m x s).g.poisonV = s.g.poisonV := rfl
@[simp] theorem writeEM_g_poisonTile (s : State) (m x : LaneSet) : (writeEM m x s).g.poisonTile = s.g.poisonTile := rfl
@[simp] theorem writeEM_g_svV (s : State) (m x : LaneSet) : (writeEM m x s).g.svV = s.g.svV := rfl
@[simp] theorem writeEM_g_svS (s : State) (m x : LaneSet) : (writeEM m x s).g.svS = s.g.svS := rfl
@[simp] theorem writeEM_g_svP (s : State) (m x : LaneSet) : (writeEM m x s).g.svP = s.g.svP := rfl
@[simp] theorem writeEM_g_sp (s : State) (m x : LaneSet) : (writeEM m x s).g.sp = s.g.sp := rfl
@[simp] theorem writeEM_g_sibs (s : State) (m x : LaneSet) : (writeEM m x s).g.sibs = s.g.sibs := rfl
@[simp] theorem writeEM_em (s : State) (m x : LaneSet) : (writeEM m x s).g.em = (s.g.em &&& ~~~m) ||| (x &&& m) := rfl
@[simp] theorem writeV_others (s : State) (d : Nat) (m : LaneSet) (r : Nat → Word) : (writeV d m r s).others = s.others := rfl
@[simp] theorem writeV_mem (s : State) (d : Nat) (m : LaneSet) (r : Nat → Word) : (writeV d m r s).mem = s.mem := rfl
@[simp] theorem writeV_poison (s : State) (d : Nat) (m : LaneSet) (r : Nat → Word) : (writeV d m r s).poison = s.poison := rfl
@[simp] theorem writeV_drowned (s : State) (d : Nat) (m : LaneSet) (r : Nat → Word) : (writeV d m r s).drowned = s.drowned := rfl
@[simp] theorem writeV_hostMem (s : State) (d : Nat) (m : LaneSet) (r : Nat → Word) : (writeV d m r s).hostMem = s.hostMem := rfl
@[simp] theorem writeV_packets (s : State) (d : Nat) (m : LaneSet) (r : Nat → Word) : (writeV d m r s).packets = s.packets := rfl
@[simp] theorem writeV_parts (s : State) (d : Nat) (m : LaneSet) (r : Nat → Word) : (writeV d m r s).parts = s.parts := rfl
@[simp] theorem writeV_cores (s : State) (d : Nat) (m : LaneSet) (r : Nat → Word) : (writeV d m r s).cores = s.cores := rfl
@[simp] theorem writeV_leases (s : State) (d : Nat) (m : LaneSet) (r : Nat → Word) : (writeV d m r s).leases = s.leases := rfl
@[simp] theorem writeV_homes (s : State) (d : Nat) (m : LaneSet) (r : Nat → Word) : (writeV d m r s).homes = s.homes := rfl
@[simp] theorem writeV_cards (s : State) (d : Nat) (m : LaneSet) (r : Nat → Word) : (writeV d m r s).cards = s.cards := rfl
@[simp] theorem writeV_launches (s : State) (d : Nat) (m : LaneSet) (r : Nat → Word) : (writeV d m r s).launches = s.launches := rfl
@[simp] theorem writeV_pkgs (s : State) (d : Nat) (m : LaneSet) (r : Nat → Word) : (writeV d m r s).pkgs = s.pkgs := rfl
@[simp] theorem writeV_stale (s : State) (d : Nat) (m : LaneSet) (r : Nat → Word) : (writeV d m r s).stale = s.stale := rfl
@[simp] theorem writeV_invals (s : State) (d : Nat) (m : LaneSet) (r : Nat → Word) : (writeV d m r s).invals = s.invals := rfl
@[simp] theorem writeV_roce (s : State) (d : Nat) (m : LaneSet) (r : Nat → Word) : (writeV d m r s).roce = s.roce := rfl
@[simp] theorem writeV_mirrors (s : State) (d : Nat) (m : LaneSet) (r : Nat → Word) : (writeV d m r s).mirrors = s.mirrors := rfl
@[simp] theorem writeV_degraded (s : State) (d : Nat) (m : LaneSet) (r : Nat → Word) : (writeV d m r s).degraded = s.degraded := rfl
@[simp] theorem writeV_agenda (s : State) (d : Nat) (m : LaneSet) (r : Nat → Word) : (writeV d m r s).agenda = s.agenda := rfl
@[simp] theorem writeV_free (s : State) (d : Nat) (m : LaneSet) (r : Nat → Word) : (writeV d m r s).free = s.free := rfl
@[simp] theorem writeV_fresh (s : State) (d : Nat) (m : LaneSet) (r : Nat → Word) : (writeV d m r s).fresh = s.fresh := rfl
@[simp] theorem writeV_g_life (s : State) (d : Nat) (m : LaneSet) (r : Nat → Word) : (writeV d m r s).g.life = s.g.life := rfl
@[simp] theorem writeV_g_gid (s : State) (d : Nat) (m : LaneSet) (r : Nat → Word) : (writeV d m r s).g.gid = s.g.gid := rfl
@[simp] theorem writeV_g_w (s : State) (d : Nat) (m : LaneSet) (r : Nat → Word) : (writeV d m r s).g.w = s.g.w := rfl
@[simp] theorem writeV_g_p (s : State) (d : Nat) (m : LaneSet) (r : Nat → Word) : (writeV d m r s).g.p = s.g.p := rfl
@[simp] theorem writeV_g_em (s : State) (d : Nat) (m : LaneSet) (r : Nat → Word) : (writeV d m r s).g.em = s.g.em := rfl
@[simp] theorem writeV_g_bcur (s : State) (d : Nat) (m : LaneSet) (r : Nat → Word) : (writeV d m r s).g.bcur = s.g.bcur := rfl
@[simp] theorem writeV_g_fs (s : State) (d : Nat) (m : LaneSet) (r : Nat → Word) : (writeV d m r s).g.fs = s.g.fs := rfl
@[simp] theorem writeV_g_baseHome (s : State) (d : Nat) (m : LaneSet) (r : Nat → Word) : (writeV d m r s).g.baseHome = s.g.baseHome := rfl
@[simp] theorem writeV_g_recIdx (s : State) (d : Nat) (m : LaneSet) (r : Nat → Word) : (writeV d m r s).g.recIdx = s.g.recIdx := rfl
@[simp] theorem writeV_g_grpInRec (s : State) (d : Nat) (m : LaneSet) (r : Nat → Word) : (writeV d m r s).g.grpInRec = s.g.grpInRec := rfl
@[simp] theorem writeV_g_ctx (s : State) (d : Nat) (m : LaneSet) (r : Nat → Word) : (writeV d m r s).g.ctx = s.g.ctx := rfl
@[simp] theorem writeV_g_card (s : State) (d : Nat) (m : LaneSet) (r : Nat → Word) : (writeV d m r s).g.card = s.g.card := rfl
@[simp] theorem writeV_g_diag (s : State) (d : Nat) (m : LaneSet) (r : Nat → Word) : (writeV d m r s).g.diag = s.g.diag := rfl
@[simp] theorem writeV_g_prio (s : State) (d : Nat) (m : LaneSet) (r : Nat → Word) : (writeV d m r s).g.prio = s.g.prio := rfl
@[simp] theorem writeV_g_floorPrio (s : State) (d : Nat) (m : LaneSet) (r : Nat → Word) : (writeV d m r s).g.floorPrio = s.g.floorPrio := rfl
@[simp] theorem writeV_g_team (s : State) (d : Nat) (m : LaneSet) (r : Nat → Word) : (writeV d m r s).g.team = s.g.team := rfl
@[simp] theorem writeV_g_teamVa (s : State) (d : Nat) (m : LaneSet) (r : Nat → Word) : (writeV d m r s).g.teamVa = s.g.teamVa := rfl
@[simp] theorem writeV_g_teamPte (s : State) (d : Nat) (m : LaneSet) (r : Nat → Word) : (writeV d m r s).g.teamPte = s.g.teamPte := rfl
@[simp] theorem writeV_g_teamId (s : State) (d : Nat) (m : LaneSet) (r : Nat → Word) : (writeV d m r s).g.teamId = s.g.teamId := rfl
@[simp] theorem writeV_g_note (s : State) (d : Nat) (m : LaneSet) (r : Nat → Word) : (writeV d m r s).g.note = s.g.note := rfl
@[simp] theorem writeV_g_acks (s : State) (d : Nat) (m : LaneSet) (r : Nat → Word) : (writeV d m r s).g.acks = s.g.acks := rfl
@[simp] theorem writeV_g_slot (s : State) (d : Nat) (m : LaneSet) (r : Nat → Word) : (writeV d m r s).g.slot = s.g.slot := rfl
@[simp] theorem writeV_g_tileRows (s : State) (d : Nat) (m : LaneSet) (r : Nat → Word) : (writeV d m r s).g.tileRows = s.g.tileRows := rfl
@[simp] theorem writeV_g_tile (s : State) (d : Nat) (m : LaneSet) (r : Nat → Word) : (writeV d m r s).g.tile = s.g.tile := rfl
@[simp] theorem writeV_g_ovf (s : State) (d : Nat) (m : LaneSet) (r : Nat → Word) : (writeV d m r s).g.ovf = s.g.ovf := rfl
@[simp] theorem writeV_g_ovfLate (s : State) (d : Nat) (m : LaneSet) (r : Nat → Word) : (writeV d m r s).g.ovfLate = s.g.ovfLate := rfl
@[simp] theorem writeV_g_seams (s : State) (d : Nat) (m : LaneSet) (r : Nat → Word) : (writeV d m r s).g.seams = s.g.seams := rfl
@[simp] theorem writeV_g_sup (s : State) (d : Nat) (m : LaneSet) (r : Nat → Word) : (writeV d m r s).g.sup = s.g.sup := rfl
@[simp] theorem writeV_g_floor (s : State) (d : Nat) (m : LaneSet) (r : Nat → Word) : (writeV d m r s).g.floor = s.g.floor := rfl
@[simp] theorem writeV_g_handler (s : State) (d : Nat) (m : LaneSet) (r : Nat → Word) : (writeV d m r s).g.handler = s.g.handler := rfl
@[simp] theorem writeV_g_seamSv (s : State) (d : Nat) (m : LaneSet) (r : Nat → Word) : (writeV d m r s).g.seamSv = s.g.seamSv := rfl
@[simp] theorem writeV_g_trapvec (s : State) (d : Nat) (m : LaneSet) (r : Nat → Word) : (writeV d m r s).g.trapvec = s.g.trapvec := rfl
@[simp] theorem writeV_g_trapcause (s : State) (d : Nat) (m : LaneSet) (r : Nat → Word) : (writeV d m r s).g.trapcause = s.g.trapcause := rfl
@[simp] theorem writeV_g_trappc (s : State) (d : Nat) (m : LaneSet) (r : Nat → Word) : (writeV d m r s).g.trappc = s.g.trappc := rfl
@[simp] theorem writeV_g_trapaddr (s : State) (d : Nat) (m : LaneSet) (r : Nat → Word) : (writeV d m r s).g.trapaddr = s.g.trapaddr := rfl
@[simp] theorem writeV_g_trapmask (s : State) (d : Nat) (m : LaneSet) (r : Nat → Word) : (writeV d m r s).g.trapmask = s.g.trapmask := rfl
@[simp] theorem writeV_g_traphdr (s : State) (d : Nat) (m : LaneSet) (r : Nat → Word) : (writeV d m r s).g.traphdr = s.g.traphdr := rfl
@[simp] theorem writeV_g_ctxbase (s : State) (d : Nat) (m : LaneSet) (r : Nat → Word) : (writeV d m r s).g.ctxbase = s.g.ctxbase := rfl
@[simp] theorem writeV_g_rpseq (s : State) (d : Nat) (m : LaneSet) (r : Nat → Word) : (writeV d m r s).g.rpseq = s.g.rpseq := rfl
@[simp] theorem writeV_g_rppc (s : State) (d : Nat) (m : LaneSet) (r : Nat → Word) : (writeV d m r s).g.rppc = s.g.rppc := rfl
@[simp] theorem writeV_g_rpjkt (s : State) (d : Nat) (m : LaneSet) (r : Nat → Word) : (writeV d m r s).g.rpjkt = s.g.rpjkt := rfl
@[simp] theorem writeV_g_teamstat (s : State) (d : Nat) (m : LaneSet) (r : Nat → Word) : (writeV d m r s).g.teamstat = s.g.teamstat := rfl
@[simp] theorem writeV_g_diaginj (s : State) (d : Nat) (m : LaneSet) (r : Nat → Word) : (writeV d m r s).g.diaginj = s.g.diaginj := rfl
@[simp] theorem writeV_g_ck (s : State) (d : Nat) (m : LaneSet) (r : Nat → Word) : (writeV d m r s).g.ck = s.g.ck := rfl
@[simp] theorem writeV_g_rcnt (s : State) (d : Nat) (m : LaneSet) (r : Nat → Word) : (writeV d m r s).g.rcnt = s.g.rcnt := rfl
@[simp] theorem writeV_g_path (s : State) (d : Nat) (m : LaneSet) (r : Nat → Word) : (writeV d m r s).g.path = s.g.path := rfl
@[simp] theorem writeV_g_accs (s : State) (d : Nat) (m : LaneSet) (r : Nat → Word) : (writeV d m r s).g.accs = s.g.accs := rfl
@[simp] theorem writeV_g_mtx (s : State) (d : Nat) (m : LaneSet) (r : Nat → Word) : (writeV d m r s).g.mtx = s.g.mtx := rfl
@[simp] theorem writeV_g_copies (s : State) (d : Nat) (m : LaneSet) (r : Nat → Word) : (writeV d m r s).g.copies = s.g.copies := rfl
@[simp] theorem writeV_g_copyFault (s : State) (d : Nat) (m : LaneSet) (r : Nat → Word) : (writeV d m r s).g.copyFault = s.g.copyFault := rfl
@[simp] theorem writeV_g_preempt (s : State) (d : Nat) (m : LaneSet) (r : Nat → Word) : (writeV d m r s).g.preempt = s.g.preempt := rfl
@[simp] theorem writeV_g_halted (s : State) (d : Nat) (m : LaneSet) (r : Nat → Word) : (writeV d m r s).g.halted = s.g.halted := rfl
@[simp] theorem writeV_g_killed (s : State) (d : Nat) (m : LaneSet) (r : Nat → Word) : (writeV d m r s).g.killed = s.g.killed := rfl
@[simp] theorem writeV_g_rollback (s : State) (d : Nat) (m : LaneSet) (r : Nat → Word) : (writeV d m r s).g.rollback = s.g.rollback := rfl
@[simp] theorem writeV_g_lost (s : State) (d : Nat) (m : LaneSet) (r : Nat → Word) : (writeV d m r s).g.lost = s.g.lost := rfl
@[simp] theorem writeV_g_waitTeam (s : State) (d : Nat) (m : LaneSet) (r : Nat → Word) : (writeV d m r s).g.waitTeam = s.g.waitTeam := rfl
@[simp] theorem writeV_g_poisonTile (s : State) (d : Nat) (m : LaneSet) (r : Nat → Word) : (writeV d m r s).g.poisonTile = s.g.poisonTile := rfl
@[simp] theorem writeV_g_svV (s : State) (d : Nat) (m : LaneSet) (r : Nat → Word) : (writeV d m r s).g.svV = s.g.svV := rfl
@[simp] theorem writeV_g_svS (s : State) (d : Nat) (m : LaneSet) (r : Nat → Word) : (writeV d m r s).g.svS = s.g.svS := rfl
@[simp] theorem writeV_g_svP (s : State) (d : Nat) (m : LaneSet) (r : Nat → Word) : (writeV d m r s).g.svP = s.g.svP := rfl
@[simp] theorem writeV_g_sp (s : State) (d : Nat) (m : LaneSet) (r : Nat → Word) : (writeV d m r s).g.sp = s.g.sp := rfl
@[simp] theorem writeV_g_sibs (s : State) (d : Nat) (m : LaneSet) (r : Nat → Word) : (writeV d m r s).g.sibs = s.g.sibs := rfl
@[simp] theorem writeV64_others (s : State) (d : Nat) (m : LaneSet) (r : Nat → DWord) : (writeV64 d m r s).others = s.others := rfl
@[simp] theorem writeV64_mem (s : State) (d : Nat) (m : LaneSet) (r : Nat → DWord) : (writeV64 d m r s).mem = s.mem := rfl
@[simp] theorem writeV64_poison (s : State) (d : Nat) (m : LaneSet) (r : Nat → DWord) : (writeV64 d m r s).poison = s.poison := rfl
@[simp] theorem writeV64_drowned (s : State) (d : Nat) (m : LaneSet) (r : Nat → DWord) : (writeV64 d m r s).drowned = s.drowned := rfl
@[simp] theorem writeV64_hostMem (s : State) (d : Nat) (m : LaneSet) (r : Nat → DWord) : (writeV64 d m r s).hostMem = s.hostMem := rfl
@[simp] theorem writeV64_packets (s : State) (d : Nat) (m : LaneSet) (r : Nat → DWord) : (writeV64 d m r s).packets = s.packets := rfl
@[simp] theorem writeV64_parts (s : State) (d : Nat) (m : LaneSet) (r : Nat → DWord) : (writeV64 d m r s).parts = s.parts := rfl
@[simp] theorem writeV64_cores (s : State) (d : Nat) (m : LaneSet) (r : Nat → DWord) : (writeV64 d m r s).cores = s.cores := rfl
@[simp] theorem writeV64_leases (s : State) (d : Nat) (m : LaneSet) (r : Nat → DWord) : (writeV64 d m r s).leases = s.leases := rfl
@[simp] theorem writeV64_homes (s : State) (d : Nat) (m : LaneSet) (r : Nat → DWord) : (writeV64 d m r s).homes = s.homes := rfl
@[simp] theorem writeV64_cards (s : State) (d : Nat) (m : LaneSet) (r : Nat → DWord) : (writeV64 d m r s).cards = s.cards := rfl
@[simp] theorem writeV64_launches (s : State) (d : Nat) (m : LaneSet) (r : Nat → DWord) : (writeV64 d m r s).launches = s.launches := rfl
@[simp] theorem writeV64_pkgs (s : State) (d : Nat) (m : LaneSet) (r : Nat → DWord) : (writeV64 d m r s).pkgs = s.pkgs := rfl
@[simp] theorem writeV64_stale (s : State) (d : Nat) (m : LaneSet) (r : Nat → DWord) : (writeV64 d m r s).stale = s.stale := rfl
@[simp] theorem writeV64_invals (s : State) (d : Nat) (m : LaneSet) (r : Nat → DWord) : (writeV64 d m r s).invals = s.invals := rfl
@[simp] theorem writeV64_roce (s : State) (d : Nat) (m : LaneSet) (r : Nat → DWord) : (writeV64 d m r s).roce = s.roce := rfl
@[simp] theorem writeV64_mirrors (s : State) (d : Nat) (m : LaneSet) (r : Nat → DWord) : (writeV64 d m r s).mirrors = s.mirrors := rfl
@[simp] theorem writeV64_degraded (s : State) (d : Nat) (m : LaneSet) (r : Nat → DWord) : (writeV64 d m r s).degraded = s.degraded := rfl
@[simp] theorem writeV64_agenda (s : State) (d : Nat) (m : LaneSet) (r : Nat → DWord) : (writeV64 d m r s).agenda = s.agenda := rfl
@[simp] theorem writeV64_free (s : State) (d : Nat) (m : LaneSet) (r : Nat → DWord) : (writeV64 d m r s).free = s.free := rfl
@[simp] theorem writeV64_fresh (s : State) (d : Nat) (m : LaneSet) (r : Nat → DWord) : (writeV64 d m r s).fresh = s.fresh := rfl
@[simp] theorem writeV64_g_life (s : State) (d : Nat) (m : LaneSet) (r : Nat → DWord) : (writeV64 d m r s).g.life = s.g.life := rfl
@[simp] theorem writeV64_g_gid (s : State) (d : Nat) (m : LaneSet) (r : Nat → DWord) : (writeV64 d m r s).g.gid = s.g.gid := rfl
@[simp] theorem writeV64_g_w (s : State) (d : Nat) (m : LaneSet) (r : Nat → DWord) : (writeV64 d m r s).g.w = s.g.w := rfl
@[simp] theorem writeV64_g_p (s : State) (d : Nat) (m : LaneSet) (r : Nat → DWord) : (writeV64 d m r s).g.p = s.g.p := rfl
@[simp] theorem writeV64_g_em (s : State) (d : Nat) (m : LaneSet) (r : Nat → DWord) : (writeV64 d m r s).g.em = s.g.em := rfl
@[simp] theorem writeV64_g_bcur (s : State) (d : Nat) (m : LaneSet) (r : Nat → DWord) : (writeV64 d m r s).g.bcur = s.g.bcur := rfl
@[simp] theorem writeV64_g_fs (s : State) (d : Nat) (m : LaneSet) (r : Nat → DWord) : (writeV64 d m r s).g.fs = s.g.fs := rfl
@[simp] theorem writeV64_g_baseHome (s : State) (d : Nat) (m : LaneSet) (r : Nat → DWord) : (writeV64 d m r s).g.baseHome = s.g.baseHome := rfl
@[simp] theorem writeV64_g_recIdx (s : State) (d : Nat) (m : LaneSet) (r : Nat → DWord) : (writeV64 d m r s).g.recIdx = s.g.recIdx := rfl
@[simp] theorem writeV64_g_grpInRec (s : State) (d : Nat) (m : LaneSet) (r : Nat → DWord) : (writeV64 d m r s).g.grpInRec = s.g.grpInRec := rfl
@[simp] theorem writeV64_g_ctx (s : State) (d : Nat) (m : LaneSet) (r : Nat → DWord) : (writeV64 d m r s).g.ctx = s.g.ctx := rfl
@[simp] theorem writeV64_g_card (s : State) (d : Nat) (m : LaneSet) (r : Nat → DWord) : (writeV64 d m r s).g.card = s.g.card := rfl
@[simp] theorem writeV64_g_diag (s : State) (d : Nat) (m : LaneSet) (r : Nat → DWord) : (writeV64 d m r s).g.diag = s.g.diag := rfl
@[simp] theorem writeV64_g_prio (s : State) (d : Nat) (m : LaneSet) (r : Nat → DWord) : (writeV64 d m r s).g.prio = s.g.prio := rfl
@[simp] theorem writeV64_g_floorPrio (s : State) (d : Nat) (m : LaneSet) (r : Nat → DWord) : (writeV64 d m r s).g.floorPrio = s.g.floorPrio := rfl
@[simp] theorem writeV64_g_team (s : State) (d : Nat) (m : LaneSet) (r : Nat → DWord) : (writeV64 d m r s).g.team = s.g.team := rfl
@[simp] theorem writeV64_g_teamVa (s : State) (d : Nat) (m : LaneSet) (r : Nat → DWord) : (writeV64 d m r s).g.teamVa = s.g.teamVa := rfl
@[simp] theorem writeV64_g_teamPte (s : State) (d : Nat) (m : LaneSet) (r : Nat → DWord) : (writeV64 d m r s).g.teamPte = s.g.teamPte := rfl
@[simp] theorem writeV64_g_teamId (s : State) (d : Nat) (m : LaneSet) (r : Nat → DWord) : (writeV64 d m r s).g.teamId = s.g.teamId := rfl
@[simp] theorem writeV64_g_note (s : State) (d : Nat) (m : LaneSet) (r : Nat → DWord) : (writeV64 d m r s).g.note = s.g.note := rfl
@[simp] theorem writeV64_g_acks (s : State) (d : Nat) (m : LaneSet) (r : Nat → DWord) : (writeV64 d m r s).g.acks = s.g.acks := rfl
@[simp] theorem writeV64_g_slot (s : State) (d : Nat) (m : LaneSet) (r : Nat → DWord) : (writeV64 d m r s).g.slot = s.g.slot := rfl
@[simp] theorem writeV64_g_tileRows (s : State) (d : Nat) (m : LaneSet) (r : Nat → DWord) : (writeV64 d m r s).g.tileRows = s.g.tileRows := rfl
@[simp] theorem writeV64_g_tile (s : State) (d : Nat) (m : LaneSet) (r : Nat → DWord) : (writeV64 d m r s).g.tile = s.g.tile := rfl
@[simp] theorem writeV64_g_ovf (s : State) (d : Nat) (m : LaneSet) (r : Nat → DWord) : (writeV64 d m r s).g.ovf = s.g.ovf := rfl
@[simp] theorem writeV64_g_ovfLate (s : State) (d : Nat) (m : LaneSet) (r : Nat → DWord) : (writeV64 d m r s).g.ovfLate = s.g.ovfLate := rfl
@[simp] theorem writeV64_g_seams (s : State) (d : Nat) (m : LaneSet) (r : Nat → DWord) : (writeV64 d m r s).g.seams = s.g.seams := rfl
@[simp] theorem writeV64_g_sup (s : State) (d : Nat) (m : LaneSet) (r : Nat → DWord) : (writeV64 d m r s).g.sup = s.g.sup := rfl
@[simp] theorem writeV64_g_floor (s : State) (d : Nat) (m : LaneSet) (r : Nat → DWord) : (writeV64 d m r s).g.floor = s.g.floor := rfl
@[simp] theorem writeV64_g_handler (s : State) (d : Nat) (m : LaneSet) (r : Nat → DWord) : (writeV64 d m r s).g.handler = s.g.handler := rfl
@[simp] theorem writeV64_g_seamSv (s : State) (d : Nat) (m : LaneSet) (r : Nat → DWord) : (writeV64 d m r s).g.seamSv = s.g.seamSv := rfl
@[simp] theorem writeV64_g_trapvec (s : State) (d : Nat) (m : LaneSet) (r : Nat → DWord) : (writeV64 d m r s).g.trapvec = s.g.trapvec := rfl
@[simp] theorem writeV64_g_trapcause (s : State) (d : Nat) (m : LaneSet) (r : Nat → DWord) : (writeV64 d m r s).g.trapcause = s.g.trapcause := rfl
@[simp] theorem writeV64_g_trappc (s : State) (d : Nat) (m : LaneSet) (r : Nat → DWord) : (writeV64 d m r s).g.trappc = s.g.trappc := rfl
@[simp] theorem writeV64_g_trapaddr (s : State) (d : Nat) (m : LaneSet) (r : Nat → DWord) : (writeV64 d m r s).g.trapaddr = s.g.trapaddr := rfl
@[simp] theorem writeV64_g_trapmask (s : State) (d : Nat) (m : LaneSet) (r : Nat → DWord) : (writeV64 d m r s).g.trapmask = s.g.trapmask := rfl
@[simp] theorem writeV64_g_traphdr (s : State) (d : Nat) (m : LaneSet) (r : Nat → DWord) : (writeV64 d m r s).g.traphdr = s.g.traphdr := rfl
@[simp] theorem writeV64_g_ctxbase (s : State) (d : Nat) (m : LaneSet) (r : Nat → DWord) : (writeV64 d m r s).g.ctxbase = s.g.ctxbase := rfl
@[simp] theorem writeV64_g_rpseq (s : State) (d : Nat) (m : LaneSet) (r : Nat → DWord) : (writeV64 d m r s).g.rpseq = s.g.rpseq := rfl
@[simp] theorem writeV64_g_rppc (s : State) (d : Nat) (m : LaneSet) (r : Nat → DWord) : (writeV64 d m r s).g.rppc = s.g.rppc := rfl
@[simp] theorem writeV64_g_rpjkt (s : State) (d : Nat) (m : LaneSet) (r : Nat → DWord) : (writeV64 d m r s).g.rpjkt = s.g.rpjkt := rfl
@[simp] theorem writeV64_g_teamstat (s : State) (d : Nat) (m : LaneSet) (r : Nat → DWord) : (writeV64 d m r s).g.teamstat = s.g.teamstat := rfl
@[simp] theorem writeV64_g_diaginj (s : State) (d : Nat) (m : LaneSet) (r : Nat → DWord) : (writeV64 d m r s).g.diaginj = s.g.diaginj := rfl
@[simp] theorem writeV64_g_ck (s : State) (d : Nat) (m : LaneSet) (r : Nat → DWord) : (writeV64 d m r s).g.ck = s.g.ck := rfl
@[simp] theorem writeV64_g_rcnt (s : State) (d : Nat) (m : LaneSet) (r : Nat → DWord) : (writeV64 d m r s).g.rcnt = s.g.rcnt := rfl
@[simp] theorem writeV64_g_path (s : State) (d : Nat) (m : LaneSet) (r : Nat → DWord) : (writeV64 d m r s).g.path = s.g.path := rfl
@[simp] theorem writeV64_g_accs (s : State) (d : Nat) (m : LaneSet) (r : Nat → DWord) : (writeV64 d m r s).g.accs = s.g.accs := rfl
@[simp] theorem writeV64_g_mtx (s : State) (d : Nat) (m : LaneSet) (r : Nat → DWord) : (writeV64 d m r s).g.mtx = s.g.mtx := rfl
@[simp] theorem writeV64_g_copies (s : State) (d : Nat) (m : LaneSet) (r : Nat → DWord) : (writeV64 d m r s).g.copies = s.g.copies := rfl
@[simp] theorem writeV64_g_copyFault (s : State) (d : Nat) (m : LaneSet) (r : Nat → DWord) : (writeV64 d m r s).g.copyFault = s.g.copyFault := rfl
@[simp] theorem writeV64_g_preempt (s : State) (d : Nat) (m : LaneSet) (r : Nat → DWord) : (writeV64 d m r s).g.preempt = s.g.preempt := rfl
@[simp] theorem writeV64_g_halted (s : State) (d : Nat) (m : LaneSet) (r : Nat → DWord) : (writeV64 d m r s).g.halted = s.g.halted := rfl
@[simp] theorem writeV64_g_killed (s : State) (d : Nat) (m : LaneSet) (r : Nat → DWord) : (writeV64 d m r s).g.killed = s.g.killed := rfl
@[simp] theorem writeV64_g_rollback (s : State) (d : Nat) (m : LaneSet) (r : Nat → DWord) : (writeV64 d m r s).g.rollback = s.g.rollback := rfl
@[simp] theorem writeV64_g_lost (s : State) (d : Nat) (m : LaneSet) (r : Nat → DWord) : (writeV64 d m r s).g.lost = s.g.lost := rfl
@[simp] theorem writeV64_g_waitTeam (s : State) (d : Nat) (m : LaneSet) (r : Nat → DWord) : (writeV64 d m r s).g.waitTeam = s.g.waitTeam := rfl
@[simp] theorem writeV64_g_poisonTile (s : State) (d : Nat) (m : LaneSet) (r : Nat → DWord) : (writeV64 d m r s).g.poisonTile = s.g.poisonTile := rfl
@[simp] theorem writeV64_g_svV (s : State) (d : Nat) (m : LaneSet) (r : Nat → DWord) : (writeV64 d m r s).g.svV = s.g.svV := rfl
@[simp] theorem writeV64_g_svS (s : State) (d : Nat) (m : LaneSet) (r : Nat → DWord) : (writeV64 d m r s).g.svS = s.g.svS := rfl
@[simp] theorem writeV64_g_svP (s : State) (d : Nat) (m : LaneSet) (r : Nat → DWord) : (writeV64 d m r s).g.svP = s.g.svP := rfl
@[simp] theorem writeV64_g_sp (s : State) (d : Nat) (m : LaneSet) (r : Nat → DWord) : (writeV64 d m r s).g.sp = s.g.sp := rfl
@[simp] theorem writeV64_g_sibs (s : State) (d : Nat) (m : LaneSet) (r : Nat → DWord) : (writeV64 d m r s).g.sibs = s.g.sibs := rfl

theorem writeS_sp_s (s : State) (n : SReg) (x : DWord) :
    (writeS n x s).g.sp.s = if n = 0 then s.g.sp.s else Cells.set 0 s.g.sp.s n.toNat x := by
  unfold writeS; split <;> rfl

theorem writeP_p (s : State) (n : PReg) (m x : LaneSet) :
    (writeP n m x s).g.p
      = if n = 0 then s.g.p
        else Cells.set 0 s.g.p n.toNat ((Cells.get 0 s.g.p n.toNat &&& ~~~m) ||| (x &&& m)) := by
  unfold writeP; split <;> rfl

/-- What a scalar reads after a write: s0 stays zero. -/
@[simp] theorem readS_writeS (s : State) (n k : SReg) (x : DWord) :
    readS (writeS n x s) k = if k = n ∧ n ≠ 0 then x else readS s k := by
  unfold readS
  rw [writeS_sp_s]
  by_cases hn : n = 0
  · rw [if_pos hn, if_neg (fun h : k = n ∧ n ≠ 0 => h.2 hn)]
  · rw [if_neg hn, Cells.get_set]
    by_cases h : k = n
    · subst h; rw [if_neg hn, if_pos rfl, if_pos ⟨rfl, hn⟩]
    · rw [if_neg (fun e => h (BitVec.eq_of_toNat_eq e)), if_neg (fun e : k = n ∧ n ≠ 0 => h e.1)]

/-- What a predicate reads after a write: p0 stays all ones. -/
@[simp] theorem readP_writeP (s : State) (n k : PReg) (m x : LaneSet) :
    readP (writeP n m x s) k = if k = n ∧ n ≠ 0 then (readP s n &&& ~~~m) ||| (x &&& m) else readP s k := by
  unfold readP
  rw [writeP_p]
  by_cases hn : n = 0
  · rw [if_pos hn, if_neg (fun h : k = n ∧ n ≠ 0 => h.2 hn)]
  · rw [if_neg hn, if_neg hn, Cells.get_set]
    by_cases h : k = n
    · subst h; rw [if_neg hn, if_pos rfl, if_pos ⟨rfl, hn⟩]
    · rw [if_neg (fun e => h (BitVec.eq_of_toNat_eq e)), if_neg (fun e : k = n ∧ n ≠ 0 => h e.1)]

end Sys2Proof.Machine
end

