-- ==== Sys2Proof/Laws/Memory.lean ====
section
/-! SUPPORT. Laws of memory: what one write does, and that every write keeps the canonical form. -/

namespace Sys2Proof.Machine

/-! ### The bytes of one write -/

/-- The bytes of a write, put into memory one after another. -/
def putBytes (m : Bytes) (bs : List (Nat × Byte)) : Bytes := bs.foldl (fun m b => Cells.set 0 m b.1 b.2) m

theorem wf_putBytes (bs : List (Nat × Byte)) : ∀ {m : Bytes}, Memory.wf m = true → Memory.wf (putBytes m bs) = true := by
  induction bs with
  | nil => intro m h; exact h
  | cons b bs ih => intro m h; exact ih (Cells.wf_set 0 b.2 b.1 h)

/-- A byte that the write does not name reads as before. -/
theorem read_putBytes_other (a : Nat) (bs : List (Nat × Byte)) :
    ∀ (m : Bytes), (∀ b ∈ bs, b.1 ≠ a) → Bytes.read (putBytes m bs) a = Bytes.read m a := by
  induction bs with
  | nil => intro m _; rfl
  | cons b bs ih =>
    intro m h
    have hb : a ≠ b.1 := fun e => h b (by simp) e.symm
    show Bytes.read (putBytes (Cells.set 0 m b.1 b.2) bs) a = _
    rw [ih _ (fun c hc => h c (by simp [hc])), Bytes.read_set, if_neg hb]

/-- A write of consecutive bytes is a write of their list. -/
theorem putBytes_bytesAt (bs : List Byte) : ∀ (m : Bytes) (a : Nat), putBytes m (bytesAt a bs) = Bytes.write m a bs := by
  induction bs with
  | nil => intro m a; rfl
  | cons b bs ih => intro m a; exact ih (Cells.set 0 m a b) (a + 1)

/-! ### One write to memory -/


theorem foldl_frame {α β : Type} (p : State → β) (f : State → α → State) (h : ∀ s x, p (f s x) = p s) :
    ∀ (l : List α) (s : State), p (l.foldl f s) = p s := by
  intro l
  induction l with
  | nil => intro s; rfl
  | cons x l ih => intro s; exact (ih (f s x)).trans (h s x)

/-! ### Bytes of the device and of the host (26 R380) -/

/-- Outside tier 2 no byte is the host's. -/
theorem hostKey_device (s : State) {pa : Nat} (h : paTier pa ≠ 2) : hostKey s pa = none := by unfold hostKey; rw [if_neg h]

/-- One byte of a write changes a byte of the device or of the host. -/
theorem putByte_cases (s : State) (b : Nat × Byte) :
    (∃ k, hostKey s b.1 = some k ∧ putByte s b = { s with hostMem := Cells.set 0 s.hostMem k b.2 })
    ∨ (hostKey s b.1 = none ∧ putByte s b = { s with mem := Cells.set 0 s.mem b.1 b.2 }) := by
  unfold putByte
  split
  · rename_i k e; exact .inl ⟨k, e, rfl⟩
  · rename_i e; exact .inr ⟨e, rfl⟩

theorem putByte_frame {α : Type} (φ : State → α) (hm : ∀ s m, φ ({ s with mem := m } : State) = φ s)
    (hh : ∀ s m, φ ({ s with hostMem := m } : State) = φ s) (s : State) (b : Nat × Byte) : φ (putByte s b) = φ s := by
  obtain ⟨_, _, e⟩ | ⟨_, e⟩ := putByte_cases s b <;> rw [e]
  · exact hh _ _
  · exact hm _ _

/-- Bytes put into memory change nothing else but what the caches may hold of them. -/
theorem putMemory_frame {α : Type} (φ : State → α) (hm : ∀ s m, φ ({ s with mem := m } : State) = φ s)
    (hh : ∀ s m, φ ({ s with hostMem := m } : State) = φ s) (hs : ∀ s m, φ ({ s with stale := m } : State) = φ s)
    (bs : List (Nat × Byte)) (s : State) : φ (putMemory bs s) = φ s := by
  unfold putMemory
  exact (hs _ _).trans (foldl_frame φ putByte (putByte_frame φ hm hh) bs s)

@[simp] theorem putMemory_g (s : State) (bs : List (Nat × Byte)) : (putMemory bs s).g = s.g :=
  putMemory_frame (·.g) (fun _ _ => rfl) (fun _ _ => rfl) (fun _ _ => rfl) bs s
@[simp] theorem putMemory_others (s : State) (bs : List (Nat × Byte)) : (putMemory bs s).others = s.others :=
  putMemory_frame (·.others) (fun _ _ => rfl) (fun _ _ => rfl) (fun _ _ => rfl) bs s
@[simp] theorem putMemory_poison (s : State) (bs : List (Nat × Byte)) : (putMemory bs s).poison = s.poison :=
  putMemory_frame (·.poison) (fun _ _ => rfl) (fun _ _ => rfl) (fun _ _ => rfl) bs s
@[simp] theorem putMemory_drowned (s : State) (bs : List (Nat × Byte)) : (putMemory bs s).drowned = s.drowned :=
  putMemory_frame (·.drowned) (fun _ _ => rfl) (fun _ _ => rfl) (fun _ _ => rfl) bs s
@[simp] theorem putMemory_packets (s : State) (bs : List (Nat × Byte)) : (putMemory bs s).packets = s.packets :=
  putMemory_frame (·.packets) (fun _ _ => rfl) (fun _ _ => rfl) (fun _ _ => rfl) bs s
@[simp] theorem putMemory_parts (s : State) (bs : List (Nat × Byte)) : (putMemory bs s).parts = s.parts :=
  putMemory_frame (·.parts) (fun _ _ => rfl) (fun _ _ => rfl) (fun _ _ => rfl) bs s
@[simp] theorem putMemory_cores (s : State) (bs : List (Nat × Byte)) : (putMemory bs s).cores = s.cores :=
  putMemory_frame (·.cores) (fun _ _ => rfl) (fun _ _ => rfl) (fun _ _ => rfl) bs s
@[simp] theorem putMemory_leases (s : State) (bs : List (Nat × Byte)) : (putMemory bs s).leases = s.leases :=
  putMemory_frame (·.leases) (fun _ _ => rfl) (fun _ _ => rfl) (fun _ _ => rfl) bs s
@[simp] theorem putMemory_homes (s : State) (bs : List (Nat × Byte)) : (putMemory bs s).homes = s.homes :=
  putMemory_frame (·.homes) (fun _ _ => rfl) (fun _ _ => rfl) (fun _ _ => rfl) bs s
@[simp] theorem putMemory_cards (s : State) (bs : List (Nat × Byte)) : (putMemory bs s).cards = s.cards :=
  putMemory_frame (·.cards) (fun _ _ => rfl) (fun _ _ => rfl) (fun _ _ => rfl) bs s
@[simp] theorem putMemory_launches (s : State) (bs : List (Nat × Byte)) : (putMemory bs s).launches = s.launches :=
  putMemory_frame (·.launches) (fun _ _ => rfl) (fun _ _ => rfl) (fun _ _ => rfl) bs s
@[simp] theorem putMemory_pkgs (s : State) (bs : List (Nat × Byte)) : (putMemory bs s).pkgs = s.pkgs :=
  putMemory_frame (·.pkgs) (fun _ _ => rfl) (fun _ _ => rfl) (fun _ _ => rfl) bs s
@[simp] theorem putMemory_invals (s : State) (bs : List (Nat × Byte)) : (putMemory bs s).invals = s.invals :=
  putMemory_frame (·.invals) (fun _ _ => rfl) (fun _ _ => rfl) (fun _ _ => rfl) bs s
@[simp] theorem putMemory_roce (s : State) (bs : List (Nat × Byte)) : (putMemory bs s).roce = s.roce :=
  putMemory_frame (·.roce) (fun _ _ => rfl) (fun _ _ => rfl) (fun _ _ => rfl) bs s
@[simp] theorem putMemory_mirrors (s : State) (bs : List (Nat × Byte)) : (putMemory bs s).mirrors = s.mirrors :=
  putMemory_frame (·.mirrors) (fun _ _ => rfl) (fun _ _ => rfl) (fun _ _ => rfl) bs s
@[simp] theorem putMemory_degraded (s : State) (bs : List (Nat × Byte)) : (putMemory bs s).degraded = s.degraded :=
  putMemory_frame (·.degraded) (fun _ _ => rfl) (fun _ _ => rfl) (fun _ _ => rfl) bs s
@[simp] theorem putMemory_agenda (s : State) (bs : List (Nat × Byte)) : (putMemory bs s).agenda = s.agenda :=
  putMemory_frame (·.agenda) (fun _ _ => rfl) (fun _ _ => rfl) (fun _ _ => rfl) bs s
@[simp] theorem putMemory_free (s : State) (bs : List (Nat × Byte)) : (putMemory bs s).free = s.free :=
  putMemory_frame (·.free) (fun _ _ => rfl) (fun _ _ => rfl) (fun _ _ => rfl) bs s
@[simp] theorem putMemory_fresh (s : State) (bs : List (Nat × Byte)) : (putMemory bs s).fresh = s.fresh :=
  putMemory_frame (·.fresh) (fun _ _ => rfl) (fun _ _ => rfl) (fun _ _ => rfl) bs s

/-- The bytes of a write that are the host's, each at its place there. -/
def hostBytesOf (s : State) (bs : List (Nat × Byte)) : List (Nat × Byte) := bs.filterMap fun b => (hostKey s b.1).map fun k => (k, b.2)

/-- The device's bytes of a write. -/
def deviceBytesOf (s : State) (bs : List (Nat × Byte)) : List (Nat × Byte) := bs.filter fun b => (hostKey s b.1).isNone

@[simp] theorem deviceBytesOf_eq (s : State) (bs : List (Nat × Byte)) (h : ∀ b ∈ bs, paTier b.1 ≠ 2) : deviceBytesOf s bs = bs :=
  List.filter_eq_self.2 fun b hb => by rw [hostKey_device s (h b hb)]; rfl
@[simp] theorem hostBytesOf_eq (s : State) (bs : List (Nat × Byte)) (h : ∀ b ∈ bs, paTier b.1 ≠ 2) : hostBytesOf s bs = [] :=
  List.filterMap_eq_nil_iff.2 fun b hb => by rw [hostKey_device s (h b hb)]; rfl

theorem foldl_putByte (bs : List (Nat × Byte)) : ∀ (s : State),
    (bs.foldl putByte s).mem = putBytes s.mem (deviceBytesOf s bs) ∧ (bs.foldl putByte s).hostMem = putBytes s.hostMem (hostBytesOf s bs) := by
  induction bs with
  | nil => intro s; exact ⟨rfl, rfl⟩
  | cons b bs ih =>
    intro s
    obtain ⟨k, hk, e⟩ | ⟨hk, e⟩ := putByte_cases s b
    · rw [List.foldl_cons, e]
      refine ⟨(ih _).1.trans ?_, (ih _).2.trans ?_⟩
      · simp only [deviceBytesOf, List.filter_cons, hk, Option.isNone_some, Bool.false_eq_true, if_false]; rfl
      · simp only [hostBytesOf, List.filterMap_cons, hk, Option.map_some]; rfl
    · rw [List.foldl_cons, e]
      refine ⟨(ih _).1.trans ?_, (ih _).2.trans ?_⟩
      · simp only [deviceBytesOf, List.filter_cons, hk, Option.isNone_none, if_true]; rfl
      · simp only [hostBytesOf, List.filterMap_cons, hk, Option.map_none]; rfl

theorem putMemory_mem (s : State) (bs : List (Nat × Byte)) : (putMemory bs s).mem = putBytes s.mem (deviceBytesOf s bs) := (foldl_putByte bs s).1
theorem putMemory_hostMem (s : State) (bs : List (Nat × Byte)) : (putMemory bs s).hostMem = putBytes s.hostMem (hostBytesOf s bs) :=
  (foldl_putByte bs s).2

/-! ### The end of runs and the waits that a write wakes -/

/-- A write wakes a split, or leaves it alone. -/
theorem notifySplit_cases (m : State) (bs : List (Nat × Byte)) (sp : Split) :
    notifySplit m bs sp = sp ∨ notifySplit m bs sp = { sp with woken := true } := by
  unfold notifySplit
  extract_lets byWait byWatch
  split
  · exact .inr rfl
  · exact .inl rfl

@[simp] theorem notifySplit_idx (m : State) (bs : List (Nat × Byte)) (sp : Split) : (notifySplit m bs sp).idx = sp.idx := by
  rcases notifySplit_cases m bs sp with h | h <;> rw [h]
@[simp] theorem notifySplit_pc (m : State) (bs : List (Nat × Byte)) (sp : Split) : (notifySplit m bs sp).pc = sp.pc := by
  rcases notifySplit_cases m bs sp with h | h <;> rw [h]
@[simp] theorem notifySplit_lanes (m : State) (bs : List (Nat × Byte)) (sp : Split) : (notifySplit m bs sp).lanes = sp.lanes := by
  rcases notifySplit_cases m bs sp with h | h <;> rw [h]
@[simp] theorem notifySplit_status (m : State) (bs : List (Nat × Byte)) (sp : Split) : (notifySplit m bs sp).status = sp.status := by
  rcases notifySplit_cases m bs sp with h | h <;> rw [h]
@[simp] theorem notifySplit_seam (m : State) (bs : List (Nat × Byte)) (sp : Split) : (notifySplit m bs sp).seam = sp.seam := by
  rcases notifySplit_cases m bs sp with h | h <;> rw [h]
@[simp] theorem notifySplit_home (m : State) (bs : List (Nat × Byte)) (sp : Split) : (notifySplit m bs sp).home = sp.home := by
  rcases notifySplit_cases m bs sp with h | h <;> rw [h]
@[simp] theorem notifySplit_demoted (m : State) (bs : List (Nat × Byte)) (sp : Split) : (notifySplit m bs sp).demoted = sp.demoted := by
  rcases notifySplit_cases m bs sp with h | h <;> rw [h]
@[simp] theorem notifySplit_part (m : State) (bs : List (Nat × Byte)) (sp : Split) : (notifySplit m bs sp).part = sp.part := by
  rcases notifySplit_cases m bs sp with h | h <;> rw [h]
@[simp] theorem notifySplit_s (m : State) (bs : List (Nat × Byte)) (sp : Split) : (notifySplit m bs sp).s = sp.s := by
  rcases notifySplit_cases m bs sp with h | h <;> rw [h]
@[simp] theorem notifySplit_fpstat (m : State) (bs : List (Nat × Byte)) (sp : Split) : (notifySplit m bs sp).fpstat = sp.fpstat := by
  rcases notifySplit_cases m bs sp with h | h <;> rw [h]
@[simp] theorem notifySplit_resgen (m : State) (bs : List (Nat × Byte)) (sp : Split) : (notifySplit m bs sp).resgen = sp.resgen := by
  rcases notifySplit_cases m bs sp with h | h <;> rw [h]
@[simp] theorem notifySplit_clause (m : State) (bs : List (Nat × Byte)) (sp : Split) : (notifySplit m bs sp).clause = sp.clause := by
  rcases notifySplit_cases m bs sp with h | h <;> rw [h]
@[simp] theorem notifySplit_ops (m : State) (bs : List (Nat × Byte)) (sp : Split) : (notifySplit m bs sp).ops = sp.ops := by
  rcases notifySplit_cases m bs sp with h | h <;> rw [h]
@[simp] theorem notifySplit_acquire (m : State) (bs : List (Nat × Byte)) (sp : Split) : (notifySplit m bs sp).acquire = sp.acquire := by
  rcases notifySplit_cases m bs sp with h | h <;> rw [h]
@[simp] theorem notifySplit_fence (m : State) (bs : List (Nat × Byte)) (sp : Split) : (notifySplit m bs sp).fence = sp.fence := by
  rcases notifySplit_cases m bs sp with h | h <;> rw [h]
@[simp] theorem notifySplit_await (m : State) (bs : List (Nat × Byte)) (sp : Split) : (notifySplit m bs sp).await = sp.await := by
  rcases notifySplit_cases m bs sp with h | h <;> rw [h]
@[simp] theorem notifySplit_sent (m : State) (bs : List (Nat × Byte)) (sp : Split) : (notifySplit m bs sp).sent = sp.sent := by
  rcases notifySplit_cases m bs sp with h | h <;> rw [h]
@[simp] theorem notifySplit_cross (m : State) (bs : List (Nat × Byte)) (sp : Split) : (notifySplit m bs sp).cross = sp.cross := by
  rcases notifySplit_cases m bs sp with h | h <;> rw [h]
@[simp] theorem notifySplit_lastPart (m : State) (bs : List (Nat × Byte)) (sp : Split) : (notifySplit m bs sp).lastPart = sp.lastPart := by
  rcases notifySplit_cases m bs sp with h | h <;> rw [h]
@[simp] theorem notifySplit_jacket (m : State) (bs : List (Nat × Byte)) (sp : Split) : (notifySplit m bs sp).jacket = sp.jacket := by
  rcases notifySplit_cases m bs sp with h | h <;> rw [h]
@[simp] theorem notifySplit_strands (m : State) (bs : List (Nat × Byte)) (sp : Split) : (notifySplit m bs sp).strands = sp.strands := by
  rcases notifySplit_cases m bs sp with h | h <;> rw [h]
@[simp] theorem notifySplit_safe (m : State) (bs : List (Nat × Byte)) (sp : Split) : (notifySplit m bs sp).safe = sp.safe := by
  rcases notifySplit_cases m bs sp with h | h <;> rw [h]
@[simp] theorem notifySplit_region (m : State) (bs : List (Nat × Byte)) (sp : Split) : (notifySplit m bs sp).region = sp.region := by
  rcases notifySplit_cases m bs sp with h | h <;> rw [h]
@[simp] theorem notifySplit_wait (m : State) (bs : List (Nat × Byte)) (sp : Split) : (notifySplit m bs sp).wait = sp.wait := by
  rcases notifySplit_cases m bs sp with h | h <;> rw [h]
@[simp] theorem notifySplit_wonly (m : State) (bs : List (Nat × Byte)) (sp : Split) : (notifySplit m bs sp).wonly = sp.wonly := by
  rcases notifySplit_cases m bs sp with h | h <;> rw [h]
@[simp] theorem notifySplit_move (m : State) (bs : List (Nat × Byte)) (sp : Split) : (notifySplit m bs sp).move = sp.move := by
  rcases notifySplit_cases m bs sp with h | h <;> rw [h]
@[simp] theorem notifySplit_ls (m : State) (bs : List (Nat × Byte)) (sp : Split) : (notifySplit m bs sp).ls = sp.ls := by
  rcases notifySplit_cases m bs sp with h | h <;> rw [h]
@[simp] theorem notifySplit_keep (m : State) (bs : List (Nat × Byte)) (sp : Split) : (notifySplit m bs sp).keep = sp.keep := by
  rcases notifySplit_cases m bs sp with h | h <;> rw [h]
@[simp] theorem notifySplit_live (m : State) (bs : List (Nat × Byte)) (sp : Split) : (notifySplit m bs sp).live = sp.live := by
  rcases notifySplit_cases m bs sp with h | h <;> rw [h]
@[simp] theorem notifySplit_joins (m : State) (bs : List (Nat × Byte)) (sp : Split) : (notifySplit m bs sp).joins = sp.joins := by
  rcases notifySplit_cases m bs sp with h | h <;> rw [h]
@[simp] theorem notifySplit_tail (m : State) (bs : List (Nat × Byte)) (sp : Split) : (notifySplit m bs sp).tail = sp.tail := by
  rcases notifySplit_cases m bs sp with h | h <;> rw [h]
@[simp] theorem notifySplit_watch (m : State) (bs : List (Nat × Byte)) (sp : Split) : (notifySplit m bs sp).watch = sp.watch := by
  rcases notifySplit_cases m bs sp with h | h <;> rw [h]
@[simp] theorem notifySplit_lastLoad (m : State) (bs : List (Nat × Byte)) (sp : Split) : (notifySplit m bs sp).lastLoad = sp.lastLoad := by
  rcases notifySplit_cases m bs sp with h | h <;> rw [h]
@[simp] theorem notifySplit_timeout (m : State) (bs : List (Nat × Byte)) (sp : Split) : (notifySplit m bs sp).timeout = sp.timeout := by
  rcases notifySplit_cases m bs sp with h | h <;> rw [h]
@[simp] theorem notifySplit_trap (m : State) (bs : List (Nat × Byte)) (sp : Split) : (notifySplit m bs sp).trap = sp.trap := by
  rcases notifySplit_cases m bs sp with h | h <;> rw [h]
@[simp] theorem notifySplit_restart (m : State) (bs : List (Nat × Byte)) (sp : Split) : (notifySplit m bs sp).restart = sp.restart := by
  rcases notifySplit_cases m bs sp with h | h <;> rw [h]
@[simp] theorem notifySplit_err (m : State) (bs : List (Nat × Byte)) (sp : Split) : (notifySplit m bs sp).err = sp.err := by
  rcases notifySplit_cases m bs sp with h | h <;> rw [h]
@[simp] theorem notifySplit_defer (m : State) (bs : List (Nat × Byte)) (sp : Split) : (notifySplit m bs sp).defer = sp.defer := by
  rcases notifySplit_cases m bs sp with h | h <;> rw [h]
@[simp] theorem notifySplit_stopped (m : State) (bs : List (Nat × Byte)) (sp : Split) : (notifySplit m bs sp).stopped = sp.stopped := by
  rcases notifySplit_cases m bs sp with h | h <;> rw [h]
@[simp] theorem notifySplit_crc (m : State) (bs : List (Nat × Byte)) (sp : Split) : (notifySplit m bs sp).crc = sp.crc := by
  rcases notifySplit_cases m bs sp with h | h <;> rw [h]
@[simp] theorem notifySplit_inval (m : State) (bs : List (Nat × Byte)) (sp : Split) : (notifySplit m bs sp).inval = sp.inval := by
  rcases notifySplit_cases m bs sp with h | h <;> rw [h]
@[simp] theorem notifySplit_yielded (m : State) (bs : List (Nat × Byte)) (sp : Split) : (notifySplit m bs sp).yielded = sp.yielded := by
  rcases notifySplit_cases m bs sp with h | h <;> rw [h]
@[simp] theorem notifySplit_spin (m : State) (bs : List (Nat × Byte)) (sp : Split) : (notifySplit m bs sp).spin = sp.spin := by
  rcases notifySplit_cases m bs sp with h | h <;> rw [h]
@[simp] theorem notifySplit_trace (m : State) (bs : List (Nat × Byte)) (sp : Split) : (notifySplit m bs sp).trace = sp.trace := by
  rcases notifySplit_cases m bs sp with h | h <;> rw [h]
@[simp] theorem notifySplit_prev (m : State) (bs : List (Nat × Byte)) (sp : Split) : (notifySplit m bs sp).prev = sp.prev := by
  rcases notifySplit_cases m bs sp with h | h <;> rw [h]
@[simp] theorem notifySplit_past (m : State) (bs : List (Nat × Byte)) (sp : Split) : (notifySplit m bs sp).past = sp.past := by
  rcases notifySplit_cases m bs sp with h | h <;> rw [h]
@[simp] theorem notifySplit_dirty (m : State) (bs : List (Nat × Byte)) (sp : Split) : (notifySplit m bs sp).dirty = sp.dirty := by
  rcases notifySplit_cases m bs sp with h | h <;> rw [h]
@[simp] theorem notifySplit_poisonS (m : State) (bs : List (Nat × Byte)) (sp : Split) : (notifySplit m bs sp).poisonS = sp.poisonS := by
  rcases notifySplit_cases m bs sp with h | h <;> rw [h]
@[simp] theorem notifySplit_poisonP (m : State) (bs : List (Nat × Byte)) (sp : Split) : (notifySplit m bs sp).poisonP = sp.poisonP := by
  rcases notifySplit_cases m bs sp with h | h <;> rw [h]
@[simp] theorem notifyWaits_mem (s : State) (bs : List (Nat × Byte)) : (notifyWaits bs s).mem = s.mem := by unfold notifyWaits seeCards; split <;> rfl
@[simp] theorem notifyWaits_poison (s : State) (bs : List (Nat × Byte)) : (notifyWaits bs s).poison = s.poison := by unfold notifyWaits seeCards; split <;> rfl
@[simp] theorem notifyWaits_drowned (s : State) (bs : List (Nat × Byte)) : (notifyWaits bs s).drowned = s.drowned := by unfold notifyWaits seeCards; split <;> rfl
@[simp] theorem notifyWaits_hostMem (s : State) (bs : List (Nat × Byte)) : (notifyWaits bs s).hostMem = s.hostMem := by unfold notifyWaits seeCards; split <;> rfl
@[simp] theorem notifyWaits_packets (s : State) (bs : List (Nat × Byte)) : (notifyWaits bs s).packets = s.packets := by unfold notifyWaits seeCards; split <;> rfl
@[simp] theorem notifyWaits_parts (s : State) (bs : List (Nat × Byte)) : (notifyWaits bs s).parts = s.parts := by unfold notifyWaits seeCards; split <;> rfl
@[simp] theorem notifyWaits_cores (s : State) (bs : List (Nat × Byte)) : (notifyWaits bs s).cores = s.cores := by unfold notifyWaits seeCards; split <;> rfl
@[simp] theorem notifyWaits_leases (s : State) (bs : List (Nat × Byte)) : (notifyWaits bs s).leases = s.leases := by unfold notifyWaits seeCards; split <;> rfl
@[simp] theorem notifyWaits_launches (s : State) (bs : List (Nat × Byte)) : (notifyWaits bs s).launches = s.launches := by unfold notifyWaits seeCards; split <;> rfl
@[simp] theorem notifyWaits_pkgs (s : State) (bs : List (Nat × Byte)) : (notifyWaits bs s).pkgs = s.pkgs := by unfold notifyWaits seeCards; split <;> rfl
@[simp] theorem notifyWaits_stale (s : State) (bs : List (Nat × Byte)) : (notifyWaits bs s).stale = s.stale := by unfold notifyWaits seeCards; split <;> rfl
@[simp] theorem notifyWaits_invals (s : State) (bs : List (Nat × Byte)) : (notifyWaits bs s).invals = s.invals := by unfold notifyWaits seeCards; split <;> rfl
@[simp] theorem notifyWaits_roce (s : State) (bs : List (Nat × Byte)) : (notifyWaits bs s).roce = s.roce := by unfold notifyWaits seeCards; split <;> rfl
@[simp] theorem notifyWaits_mirrors (s : State) (bs : List (Nat × Byte)) : (notifyWaits bs s).mirrors = s.mirrors := by unfold notifyWaits seeCards; split <;> rfl
@[simp] theorem notifyWaits_degraded (s : State) (bs : List (Nat × Byte)) : (notifyWaits bs s).degraded = s.degraded := by unfold notifyWaits seeCards; split <;> rfl
@[simp] theorem notifyWaits_agenda (s : State) (bs : List (Nat × Byte)) : (notifyWaits bs s).agenda = s.agenda := by unfold notifyWaits seeCards; split <;> rfl
@[simp] theorem notifyWaits_free (s : State) (bs : List (Nat × Byte)) : (notifyWaits bs s).free = s.free := by unfold notifyWaits seeCards; split <;> rfl
@[simp] theorem notifyWaits_fresh (s : State) (bs : List (Nat × Byte)) : (notifyWaits bs s).fresh = s.fresh := by unfold notifyWaits seeCards; split <;> rfl
@[simp] theorem notifyWaits_g (s : State) (bs : List (Nat × Byte)) : (notifyWaits bs s).g = s.g.mapSplits (notifySplit s bs) := by
  unfold notifyWaits seeCards; split <;> rfl
@[simp] theorem notifyWaits_others (s : State) (bs : List (Nat × Byte)) :
    (notifyWaits bs s).others = s.others.map (Group.mapSplits (notifySplit s bs)) := by unfold notifyWaits seeCards; split <;> rfl
@[simp] theorem notifyWaits_cards (s : State) (bs : List (Nat × Byte)) :
    (notifyWaits bs s).cards = s.cards.map (notifyCard s bs) := by unfold notifyWaits seeCards; split <;> rfl

/-- What neither the evaluation of waits nor a change of a home changes, the end of runs does not. -/
theorem closeRuns_frame {α : Type} (φ : State → α) (hn : ∀ s bs, φ (notifyWaits bs s) = φ s) (hh : ∀ s k f, φ (State.setHome s k f) = φ s)
    (home : Nat) (p : Run → Bool) (s : State) : φ (closeRuns home p s) = φ s := by
  unfold closeRuns
  dsimp only
  split
  · exact (foldl_frame φ noteRun (fun _ _ => hn _ _) _ _).trans (hh _ _ _)
  · rfl

theorem closeLine_frame {α : Type} (φ : State → α) (hn : ∀ s bs, φ (notifyWaits bs s) = φ s) (hh : ∀ s k f, φ (State.setHome s k f) = φ s)
    (pa : Nat) (s : State) : φ (closeLine pa s) = φ s := by
  unfold closeLine; split
  · rfl
  · exact closeRuns_frame φ hn hh _ _ s

theorem closeSpan_frame {α : Type} (φ : State → α) (hn : ∀ s bs, φ (notifyWaits bs s) = φ s) (hh : ∀ s k f, φ (State.setHome s k f) = φ s)
    (pa n : Nat) (s : State) : φ (closeSpan pa n s) = φ s := by
  unfold closeSpan; split
  · rfl
  · exact closeRuns_frame φ hn hh _ _ s

theorem closeVirtual_frame {α : Type} (φ : State → α) (hn : ∀ s bs, φ (notifyWaits bs s) = φ s) (hh : ∀ s k f, φ (State.setHome s k f) = φ s)
    (home ctx : Nat) : ∀ (fuel : Nat) (s : State) (va n : Nat), φ (closeVirtual fuel s home ctx va n) = φ s := by
  intro fuel
  induction fuel with
  | zero => intro s va n; rfl
  | succ fuel ih =>
    intro s va n
    unfold closeVirtual
    split
    · rfl
    · dsimp only
      split
      · exact (ih _ _ _).trans (closeSpan_frame φ hn hh _ _ s)
      · rfl

theorem endRuns_frame {α : Type} (φ : State → α) (hn : ∀ s bs, φ (notifyWaits bs s) = φ s) (hh : ∀ s k f, φ (State.setHome s k f) = φ s)
    (bs : List (Nat × Byte)) (s : State) : φ (endRuns bs s) = φ s := by
  unfold endRuns; split
  · rfl
  · exact foldl_frame φ (fun s (b : Nat × Byte) => closeLine b.1 s) (fun t b => closeLine_frame φ hn hh b.1 t) bs s

theorem clearPoison_frame {α : Type} (φ : State → α) (hl : ∀ s x l, φ (setLinePoison x l s) = φ s) (bs : List (Nat × Byte)) (s : State) :
    φ (clearPoison bs s) = φ s := by
  unfold clearPoison; split
  · rfl
  · exact foldl_frame φ (fun s l => setLinePoison false l s) (fun _ _ => hl _ _ _) _ _

/-- Everything that one write does: bytes and what caches hold of them, the end of runs, the waits that it wakes, and poison. What none of
these changes stays as it was. -/
theorem storeBytes_frame {α : Type} (φ : State → α) (hn : ∀ s bs, φ (notifyWaits bs s) = φ s) (hh : ∀ s k f, φ (State.setHome s k f) = φ s)
    (hp : ∀ s bs, φ (putMemory bs s) = φ s) (hl : ∀ s x l, φ (setLinePoison x l s) = φ s) (s : State) (bs : List (Nat × Byte)) :
    φ (storeBytes s bs) = φ s := by
  unfold storeBytes
  rw [clearPoison_frame φ hl, hn, hp, endRuns_frame φ hn hh]

/-- What neither a write nor the forwarding of its copy changes, a device write does not. -/
theorem deviceWrite_frame {α : Type} (φ : State → α) (h : ∀ s bs, φ (storeBytes s bs) = φ s)
    (hf : ∀ id gid pa n pte s, φ (forward id gid pa n pte s) = φ s) (home ctx : Nat) :
    ∀ (fuel : Nat) {s t : State} {va : Nat} {bs : List Byte}, deviceWrite fuel s home ctx va bs = some t → φ t = φ s := by
  intro fuel
  induction fuel with
  | zero => intro s t va bs e; unfold deviceWrite at e; split at e <;> cases e; rfl
  | succ fuel ih =>
    intro s t va bs e
    unfold deviceWrite at e
    split at e
    · cases e; rfl
    · split at e
      · split at e
        · exact (ih e).trans ((hf _ _ _ _ _ _).trans (h _ _))
        · cases e
      · cases e

/-! ### Fields that a write, or the end of runs, leaves alone -/

@[simp] theorem closeLine_mem (s : State) (pa : Nat) : (closeLine pa s).mem = s.mem :=
  closeLine_frame (·.mem) (fun s bs => notifyWaits_mem s bs) (fun _ _ _ => rfl) pa s
@[simp] theorem closeLine_poison (s : State) (pa : Nat) : (closeLine pa s).poison = s.poison :=
  closeLine_frame (·.poison) (fun s bs => notifyWaits_poison s bs) (fun _ _ _ => rfl) pa s
@[simp] theorem closeLine_drowned (s : State) (pa : Nat) : (closeLine pa s).drowned = s.drowned :=
  closeLine_frame (·.drowned) (fun s bs => notifyWaits_drowned s bs) (fun _ _ _ => rfl) pa s
@[simp] theorem closeLine_hostMem (s : State) (pa : Nat) : (closeLine pa s).hostMem = s.hostMem :=
  closeLine_frame (·.hostMem) (fun s bs => notifyWaits_hostMem s bs) (fun _ _ _ => rfl) pa s
@[simp] theorem closeLine_packets (s : State) (pa : Nat) : (closeLine pa s).packets = s.packets :=
  closeLine_frame (·.packets) (fun s bs => notifyWaits_packets s bs) (fun _ _ _ => rfl) pa s
@[simp] theorem closeLine_parts (s : State) (pa : Nat) : (closeLine pa s).parts = s.parts :=
  closeLine_frame (·.parts) (fun s bs => notifyWaits_parts s bs) (fun _ _ _ => rfl) pa s
@[simp] theorem closeLine_cores (s : State) (pa : Nat) : (closeLine pa s).cores = s.cores :=
  closeLine_frame (·.cores) (fun s bs => notifyWaits_cores s bs) (fun _ _ _ => rfl) pa s
@[simp] theorem closeLine_leases (s : State) (pa : Nat) : (closeLine pa s).leases = s.leases :=
  closeLine_frame (·.leases) (fun s bs => notifyWaits_leases s bs) (fun _ _ _ => rfl) pa s
@[simp] theorem closeLine_launches (s : State) (pa : Nat) : (closeLine pa s).launches = s.launches :=
  closeLine_frame (·.launches) (fun s bs => notifyWaits_launches s bs) (fun _ _ _ => rfl) pa s
@[simp] theorem closeLine_pkgs (s : State) (pa : Nat) : (closeLine pa s).pkgs = s.pkgs :=
  closeLine_frame (·.pkgs) (fun s bs => notifyWaits_pkgs s bs) (fun _ _ _ => rfl) pa s
@[simp] theorem closeLine_stale (s : State) (pa : Nat) : (closeLine pa s).stale = s.stale :=
  closeLine_frame (·.stale) (fun s bs => notifyWaits_stale s bs) (fun _ _ _ => rfl) pa s
@[simp] theorem closeLine_invals (s : State) (pa : Nat) : (closeLine pa s).invals = s.invals :=
  closeLine_frame (·.invals) (fun s bs => notifyWaits_invals s bs) (fun _ _ _ => rfl) pa s
@[simp] theorem closeLine_roce (s : State) (pa : Nat) : (closeLine pa s).roce = s.roce :=
  closeLine_frame (·.roce) (fun s bs => notifyWaits_roce s bs) (fun _ _ _ => rfl) pa s
@[simp] theorem closeLine_mirrors (s : State) (pa : Nat) : (closeLine pa s).mirrors = s.mirrors :=
  closeLine_frame (·.mirrors) (fun s bs => notifyWaits_mirrors s bs) (fun _ _ _ => rfl) pa s
@[simp] theorem closeLine_degraded (s : State) (pa : Nat) : (closeLine pa s).degraded = s.degraded :=
  closeLine_frame (·.degraded) (fun s bs => notifyWaits_degraded s bs) (fun _ _ _ => rfl) pa s
@[simp] theorem closeLine_agenda (s : State) (pa : Nat) : (closeLine pa s).agenda = s.agenda :=
  closeLine_frame (·.agenda) (fun s bs => notifyWaits_agenda s bs) (fun _ _ _ => rfl) pa s
@[simp] theorem closeLine_free (s : State) (pa : Nat) : (closeLine pa s).free = s.free :=
  closeLine_frame (·.free) (fun s bs => notifyWaits_free s bs) (fun _ _ _ => rfl) pa s
@[simp] theorem closeLine_fresh (s : State) (pa : Nat) : (closeLine pa s).fresh = s.fresh :=
  closeLine_frame (·.fresh) (fun s bs => notifyWaits_fresh s bs) (fun _ _ _ => rfl) pa s
@[simp] theorem storeBytes_drowned (s : State) (bs : List (Nat × Byte)) : (storeBytes s bs).drowned = s.drowned :=
  storeBytes_frame (·.drowned) (fun s bs => notifyWaits_drowned s bs) (fun _ _ _ => rfl) (fun s bs => putMemory_drowned s bs) (fun _ _ _ => rfl) s bs
@[simp] theorem storeBytes_packets (s : State) (bs : List (Nat × Byte)) : (storeBytes s bs).packets = s.packets :=
  storeBytes_frame (·.packets) (fun s bs => notifyWaits_packets s bs) (fun _ _ _ => rfl) (fun s bs => putMemory_packets s bs) (fun _ _ _ => rfl) s bs
@[simp] theorem storeBytes_parts (s : State) (bs : List (Nat × Byte)) : (storeBytes s bs).parts = s.parts :=
  storeBytes_frame (·.parts) (fun s bs => notifyWaits_parts s bs) (fun _ _ _ => rfl) (fun s bs => putMemory_parts s bs) (fun _ _ _ => rfl) s bs
@[simp] theorem storeBytes_cores (s : State) (bs : List (Nat × Byte)) : (storeBytes s bs).cores = s.cores :=
  storeBytes_frame (·.cores) (fun s bs => notifyWaits_cores s bs) (fun _ _ _ => rfl) (fun s bs => putMemory_cores s bs) (fun _ _ _ => rfl) s bs
@[simp] theorem storeBytes_leases (s : State) (bs : List (Nat × Byte)) : (storeBytes s bs).leases = s.leases :=
  storeBytes_frame (·.leases) (fun s bs => notifyWaits_leases s bs) (fun _ _ _ => rfl) (fun s bs => putMemory_leases s bs) (fun _ _ _ => rfl) s bs
@[simp] theorem storeBytes_launches (s : State) (bs : List (Nat × Byte)) : (storeBytes s bs).launches = s.launches :=
  storeBytes_frame (·.launches) (fun s bs => notifyWaits_launches s bs) (fun _ _ _ => rfl) (fun s bs => putMemory_launches s bs) (fun _ _ _ => rfl) s bs
@[simp] theorem storeBytes_pkgs (s : State) (bs : List (Nat × Byte)) : (storeBytes s bs).pkgs = s.pkgs :=
  storeBytes_frame (·.pkgs) (fun s bs => notifyWaits_pkgs s bs) (fun _ _ _ => rfl) (fun s bs => putMemory_pkgs s bs) (fun _ _ _ => rfl) s bs
@[simp] theorem storeBytes_invals (s : State) (bs : List (Nat × Byte)) : (storeBytes s bs).invals = s.invals :=
  storeBytes_frame (·.invals) (fun s bs => notifyWaits_invals s bs) (fun _ _ _ => rfl) (fun s bs => putMemory_invals s bs) (fun _ _ _ => rfl) s bs
@[simp] theorem storeBytes_roce (s : State) (bs : List (Nat × Byte)) : (storeBytes s bs).roce = s.roce :=
  storeBytes_frame (·.roce) (fun s bs => notifyWaits_roce s bs) (fun _ _ _ => rfl) (fun s bs => putMemory_roce s bs) (fun _ _ _ => rfl) s bs
@[simp] theorem storeBytes_mirrors (s : State) (bs : List (Nat × Byte)) : (storeBytes s bs).mirrors = s.mirrors :=
  storeBytes_frame (·.mirrors) (fun s bs => notifyWaits_mirrors s bs) (fun _ _ _ => rfl) (fun s bs => putMemory_mirrors s bs) (fun _ _ _ => rfl) s bs
@[simp] theorem storeBytes_degraded (s : State) (bs : List (Nat × Byte)) : (storeBytes s bs).degraded = s.degraded :=
  storeBytes_frame (·.degraded) (fun s bs => notifyWaits_degraded s bs) (fun _ _ _ => rfl) (fun s bs => putMemory_degraded s bs) (fun _ _ _ => rfl) s bs
@[simp] theorem storeBytes_agenda (s : State) (bs : List (Nat × Byte)) : (storeBytes s bs).agenda = s.agenda :=
  storeBytes_frame (·.agenda) (fun s bs => notifyWaits_agenda s bs) (fun _ _ _ => rfl) (fun s bs => putMemory_agenda s bs) (fun _ _ _ => rfl) s bs
@[simp] theorem storeBytes_free (s : State) (bs : List (Nat × Byte)) : (storeBytes s bs).free = s.free :=
  storeBytes_frame (·.free) (fun s bs => notifyWaits_free s bs) (fun _ _ _ => rfl) (fun s bs => putMemory_free s bs) (fun _ _ _ => rfl) s bs
@[simp] theorem storeBytes_fresh (s : State) (bs : List (Nat × Byte)) : (storeBytes s bs).fresh = s.fresh :=
  storeBytes_frame (·.fresh) (fun s bs => notifyWaits_fresh s bs) (fun _ _ _ => rfl) (fun s bs => putMemory_fresh s bs) (fun _ _ _ => rfl) s bs
@[simp] theorem closeLine_g_life (s : State) (pa : Nat) : (closeLine pa s).g.life = s.g.life :=
  closeLine_frame (·.g.life) (fun s bs => by simp) (fun _ _ _ => rfl) pa s
@[simp] theorem storeBytes_g_life (s : State) (bs : List (Nat × Byte)) : (storeBytes s bs).g.life = s.g.life :=
  storeBytes_frame (·.g.life) (fun s bs => by simp) (fun _ _ _ => rfl) (fun s bs => by simp) (fun _ _ _ => rfl) s bs
@[simp] theorem closeLine_g_gid (s : State) (pa : Nat) : (closeLine pa s).g.gid = s.g.gid :=
  closeLine_frame (·.g.gid) (fun s bs => by simp) (fun _ _ _ => rfl) pa s
@[simp] theorem storeBytes_g_gid (s : State) (bs : List (Nat × Byte)) : (storeBytes s bs).g.gid = s.g.gid :=
  storeBytes_frame (·.g.gid) (fun s bs => by simp) (fun _ _ _ => rfl) (fun s bs => by simp) (fun _ _ _ => rfl) s bs
@[simp] theorem closeLine_g_w (s : State) (pa : Nat) : (closeLine pa s).g.w = s.g.w :=
  closeLine_frame (·.g.w) (fun s bs => by simp) (fun _ _ _ => rfl) pa s
@[simp] theorem storeBytes_g_w (s : State) (bs : List (Nat × Byte)) : (storeBytes s bs).g.w = s.g.w :=
  storeBytes_frame (·.g.w) (fun s bs => by simp) (fun _ _ _ => rfl) (fun s bs => by simp) (fun _ _ _ => rfl) s bs
@[simp] theorem closeLine_g_v (s : State) (pa : Nat) : (closeLine pa s).g.v = s.g.v :=
  closeLine_frame (·.g.v) (fun s bs => by simp) (fun _ _ _ => rfl) pa s
@[simp] theorem storeBytes_g_v (s : State) (bs : List (Nat × Byte)) : (storeBytes s bs).g.v = s.g.v :=
  storeBytes_frame (·.g.v) (fun s bs => by simp) (fun _ _ _ => rfl) (fun s bs => by simp) (fun _ _ _ => rfl) s bs
@[simp] theorem closeLine_g_p (s : State) (pa : Nat) : (closeLine pa s).g.p = s.g.p :=
  closeLine_frame (·.g.p) (fun s bs => by simp) (fun _ _ _ => rfl) pa s
@[simp] theorem storeBytes_g_p (s : State) (bs : List (Nat × Byte)) : (storeBytes s bs).g.p = s.g.p :=
  storeBytes_frame (·.g.p) (fun s bs => by simp) (fun _ _ _ => rfl) (fun s bs => by simp) (fun _ _ _ => rfl) s bs
@[simp] theorem closeLine_g_em (s : State) (pa : Nat) : (closeLine pa s).g.em = s.g.em :=
  closeLine_frame (·.g.em) (fun s bs => by simp) (fun _ _ _ => rfl) pa s
@[simp] theorem storeBytes_g_em (s : State) (bs : List (Nat × Byte)) : (storeBytes s bs).g.em = s.g.em :=
  storeBytes_frame (·.g.em) (fun s bs => by simp) (fun _ _ _ => rfl) (fun s bs => by simp) (fun _ _ _ => rfl) s bs
@[simp] theorem closeLine_g_bcur (s : State) (pa : Nat) : (closeLine pa s).g.bcur = s.g.bcur :=
  closeLine_frame (·.g.bcur) (fun s bs => by simp) (fun _ _ _ => rfl) pa s
@[simp] theorem storeBytes_g_bcur (s : State) (bs : List (Nat × Byte)) : (storeBytes s bs).g.bcur = s.g.bcur :=
  storeBytes_frame (·.g.bcur) (fun s bs => by simp) (fun _ _ _ => rfl) (fun s bs => by simp) (fun _ _ _ => rfl) s bs
@[simp] theorem closeLine_g_fs (s : State) (pa : Nat) : (closeLine pa s).g.fs = s.g.fs :=
  closeLine_frame (·.g.fs) (fun s bs => by simp) (fun _ _ _ => rfl) pa s
@[simp] theorem storeBytes_g_fs (s : State) (bs : List (Nat × Byte)) : (storeBytes s bs).g.fs = s.g.fs :=
  storeBytes_frame (·.g.fs) (fun s bs => by simp) (fun _ _ _ => rfl) (fun s bs => by simp) (fun _ _ _ => rfl) s bs
@[simp] theorem closeLine_g_baseHome (s : State) (pa : Nat) : (closeLine pa s).g.baseHome = s.g.baseHome :=
  closeLine_frame (·.g.baseHome) (fun s bs => by simp) (fun _ _ _ => rfl) pa s
@[simp] theorem storeBytes_g_baseHome (s : State) (bs : List (Nat × Byte)) : (storeBytes s bs).g.baseHome = s.g.baseHome :=
  storeBytes_frame (·.g.baseHome) (fun s bs => by simp) (fun _ _ _ => rfl) (fun s bs => by simp) (fun _ _ _ => rfl) s bs
@[simp] theorem closeLine_g_recIdx (s : State) (pa : Nat) : (closeLine pa s).g.recIdx = s.g.recIdx :=
  closeLine_frame (·.g.recIdx) (fun s bs => by simp) (fun _ _ _ => rfl) pa s
@[simp] theorem storeBytes_g_recIdx (s : State) (bs : List (Nat × Byte)) : (storeBytes s bs).g.recIdx = s.g.recIdx :=
  storeBytes_frame (·.g.recIdx) (fun s bs => by simp) (fun _ _ _ => rfl) (fun s bs => by simp) (fun _ _ _ => rfl) s bs
@[simp] theorem closeLine_g_grpInRec (s : State) (pa : Nat) : (closeLine pa s).g.grpInRec = s.g.grpInRec :=
  closeLine_frame (·.g.grpInRec) (fun s bs => by simp) (fun _ _ _ => rfl) pa s
@[simp] theorem storeBytes_g_grpInRec (s : State) (bs : List (Nat × Byte)) : (storeBytes s bs).g.grpInRec = s.g.grpInRec :=
  storeBytes_frame (·.g.grpInRec) (fun s bs => by simp) (fun _ _ _ => rfl) (fun s bs => by simp) (fun _ _ _ => rfl) s bs
@[simp] theorem closeLine_g_ctx (s : State) (pa : Nat) : (closeLine pa s).g.ctx = s.g.ctx :=
  closeLine_frame (·.g.ctx) (fun s bs => by simp) (fun _ _ _ => rfl) pa s
@[simp] theorem storeBytes_g_ctx (s : State) (bs : List (Nat × Byte)) : (storeBytes s bs).g.ctx = s.g.ctx :=
  storeBytes_frame (·.g.ctx) (fun s bs => by simp) (fun _ _ _ => rfl) (fun s bs => by simp) (fun _ _ _ => rfl) s bs
@[simp] theorem closeLine_g_card (s : State) (pa : Nat) : (closeLine pa s).g.card = s.g.card :=
  closeLine_frame (·.g.card) (fun s bs => by simp) (fun _ _ _ => rfl) pa s
@[simp] theorem storeBytes_g_card (s : State) (bs : List (Nat × Byte)) : (storeBytes s bs).g.card = s.g.card :=
  storeBytes_frame (·.g.card) (fun s bs => by simp) (fun _ _ _ => rfl) (fun s bs => by simp) (fun _ _ _ => rfl) s bs
@[simp] theorem closeLine_g_diag (s : State) (pa : Nat) : (closeLine pa s).g.diag = s.g.diag :=
  closeLine_frame (·.g.diag) (fun s bs => by simp) (fun _ _ _ => rfl) pa s
@[simp] theorem storeBytes_g_diag (s : State) (bs : List (Nat × Byte)) : (storeBytes s bs).g.diag = s.g.diag :=
  storeBytes_frame (·.g.diag) (fun s bs => by simp) (fun _ _ _ => rfl) (fun s bs => by simp) (fun _ _ _ => rfl) s bs
@[simp] theorem closeLine_g_prio (s : State) (pa : Nat) : (closeLine pa s).g.prio = s.g.prio :=
  closeLine_frame (·.g.prio) (fun s bs => by simp) (fun _ _ _ => rfl) pa s
@[simp] theorem storeBytes_g_prio (s : State) (bs : List (Nat × Byte)) : (storeBytes s bs).g.prio = s.g.prio :=
  storeBytes_frame (·.g.prio) (fun s bs => by simp) (fun _ _ _ => rfl) (fun s bs => by simp) (fun _ _ _ => rfl) s bs
@[simp] theorem closeLine_g_floorPrio (s : State) (pa : Nat) : (closeLine pa s).g.floorPrio = s.g.floorPrio :=
  closeLine_frame (·.g.floorPrio) (fun s bs => by simp) (fun _ _ _ => rfl) pa s
@[simp] theorem storeBytes_g_floorPrio (s : State) (bs : List (Nat × Byte)) : (storeBytes s bs).g.floorPrio = s.g.floorPrio :=
  storeBytes_frame (·.g.floorPrio) (fun s bs => by simp) (fun _ _ _ => rfl) (fun s bs => by simp) (fun _ _ _ => rfl) s bs
@[simp] theorem closeLine_g_team (s : State) (pa : Nat) : (closeLine pa s).g.team = s.g.team :=
  closeLine_frame (·.g.team) (fun s bs => by simp) (fun _ _ _ => rfl) pa s
@[simp] theorem storeBytes_g_team (s : State) (bs : List (Nat × Byte)) : (storeBytes s bs).g.team = s.g.team :=
  storeBytes_frame (·.g.team) (fun s bs => by simp) (fun _ _ _ => rfl) (fun s bs => by simp) (fun _ _ _ => rfl) s bs
@[simp] theorem closeLine_g_teamVa (s : State) (pa : Nat) : (closeLine pa s).g.teamVa = s.g.teamVa :=
  closeLine_frame (·.g.teamVa) (fun s bs => by simp) (fun _ _ _ => rfl) pa s
@[simp] theorem storeBytes_g_teamVa (s : State) (bs : List (Nat × Byte)) : (storeBytes s bs).g.teamVa = s.g.teamVa :=
  storeBytes_frame (·.g.teamVa) (fun s bs => by simp) (fun _ _ _ => rfl) (fun s bs => by simp) (fun _ _ _ => rfl) s bs
@[simp] theorem closeLine_g_teamPte (s : State) (pa : Nat) : (closeLine pa s).g.teamPte = s.g.teamPte :=
  closeLine_frame (·.g.teamPte) (fun s bs => by simp) (fun _ _ _ => rfl) pa s
@[simp] theorem storeBytes_g_teamPte (s : State) (bs : List (Nat × Byte)) : (storeBytes s bs).g.teamPte = s.g.teamPte :=
  storeBytes_frame (·.g.teamPte) (fun s bs => by simp) (fun _ _ _ => rfl) (fun s bs => by simp) (fun _ _ _ => rfl) s bs
@[simp] theorem closeLine_g_teamId (s : State) (pa : Nat) : (closeLine pa s).g.teamId = s.g.teamId :=
  closeLine_frame (·.g.teamId) (fun s bs => by simp) (fun _ _ _ => rfl) pa s
@[simp] theorem storeBytes_g_teamId (s : State) (bs : List (Nat × Byte)) : (storeBytes s bs).g.teamId = s.g.teamId :=
  storeBytes_frame (·.g.teamId) (fun s bs => by simp) (fun _ _ _ => rfl) (fun s bs => by simp) (fun _ _ _ => rfl) s bs
@[simp] theorem closeLine_g_note (s : State) (pa : Nat) : (closeLine pa s).g.note = s.g.note :=
  closeLine_frame (·.g.note) (fun s bs => by simp) (fun _ _ _ => rfl) pa s
@[simp] theorem storeBytes_g_note (s : State) (bs : List (Nat × Byte)) : (storeBytes s bs).g.note = s.g.note :=
  storeBytes_frame (·.g.note) (fun s bs => by simp) (fun _ _ _ => rfl) (fun s bs => by simp) (fun _ _ _ => rfl) s bs
@[simp] theorem closeLine_g_acks (s : State) (pa : Nat) : (closeLine pa s).g.acks = s.g.acks :=
  closeLine_frame (·.g.acks) (fun s bs => by simp) (fun _ _ _ => rfl) pa s
@[simp] theorem storeBytes_g_acks (s : State) (bs : List (Nat × Byte)) : (storeBytes s bs).g.acks = s.g.acks :=
  storeBytes_frame (·.g.acks) (fun s bs => by simp) (fun _ _ _ => rfl) (fun s bs => by simp) (fun _ _ _ => rfl) s bs
@[simp] theorem closeLine_g_slot (s : State) (pa : Nat) : (closeLine pa s).g.slot = s.g.slot :=
  closeLine_frame (·.g.slot) (fun s bs => by simp) (fun _ _ _ => rfl) pa s
@[simp] theorem storeBytes_g_slot (s : State) (bs : List (Nat × Byte)) : (storeBytes s bs).g.slot = s.g.slot :=
  storeBytes_frame (·.g.slot) (fun s bs => by simp) (fun _ _ _ => rfl) (fun s bs => by simp) (fun _ _ _ => rfl) s bs
@[simp] theorem closeLine_g_tileRows (s : State) (pa : Nat) : (closeLine pa s).g.tileRows = s.g.tileRows :=
  closeLine_frame (·.g.tileRows) (fun s bs => by simp) (fun _ _ _ => rfl) pa s
@[simp] theorem storeBytes_g_tileRows (s : State) (bs : List (Nat × Byte)) : (storeBytes s bs).g.tileRows = s.g.tileRows :=
  storeBytes_frame (·.g.tileRows) (fun s bs => by simp) (fun _ _ _ => rfl) (fun s bs => by simp) (fun _ _ _ => rfl) s bs
@[simp] theorem closeLine_g_tile (s : State) (pa : Nat) : (closeLine pa s).g.tile = s.g.tile :=
  closeLine_frame (·.g.tile) (fun s bs => by simp) (fun _ _ _ => rfl) pa s
@[simp] theorem storeBytes_g_tile (s : State) (bs : List (Nat × Byte)) : (storeBytes s bs).g.tile = s.g.tile :=
  storeBytes_frame (·.g.tile) (fun s bs => by simp) (fun _ _ _ => rfl) (fun s bs => by simp) (fun _ _ _ => rfl) s bs
@[simp] theorem closeLine_g_ovf (s : State) (pa : Nat) : (closeLine pa s).g.ovf = s.g.ovf :=
  closeLine_frame (·.g.ovf) (fun s bs => by simp) (fun _ _ _ => rfl) pa s
@[simp] theorem storeBytes_g_ovf (s : State) (bs : List (Nat × Byte)) : (storeBytes s bs).g.ovf = s.g.ovf :=
  storeBytes_frame (·.g.ovf) (fun s bs => by simp) (fun _ _ _ => rfl) (fun s bs => by simp) (fun _ _ _ => rfl) s bs
@[simp] theorem closeLine_g_ovfLate (s : State) (pa : Nat) : (closeLine pa s).g.ovfLate = s.g.ovfLate :=
  closeLine_frame (·.g.ovfLate) (fun s bs => by simp) (fun _ _ _ => rfl) pa s
@[simp] theorem storeBytes_g_ovfLate (s : State) (bs : List (Nat × Byte)) : (storeBytes s bs).g.ovfLate = s.g.ovfLate :=
  storeBytes_frame (·.g.ovfLate) (fun s bs => by simp) (fun _ _ _ => rfl) (fun s bs => by simp) (fun _ _ _ => rfl) s bs
@[simp] theorem closeLine_g_seams (s : State) (pa : Nat) : (closeLine pa s).g.seams = s.g.seams :=
  closeLine_frame (·.g.seams) (fun s bs => by simp) (fun _ _ _ => rfl) pa s
@[simp] theorem storeBytes_g_seams (s : State) (bs : List (Nat × Byte)) : (storeBytes s bs).g.seams = s.g.seams :=
  storeBytes_frame (·.g.seams) (fun s bs => by simp) (fun _ _ _ => rfl) (fun s bs => by simp) (fun _ _ _ => rfl) s bs
@[simp] theorem closeLine_g_sup (s : State) (pa : Nat) : (closeLine pa s).g.sup = s.g.sup :=
  closeLine_frame (·.g.sup) (fun s bs => by simp) (fun _ _ _ => rfl) pa s
@[simp] theorem storeBytes_g_sup (s : State) (bs : List (Nat × Byte)) : (storeBytes s bs).g.sup = s.g.sup :=
  storeBytes_frame (·.g.sup) (fun s bs => by simp) (fun _ _ _ => rfl) (fun s bs => by simp) (fun _ _ _ => rfl) s bs
@[simp] theorem closeLine_g_floor (s : State) (pa : Nat) : (closeLine pa s).g.floor = s.g.floor :=
  closeLine_frame (·.g.floor) (fun s bs => by simp) (fun _ _ _ => rfl) pa s
@[simp] theorem storeBytes_g_floor (s : State) (bs : List (Nat × Byte)) : (storeBytes s bs).g.floor = s.g.floor :=
  storeBytes_frame (·.g.floor) (fun s bs => by simp) (fun _ _ _ => rfl) (fun s bs => by simp) (fun _ _ _ => rfl) s bs
@[simp] theorem closeLine_g_handler (s : State) (pa : Nat) : (closeLine pa s).g.handler = s.g.handler :=
  closeLine_frame (·.g.handler) (fun s bs => by simp) (fun _ _ _ => rfl) pa s
@[simp] theorem storeBytes_g_handler (s : State) (bs : List (Nat × Byte)) : (storeBytes s bs).g.handler = s.g.handler :=
  storeBytes_frame (·.g.handler) (fun s bs => by simp) (fun _ _ _ => rfl) (fun s bs => by simp) (fun _ _ _ => rfl) s bs
@[simp] theorem closeLine_g_seamSv (s : State) (pa : Nat) : (closeLine pa s).g.seamSv = s.g.seamSv :=
  closeLine_frame (·.g.seamSv) (fun s bs => by simp) (fun _ _ _ => rfl) pa s
@[simp] theorem storeBytes_g_seamSv (s : State) (bs : List (Nat × Byte)) : (storeBytes s bs).g.seamSv = s.g.seamSv :=
  storeBytes_frame (·.g.seamSv) (fun s bs => by simp) (fun _ _ _ => rfl) (fun s bs => by simp) (fun _ _ _ => rfl) s bs
@[simp] theorem closeLine_g_trapvec (s : State) (pa : Nat) : (closeLine pa s).g.trapvec = s.g.trapvec :=
  closeLine_frame (·.g.trapvec) (fun s bs => by simp) (fun _ _ _ => rfl) pa s
@[simp] theorem storeBytes_g_trapvec (s : State) (bs : List (Nat × Byte)) : (storeBytes s bs).g.trapvec = s.g.trapvec :=
  storeBytes_frame (·.g.trapvec) (fun s bs => by simp) (fun _ _ _ => rfl) (fun s bs => by simp) (fun _ _ _ => rfl) s bs
@[simp] theorem closeLine_g_trapcause (s : State) (pa : Nat) : (closeLine pa s).g.trapcause = s.g.trapcause :=
  closeLine_frame (·.g.trapcause) (fun s bs => by simp) (fun _ _ _ => rfl) pa s
@[simp] theorem storeBytes_g_trapcause (s : State) (bs : List (Nat × Byte)) : (storeBytes s bs).g.trapcause = s.g.trapcause :=
  storeBytes_frame (·.g.trapcause) (fun s bs => by simp) (fun _ _ _ => rfl) (fun s bs => by simp) (fun _ _ _ => rfl) s bs
@[simp] theorem closeLine_g_trappc (s : State) (pa : Nat) : (closeLine pa s).g.trappc = s.g.trappc :=
  closeLine_frame (·.g.trappc) (fun s bs => by simp) (fun _ _ _ => rfl) pa s
@[simp] theorem storeBytes_g_trappc (s : State) (bs : List (Nat × Byte)) : (storeBytes s bs).g.trappc = s.g.trappc :=
  storeBytes_frame (·.g.trappc) (fun s bs => by simp) (fun _ _ _ => rfl) (fun s bs => by simp) (fun _ _ _ => rfl) s bs
@[simp] theorem closeLine_g_trapaddr (s : State) (pa : Nat) : (closeLine pa s).g.trapaddr = s.g.trapaddr :=
  closeLine_frame (·.g.trapaddr) (fun s bs => by simp) (fun _ _ _ => rfl) pa s
@[simp] theorem storeBytes_g_trapaddr (s : State) (bs : List (Nat × Byte)) : (storeBytes s bs).g.trapaddr = s.g.trapaddr :=
  storeBytes_frame (·.g.trapaddr) (fun s bs => by simp) (fun _ _ _ => rfl) (fun s bs => by simp) (fun _ _ _ => rfl) s bs
@[simp] theorem closeLine_g_trapmask (s : State) (pa : Nat) : (closeLine pa s).g.trapmask = s.g.trapmask :=
  closeLine_frame (·.g.trapmask) (fun s bs => by simp) (fun _ _ _ => rfl) pa s
@[simp] theorem storeBytes_g_trapmask (s : State) (bs : List (Nat × Byte)) : (storeBytes s bs).g.trapmask = s.g.trapmask :=
  storeBytes_frame (·.g.trapmask) (fun s bs => by simp) (fun _ _ _ => rfl) (fun s bs => by simp) (fun _ _ _ => rfl) s bs
@[simp] theorem closeLine_g_traphdr (s : State) (pa : Nat) : (closeLine pa s).g.traphdr = s.g.traphdr :=
  closeLine_frame (·.g.traphdr) (fun s bs => by simp) (fun _ _ _ => rfl) pa s
@[simp] theorem storeBytes_g_traphdr (s : State) (bs : List (Nat × Byte)) : (storeBytes s bs).g.traphdr = s.g.traphdr :=
  storeBytes_frame (·.g.traphdr) (fun s bs => by simp) (fun _ _ _ => rfl) (fun s bs => by simp) (fun _ _ _ => rfl) s bs
@[simp] theorem closeLine_g_ctxbase (s : State) (pa : Nat) : (closeLine pa s).g.ctxbase = s.g.ctxbase :=
  closeLine_frame (·.g.ctxbase) (fun s bs => by simp) (fun _ _ _ => rfl) pa s
@[simp] theorem storeBytes_g_ctxbase (s : State) (bs : List (Nat × Byte)) : (storeBytes s bs).g.ctxbase = s.g.ctxbase :=
  storeBytes_frame (·.g.ctxbase) (fun s bs => by simp) (fun _ _ _ => rfl) (fun s bs => by simp) (fun _ _ _ => rfl) s bs
@[simp] theorem closeLine_g_rpseq (s : State) (pa : Nat) : (closeLine pa s).g.rpseq = s.g.rpseq :=
  closeLine_frame (·.g.rpseq) (fun s bs => by simp) (fun _ _ _ => rfl) pa s
@[simp] theorem storeBytes_g_rpseq (s : State) (bs : List (Nat × Byte)) : (storeBytes s bs).g.rpseq = s.g.rpseq :=
  storeBytes_frame (·.g.rpseq) (fun s bs => by simp) (fun _ _ _ => rfl) (fun s bs => by simp) (fun _ _ _ => rfl) s bs
@[simp] theorem closeLine_g_rppc (s : State) (pa : Nat) : (closeLine pa s).g.rppc = s.g.rppc :=
  closeLine_frame (·.g.rppc) (fun s bs => by simp) (fun _ _ _ => rfl) pa s
@[simp] theorem storeBytes_g_rppc (s : State) (bs : List (Nat × Byte)) : (storeBytes s bs).g.rppc = s.g.rppc :=
  storeBytes_frame (·.g.rppc) (fun s bs => by simp) (fun _ _ _ => rfl) (fun s bs => by simp) (fun _ _ _ => rfl) s bs
@[simp] theorem closeLine_g_rpjkt (s : State) (pa : Nat) : (closeLine pa s).g.rpjkt = s.g.rpjkt :=
  closeLine_frame (·.g.rpjkt) (fun s bs => by simp) (fun _ _ _ => rfl) pa s
@[simp] theorem storeBytes_g_rpjkt (s : State) (bs : List (Nat × Byte)) : (storeBytes s bs).g.rpjkt = s.g.rpjkt :=
  storeBytes_frame (·.g.rpjkt) (fun s bs => by simp) (fun _ _ _ => rfl) (fun s bs => by simp) (fun _ _ _ => rfl) s bs
@[simp] theorem closeLine_g_teamstat (s : State) (pa : Nat) : (closeLine pa s).g.teamstat = s.g.teamstat :=
  closeLine_frame (·.g.teamstat) (fun s bs => by simp) (fun _ _ _ => rfl) pa s
@[simp] theorem storeBytes_g_teamstat (s : State) (bs : List (Nat × Byte)) : (storeBytes s bs).g.teamstat = s.g.teamstat :=
  storeBytes_frame (·.g.teamstat) (fun s bs => by simp) (fun _ _ _ => rfl) (fun s bs => by simp) (fun _ _ _ => rfl) s bs
@[simp] theorem closeLine_g_diaginj (s : State) (pa : Nat) : (closeLine pa s).g.diaginj = s.g.diaginj :=
  closeLine_frame (·.g.diaginj) (fun s bs => by simp) (fun _ _ _ => rfl) pa s
@[simp] theorem storeBytes_g_diaginj (s : State) (bs : List (Nat × Byte)) : (storeBytes s bs).g.diaginj = s.g.diaginj :=
  storeBytes_frame (·.g.diaginj) (fun s bs => by simp) (fun _ _ _ => rfl) (fun s bs => by simp) (fun _ _ _ => rfl) s bs
@[simp] theorem closeLine_g_ck (s : State) (pa : Nat) : (closeLine pa s).g.ck = s.g.ck :=
  closeLine_frame (·.g.ck) (fun s bs => by simp) (fun _ _ _ => rfl) pa s
@[simp] theorem storeBytes_g_ck (s : State) (bs : List (Nat × Byte)) : (storeBytes s bs).g.ck = s.g.ck :=
  storeBytes_frame (·.g.ck) (fun s bs => by simp) (fun _ _ _ => rfl) (fun s bs => by simp) (fun _ _ _ => rfl) s bs
@[simp] theorem closeLine_g_rcnt (s : State) (pa : Nat) : (closeLine pa s).g.rcnt = s.g.rcnt :=
  closeLine_frame (·.g.rcnt) (fun s bs => by simp) (fun _ _ _ => rfl) pa s
@[simp] theorem storeBytes_g_rcnt (s : State) (bs : List (Nat × Byte)) : (storeBytes s bs).g.rcnt = s.g.rcnt :=
  storeBytes_frame (·.g.rcnt) (fun s bs => by simp) (fun _ _ _ => rfl) (fun s bs => by simp) (fun _ _ _ => rfl) s bs
@[simp] theorem closeLine_g_path (s : State) (pa : Nat) : (closeLine pa s).g.path = s.g.path :=
  closeLine_frame (·.g.path) (fun s bs => by simp) (fun _ _ _ => rfl) pa s
@[simp] theorem storeBytes_g_path (s : State) (bs : List (Nat × Byte)) : (storeBytes s bs).g.path = s.g.path :=
  storeBytes_frame (·.g.path) (fun s bs => by simp) (fun _ _ _ => rfl) (fun s bs => by simp) (fun _ _ _ => rfl) s bs
@[simp] theorem closeLine_g_accs (s : State) (pa : Nat) : (closeLine pa s).g.accs = s.g.accs :=
  closeLine_frame (·.g.accs) (fun s bs => by simp) (fun _ _ _ => rfl) pa s
@[simp] theorem storeBytes_g_accs (s : State) (bs : List (Nat × Byte)) : (storeBytes s bs).g.accs = s.g.accs :=
  storeBytes_frame (·.g.accs) (fun s bs => by simp) (fun _ _ _ => rfl) (fun s bs => by simp) (fun _ _ _ => rfl) s bs
@[simp] theorem closeLine_g_mtx (s : State) (pa : Nat) : (closeLine pa s).g.mtx = s.g.mtx :=
  closeLine_frame (·.g.mtx) (fun s bs => by simp) (fun _ _ _ => rfl) pa s
@[simp] theorem storeBytes_g_mtx (s : State) (bs : List (Nat × Byte)) : (storeBytes s bs).g.mtx = s.g.mtx :=
  storeBytes_frame (·.g.mtx) (fun s bs => by simp) (fun _ _ _ => rfl) (fun s bs => by simp) (fun _ _ _ => rfl) s bs
@[simp] theorem closeLine_g_copies (s : State) (pa : Nat) : (closeLine pa s).g.copies = s.g.copies :=
  closeLine_frame (·.g.copies) (fun s bs => by simp) (fun _ _ _ => rfl) pa s
@[simp] theorem storeBytes_g_copies (s : State) (bs : List (Nat × Byte)) : (storeBytes s bs).g.copies = s.g.copies :=
  storeBytes_frame (·.g.copies) (fun s bs => by simp) (fun _ _ _ => rfl) (fun s bs => by simp) (fun _ _ _ => rfl) s bs
@[simp] theorem closeLine_g_copyFault (s : State) (pa : Nat) : (closeLine pa s).g.copyFault = s.g.copyFault :=
  closeLine_frame (·.g.copyFault) (fun s bs => by simp) (fun _ _ _ => rfl) pa s
@[simp] theorem storeBytes_g_copyFault (s : State) (bs : List (Nat × Byte)) : (storeBytes s bs).g.copyFault = s.g.copyFault :=
  storeBytes_frame (·.g.copyFault) (fun s bs => by simp) (fun _ _ _ => rfl) (fun s bs => by simp) (fun _ _ _ => rfl) s bs
@[simp] theorem closeLine_g_preempt (s : State) (pa : Nat) : (closeLine pa s).g.preempt = s.g.preempt :=
  closeLine_frame (·.g.preempt) (fun s bs => by simp) (fun _ _ _ => rfl) pa s
@[simp] theorem storeBytes_g_preempt (s : State) (bs : List (Nat × Byte)) : (storeBytes s bs).g.preempt = s.g.preempt :=
  storeBytes_frame (·.g.preempt) (fun s bs => by simp) (fun _ _ _ => rfl) (fun s bs => by simp) (fun _ _ _ => rfl) s bs
@[simp] theorem closeLine_g_halted (s : State) (pa : Nat) : (closeLine pa s).g.halted = s.g.halted :=
  closeLine_frame (·.g.halted) (fun s bs => by simp) (fun _ _ _ => rfl) pa s
@[simp] theorem storeBytes_g_halted (s : State) (bs : List (Nat × Byte)) : (storeBytes s bs).g.halted = s.g.halted :=
  storeBytes_frame (·.g.halted) (fun s bs => by simp) (fun _ _ _ => rfl) (fun s bs => by simp) (fun _ _ _ => rfl) s bs
@[simp] theorem closeLine_g_killed (s : State) (pa : Nat) : (closeLine pa s).g.killed = s.g.killed :=
  closeLine_frame (·.g.killed) (fun s bs => by simp) (fun _ _ _ => rfl) pa s
@[simp] theorem storeBytes_g_killed (s : State) (bs : List (Nat × Byte)) : (storeBytes s bs).g.killed = s.g.killed :=
  storeBytes_frame (·.g.killed) (fun s bs => by simp) (fun _ _ _ => rfl) (fun s bs => by simp) (fun _ _ _ => rfl) s bs
@[simp] theorem closeLine_g_rollback (s : State) (pa : Nat) : (closeLine pa s).g.rollback = s.g.rollback :=
  closeLine_frame (·.g.rollback) (fun s bs => by simp) (fun _ _ _ => rfl) pa s
@[simp] theorem storeBytes_g_rollback (s : State) (bs : List (Nat × Byte)) : (storeBytes s bs).g.rollback = s.g.rollback :=
  storeBytes_frame (·.g.rollback) (fun s bs => by simp) (fun _ _ _ => rfl) (fun s bs => by simp) (fun _ _ _ => rfl) s bs
@[simp] theorem closeLine_g_lost (s : State) (pa : Nat) : (closeLine pa s).g.lost = s.g.lost :=
  closeLine_frame (·.g.lost) (fun s bs => by simp) (fun _ _ _ => rfl) pa s
@[simp] theorem storeBytes_g_lost (s : State) (bs : List (Nat × Byte)) : (storeBytes s bs).g.lost = s.g.lost :=
  storeBytes_frame (·.g.lost) (fun s bs => by simp) (fun _ _ _ => rfl) (fun s bs => by simp) (fun _ _ _ => rfl) s bs
@[simp] theorem closeLine_g_waitTeam (s : State) (pa : Nat) : (closeLine pa s).g.waitTeam = s.g.waitTeam :=
  closeLine_frame (·.g.waitTeam) (fun s bs => by simp) (fun _ _ _ => rfl) pa s
@[simp] theorem storeBytes_g_waitTeam (s : State) (bs : List (Nat × Byte)) : (storeBytes s bs).g.waitTeam = s.g.waitTeam :=
  storeBytes_frame (·.g.waitTeam) (fun s bs => by simp) (fun _ _ _ => rfl) (fun s bs => by simp) (fun _ _ _ => rfl) s bs
@[simp] theorem closeLine_g_poisonV (s : State) (pa : Nat) : (closeLine pa s).g.poisonV = s.g.poisonV :=
  closeLine_frame (·.g.poisonV) (fun s bs => by simp) (fun _ _ _ => rfl) pa s
@[simp] theorem storeBytes_g_poisonV (s : State) (bs : List (Nat × Byte)) : (storeBytes s bs).g.poisonV = s.g.poisonV :=
  storeBytes_frame (·.g.poisonV) (fun s bs => by simp) (fun _ _ _ => rfl) (fun s bs => by simp) (fun _ _ _ => rfl) s bs
@[simp] theorem closeLine_g_poisonTile (s : State) (pa : Nat) : (closeLine pa s).g.poisonTile = s.g.poisonTile :=
  closeLine_frame (·.g.poisonTile) (fun s bs => by simp) (fun _ _ _ => rfl) pa s
@[simp] theorem storeBytes_g_poisonTile (s : State) (bs : List (Nat × Byte)) : (storeBytes s bs).g.poisonTile = s.g.poisonTile :=
  storeBytes_frame (·.g.poisonTile) (fun s bs => by simp) (fun _ _ _ => rfl) (fun s bs => by simp) (fun _ _ _ => rfl) s bs
@[simp] theorem closeLine_g_svV (s : State) (pa : Nat) : (closeLine pa s).g.svV = s.g.svV :=
  closeLine_frame (·.g.svV) (fun s bs => by simp) (fun _ _ _ => rfl) pa s
@[simp] theorem storeBytes_g_svV (s : State) (bs : List (Nat × Byte)) : (storeBytes s bs).g.svV = s.g.svV :=
  storeBytes_frame (·.g.svV) (fun s bs => by simp) (fun _ _ _ => rfl) (fun s bs => by simp) (fun _ _ _ => rfl) s bs
@[simp] theorem closeLine_g_svS (s : State) (pa : Nat) : (closeLine pa s).g.svS = s.g.svS :=
  closeLine_frame (·.g.svS) (fun s bs => by simp) (fun _ _ _ => rfl) pa s
@[simp] theorem storeBytes_g_svS (s : State) (bs : List (Nat × Byte)) : (storeBytes s bs).g.svS = s.g.svS :=
  storeBytes_frame (·.g.svS) (fun s bs => by simp) (fun _ _ _ => rfl) (fun s bs => by simp) (fun _ _ _ => rfl) s bs
@[simp] theorem closeLine_g_svP (s : State) (pa : Nat) : (closeLine pa s).g.svP = s.g.svP :=
  closeLine_frame (·.g.svP) (fun s bs => by simp) (fun _ _ _ => rfl) pa s
@[simp] theorem storeBytes_g_svP (s : State) (bs : List (Nat × Byte)) : (storeBytes s bs).g.svP = s.g.svP :=
  storeBytes_frame (·.g.svP) (fun s bs => by simp) (fun _ _ _ => rfl) (fun s bs => by simp) (fun _ _ _ => rfl) s bs
@[simp] theorem closeLine_sp_idx (s : State) (pa : Nat) : (closeLine pa s).g.sp.idx = s.g.sp.idx :=
  closeLine_frame (·.g.sp.idx) (fun s bs => by simp) (fun _ _ _ => rfl) pa s
@[simp] theorem storeBytes_sp_idx (s : State) (bs : List (Nat × Byte)) : (storeBytes s bs).g.sp.idx = s.g.sp.idx :=
  storeBytes_frame (·.g.sp.idx) (fun s bs => by simp) (fun _ _ _ => rfl) (fun s bs => by simp) (fun _ _ _ => rfl) s bs
@[simp] theorem closeLine_sp_pc (s : State) (pa : Nat) : (closeLine pa s).g.sp.pc = s.g.sp.pc :=
  closeLine_frame (·.g.sp.pc) (fun s bs => by simp) (fun _ _ _ => rfl) pa s
@[simp] theorem storeBytes_sp_pc (s : State) (bs : List (Nat × Byte)) : (storeBytes s bs).g.sp.pc = s.g.sp.pc :=
  storeBytes_frame (·.g.sp.pc) (fun s bs => by simp) (fun _ _ _ => rfl) (fun s bs => by simp) (fun _ _ _ => rfl) s bs
@[simp] theorem closeLine_sp_lanes (s : State) (pa : Nat) : (closeLine pa s).g.sp.lanes = s.g.sp.lanes :=
  closeLine_frame (·.g.sp.lanes) (fun s bs => by simp) (fun _ _ _ => rfl) pa s
@[simp] theorem storeBytes_sp_lanes (s : State) (bs : List (Nat × Byte)) : (storeBytes s bs).g.sp.lanes = s.g.sp.lanes :=
  storeBytes_frame (·.g.sp.lanes) (fun s bs => by simp) (fun _ _ _ => rfl) (fun s bs => by simp) (fun _ _ _ => rfl) s bs
@[simp] theorem closeLine_sp_status (s : State) (pa : Nat) : (closeLine pa s).g.sp.status = s.g.sp.status :=
  closeLine_frame (·.g.sp.status) (fun s bs => by simp) (fun _ _ _ => rfl) pa s
@[simp] theorem storeBytes_sp_status (s : State) (bs : List (Nat × Byte)) : (storeBytes s bs).g.sp.status = s.g.sp.status :=
  storeBytes_frame (·.g.sp.status) (fun s bs => by simp) (fun _ _ _ => rfl) (fun s bs => by simp) (fun _ _ _ => rfl) s bs
@[simp] theorem closeLine_sp_seam (s : State) (pa : Nat) : (closeLine pa s).g.sp.seam = s.g.sp.seam :=
  closeLine_frame (·.g.sp.seam) (fun s bs => by simp) (fun _ _ _ => rfl) pa s
@[simp] theorem storeBytes_sp_seam (s : State) (bs : List (Nat × Byte)) : (storeBytes s bs).g.sp.seam = s.g.sp.seam :=
  storeBytes_frame (·.g.sp.seam) (fun s bs => by simp) (fun _ _ _ => rfl) (fun s bs => by simp) (fun _ _ _ => rfl) s bs
@[simp] theorem closeLine_sp_home (s : State) (pa : Nat) : (closeLine pa s).g.sp.home = s.g.sp.home :=
  closeLine_frame (·.g.sp.home) (fun s bs => by simp) (fun _ _ _ => rfl) pa s
@[simp] theorem storeBytes_sp_home (s : State) (bs : List (Nat × Byte)) : (storeBytes s bs).g.sp.home = s.g.sp.home :=
  storeBytes_frame (·.g.sp.home) (fun s bs => by simp) (fun _ _ _ => rfl) (fun s bs => by simp) (fun _ _ _ => rfl) s bs
@[simp] theorem closeLine_sp_demoted (s : State) (pa : Nat) : (closeLine pa s).g.sp.demoted = s.g.sp.demoted :=
  closeLine_frame (·.g.sp.demoted) (fun s bs => by simp) (fun _ _ _ => rfl) pa s
@[simp] theorem storeBytes_sp_demoted (s : State) (bs : List (Nat × Byte)) : (storeBytes s bs).g.sp.demoted = s.g.sp.demoted :=
  storeBytes_frame (·.g.sp.demoted) (fun s bs => by simp) (fun _ _ _ => rfl) (fun s bs => by simp) (fun _ _ _ => rfl) s bs
@[simp] theorem closeLine_sp_part (s : State) (pa : Nat) : (closeLine pa s).g.sp.part = s.g.sp.part :=
  closeLine_frame (·.g.sp.part) (fun s bs => by simp) (fun _ _ _ => rfl) pa s
@[simp] theorem storeBytes_sp_part (s : State) (bs : List (Nat × Byte)) : (storeBytes s bs).g.sp.part = s.g.sp.part :=
  storeBytes_frame (·.g.sp.part) (fun s bs => by simp) (fun _ _ _ => rfl) (fun s bs => by simp) (fun _ _ _ => rfl) s bs
@[simp] theorem closeLine_sp_s (s : State) (pa : Nat) : (closeLine pa s).g.sp.s = s.g.sp.s :=
  closeLine_frame (·.g.sp.s) (fun s bs => by simp) (fun _ _ _ => rfl) pa s
@[simp] theorem storeBytes_sp_s (s : State) (bs : List (Nat × Byte)) : (storeBytes s bs).g.sp.s = s.g.sp.s :=
  storeBytes_frame (·.g.sp.s) (fun s bs => by simp) (fun _ _ _ => rfl) (fun s bs => by simp) (fun _ _ _ => rfl) s bs
@[simp] theorem closeLine_sp_fpstat (s : State) (pa : Nat) : (closeLine pa s).g.sp.fpstat = s.g.sp.fpstat :=
  closeLine_frame (·.g.sp.fpstat) (fun s bs => by simp) (fun _ _ _ => rfl) pa s
@[simp] theorem storeBytes_sp_fpstat (s : State) (bs : List (Nat × Byte)) : (storeBytes s bs).g.sp.fpstat = s.g.sp.fpstat :=
  storeBytes_frame (·.g.sp.fpstat) (fun s bs => by simp) (fun _ _ _ => rfl) (fun s bs => by simp) (fun _ _ _ => rfl) s bs
@[simp] theorem closeLine_sp_resgen (s : State) (pa : Nat) : (closeLine pa s).g.sp.resgen = s.g.sp.resgen :=
  closeLine_frame (·.g.sp.resgen) (fun s bs => by simp) (fun _ _ _ => rfl) pa s
@[simp] theorem storeBytes_sp_resgen (s : State) (bs : List (Nat × Byte)) : (storeBytes s bs).g.sp.resgen = s.g.sp.resgen :=
  storeBytes_frame (·.g.sp.resgen) (fun s bs => by simp) (fun _ _ _ => rfl) (fun s bs => by simp) (fun _ _ _ => rfl) s bs
@[simp] theorem closeLine_sp_clause (s : State) (pa : Nat) : (closeLine pa s).g.sp.clause = s.g.sp.clause :=
  closeLine_frame (·.g.sp.clause) (fun s bs => by simp) (fun _ _ _ => rfl) pa s
@[simp] theorem storeBytes_sp_clause (s : State) (bs : List (Nat × Byte)) : (storeBytes s bs).g.sp.clause = s.g.sp.clause :=
  storeBytes_frame (·.g.sp.clause) (fun s bs => by simp) (fun _ _ _ => rfl) (fun s bs => by simp) (fun _ _ _ => rfl) s bs
@[simp] theorem closeLine_sp_ops (s : State) (pa : Nat) : (closeLine pa s).g.sp.ops = s.g.sp.ops :=
  closeLine_frame (·.g.sp.ops) (fun s bs => by simp) (fun _ _ _ => rfl) pa s
@[simp] theorem storeBytes_sp_ops (s : State) (bs : List (Nat × Byte)) : (storeBytes s bs).g.sp.ops = s.g.sp.ops :=
  storeBytes_frame (·.g.sp.ops) (fun s bs => by simp) (fun _ _ _ => rfl) (fun s bs => by simp) (fun _ _ _ => rfl) s bs
@[simp] theorem closeLine_sp_acquire (s : State) (pa : Nat) : (closeLine pa s).g.sp.acquire = s.g.sp.acquire :=
  closeLine_frame (·.g.sp.acquire) (fun s bs => by simp) (fun _ _ _ => rfl) pa s
@[simp] theorem storeBytes_sp_acquire (s : State) (bs : List (Nat × Byte)) : (storeBytes s bs).g.sp.acquire = s.g.sp.acquire :=
  storeBytes_frame (·.g.sp.acquire) (fun s bs => by simp) (fun _ _ _ => rfl) (fun s bs => by simp) (fun _ _ _ => rfl) s bs
@[simp] theorem closeLine_sp_fence (s : State) (pa : Nat) : (closeLine pa s).g.sp.fence = s.g.sp.fence :=
  closeLine_frame (·.g.sp.fence) (fun s bs => by simp) (fun _ _ _ => rfl) pa s
@[simp] theorem storeBytes_sp_fence (s : State) (bs : List (Nat × Byte)) : (storeBytes s bs).g.sp.fence = s.g.sp.fence :=
  storeBytes_frame (·.g.sp.fence) (fun s bs => by simp) (fun _ _ _ => rfl) (fun s bs => by simp) (fun _ _ _ => rfl) s bs
@[simp] theorem closeLine_sp_await (s : State) (pa : Nat) : (closeLine pa s).g.sp.await = s.g.sp.await :=
  closeLine_frame (·.g.sp.await) (fun s bs => by simp) (fun _ _ _ => rfl) pa s
@[simp] theorem storeBytes_sp_await (s : State) (bs : List (Nat × Byte)) : (storeBytes s bs).g.sp.await = s.g.sp.await :=
  storeBytes_frame (·.g.sp.await) (fun s bs => by simp) (fun _ _ _ => rfl) (fun s bs => by simp) (fun _ _ _ => rfl) s bs
@[simp] theorem closeLine_sp_sent (s : State) (pa : Nat) : (closeLine pa s).g.sp.sent = s.g.sp.sent :=
  closeLine_frame (·.g.sp.sent) (fun s bs => by simp) (fun _ _ _ => rfl) pa s
@[simp] theorem storeBytes_sp_sent (s : State) (bs : List (Nat × Byte)) : (storeBytes s bs).g.sp.sent = s.g.sp.sent :=
  storeBytes_frame (·.g.sp.sent) (fun s bs => by simp) (fun _ _ _ => rfl) (fun s bs => by simp) (fun _ _ _ => rfl) s bs
@[simp] theorem closeLine_sp_cross (s : State) (pa : Nat) : (closeLine pa s).g.sp.cross = s.g.sp.cross :=
  closeLine_frame (·.g.sp.cross) (fun s bs => by simp) (fun _ _ _ => rfl) pa s
@[simp] theorem storeBytes_sp_cross (s : State) (bs : List (Nat × Byte)) : (storeBytes s bs).g.sp.cross = s.g.sp.cross :=
  storeBytes_frame (·.g.sp.cross) (fun s bs => by simp) (fun _ _ _ => rfl) (fun s bs => by simp) (fun _ _ _ => rfl) s bs
@[simp] theorem closeLine_sp_lastPart (s : State) (pa : Nat) : (closeLine pa s).g.sp.lastPart = s.g.sp.lastPart :=
  closeLine_frame (·.g.sp.lastPart) (fun s bs => by simp) (fun _ _ _ => rfl) pa s
@[simp] theorem storeBytes_sp_lastPart (s : State) (bs : List (Nat × Byte)) : (storeBytes s bs).g.sp.lastPart = s.g.sp.lastPart :=
  storeBytes_frame (·.g.sp.lastPart) (fun s bs => by simp) (fun _ _ _ => rfl) (fun s bs => by simp) (fun _ _ _ => rfl) s bs
@[simp] theorem closeLine_sp_jacket (s : State) (pa : Nat) : (closeLine pa s).g.sp.jacket = s.g.sp.jacket :=
  closeLine_frame (·.g.sp.jacket) (fun s bs => by simp) (fun _ _ _ => rfl) pa s
@[simp] theorem storeBytes_sp_jacket (s : State) (bs : List (Nat × Byte)) : (storeBytes s bs).g.sp.jacket = s.g.sp.jacket :=
  storeBytes_frame (·.g.sp.jacket) (fun s bs => by simp) (fun _ _ _ => rfl) (fun s bs => by simp) (fun _ _ _ => rfl) s bs
@[simp] theorem closeLine_sp_strands (s : State) (pa : Nat) : (closeLine pa s).g.sp.strands = s.g.sp.strands :=
  closeLine_frame (·.g.sp.strands) (fun s bs => by simp) (fun _ _ _ => rfl) pa s
@[simp] theorem storeBytes_sp_strands (s : State) (bs : List (Nat × Byte)) : (storeBytes s bs).g.sp.strands = s.g.sp.strands :=
  storeBytes_frame (·.g.sp.strands) (fun s bs => by simp) (fun _ _ _ => rfl) (fun s bs => by simp) (fun _ _ _ => rfl) s bs
@[simp] theorem closeLine_sp_safe (s : State) (pa : Nat) : (closeLine pa s).g.sp.safe = s.g.sp.safe :=
  closeLine_frame (·.g.sp.safe) (fun s bs => by simp) (fun _ _ _ => rfl) pa s
@[simp] theorem storeBytes_sp_safe (s : State) (bs : List (Nat × Byte)) : (storeBytes s bs).g.sp.safe = s.g.sp.safe :=
  storeBytes_frame (·.g.sp.safe) (fun s bs => by simp) (fun _ _ _ => rfl) (fun s bs => by simp) (fun _ _ _ => rfl) s bs
@[simp] theorem closeLine_sp_region (s : State) (pa : Nat) : (closeLine pa s).g.sp.region = s.g.sp.region :=
  closeLine_frame (·.g.sp.region) (fun s bs => by simp) (fun _ _ _ => rfl) pa s
@[simp] theorem storeBytes_sp_region (s : State) (bs : List (Nat × Byte)) : (storeBytes s bs).g.sp.region = s.g.sp.region :=
  storeBytes_frame (·.g.sp.region) (fun s bs => by simp) (fun _ _ _ => rfl) (fun s bs => by simp) (fun _ _ _ => rfl) s bs
@[simp] theorem closeLine_sp_wait (s : State) (pa : Nat) : (closeLine pa s).g.sp.wait = s.g.sp.wait :=
  closeLine_frame (·.g.sp.wait) (fun s bs => by simp) (fun _ _ _ => rfl) pa s
@[simp] theorem storeBytes_sp_wait (s : State) (bs : List (Nat × Byte)) : (storeBytes s bs).g.sp.wait = s.g.sp.wait :=
  storeBytes_frame (·.g.sp.wait) (fun s bs => by simp) (fun _ _ _ => rfl) (fun s bs => by simp) (fun _ _ _ => rfl) s bs
@[simp] theorem closeLine_sp_wonly (s : State) (pa : Nat) : (closeLine pa s).g.sp.wonly = s.g.sp.wonly :=
  closeLine_frame (·.g.sp.wonly) (fun s bs => by simp) (fun _ _ _ => rfl) pa s
@[simp] theorem storeBytes_sp_wonly (s : State) (bs : List (Nat × Byte)) : (storeBytes s bs).g.sp.wonly = s.g.sp.wonly :=
  storeBytes_frame (·.g.sp.wonly) (fun s bs => by simp) (fun _ _ _ => rfl) (fun s bs => by simp) (fun _ _ _ => rfl) s bs
@[simp] theorem closeLine_sp_move (s : State) (pa : Nat) : (closeLine pa s).g.sp.move = s.g.sp.move :=
  closeLine_frame (·.g.sp.move) (fun s bs => by simp) (fun _ _ _ => rfl) pa s
@[simp] theorem storeBytes_sp_move (s : State) (bs : List (Nat × Byte)) : (storeBytes s bs).g.sp.move = s.g.sp.move :=
  storeBytes_frame (·.g.sp.move) (fun s bs => by simp) (fun _ _ _ => rfl) (fun s bs => by simp) (fun _ _ _ => rfl) s bs
@[simp] theorem closeLine_sp_ls (s : State) (pa : Nat) : (closeLine pa s).g.sp.ls = s.g.sp.ls :=
  closeLine_frame (·.g.sp.ls) (fun s bs => by simp) (fun _ _ _ => rfl) pa s
@[simp] theorem storeBytes_sp_ls (s : State) (bs : List (Nat × Byte)) : (storeBytes s bs).g.sp.ls = s.g.sp.ls :=
  storeBytes_frame (·.g.sp.ls) (fun s bs => by simp) (fun _ _ _ => rfl) (fun s bs => by simp) (fun _ _ _ => rfl) s bs
@[simp] theorem closeLine_sp_keep (s : State) (pa : Nat) : (closeLine pa s).g.sp.keep = s.g.sp.keep :=
  closeLine_frame (·.g.sp.keep) (fun s bs => by simp) (fun _ _ _ => rfl) pa s
@[simp] theorem storeBytes_sp_keep (s : State) (bs : List (Nat × Byte)) : (storeBytes s bs).g.sp.keep = s.g.sp.keep :=
  storeBytes_frame (·.g.sp.keep) (fun s bs => by simp) (fun _ _ _ => rfl) (fun s bs => by simp) (fun _ _ _ => rfl) s bs
@[simp] theorem closeLine_sp_live (s : State) (pa : Nat) : (closeLine pa s).g.sp.live = s.g.sp.live :=
  closeLine_frame (·.g.sp.live) (fun s bs => by simp) (fun _ _ _ => rfl) pa s
@[simp] theorem storeBytes_sp_live (s : State) (bs : List (Nat × Byte)) : (storeBytes s bs).g.sp.live = s.g.sp.live :=
  storeBytes_frame (·.g.sp.live) (fun s bs => by simp) (fun _ _ _ => rfl) (fun s bs => by simp) (fun _ _ _ => rfl) s bs
@[simp] theorem closeLine_sp_joins (s : State) (pa : Nat) : (closeLine pa s).g.sp.joins = s.g.sp.joins :=
  closeLine_frame (·.g.sp.joins) (fun s bs => by simp) (fun _ _ _ => rfl) pa s
@[simp] theorem storeBytes_sp_joins (s : State) (bs : List (Nat × Byte)) : (storeBytes s bs).g.sp.joins = s.g.sp.joins :=
  storeBytes_frame (·.g.sp.joins) (fun s bs => by simp) (fun _ _ _ => rfl) (fun s bs => by simp) (fun _ _ _ => rfl) s bs
@[simp] theorem closeLine_sp_tail (s : State) (pa : Nat) : (closeLine pa s).g.sp.tail = s.g.sp.tail :=
  closeLine_frame (·.g.sp.tail) (fun s bs => by simp) (fun _ _ _ => rfl) pa s
@[simp] theorem storeBytes_sp_tail (s : State) (bs : List (Nat × Byte)) : (storeBytes s bs).g.sp.tail = s.g.sp.tail :=
  storeBytes_frame (·.g.sp.tail) (fun s bs => by simp) (fun _ _ _ => rfl) (fun s bs => by simp) (fun _ _ _ => rfl) s bs
@[simp] theorem closeLine_sp_watch (s : State) (pa : Nat) : (closeLine pa s).g.sp.watch = s.g.sp.watch :=
  closeLine_frame (·.g.sp.watch) (fun s bs => by simp) (fun _ _ _ => rfl) pa s
@[simp] theorem storeBytes_sp_watch (s : State) (bs : List (Nat × Byte)) : (storeBytes s bs).g.sp.watch = s.g.sp.watch :=
  storeBytes_frame (·.g.sp.watch) (fun s bs => by simp) (fun _ _ _ => rfl) (fun s bs => by simp) (fun _ _ _ => rfl) s bs
@[simp] theorem closeLine_sp_lastLoad (s : State) (pa : Nat) : (closeLine pa s).g.sp.lastLoad = s.g.sp.lastLoad :=
  closeLine_frame (·.g.sp.lastLoad) (fun s bs => by simp) (fun _ _ _ => rfl) pa s
@[simp] theorem storeBytes_sp_lastLoad (s : State) (bs : List (Nat × Byte)) : (storeBytes s bs).g.sp.lastLoad = s.g.sp.lastLoad :=
  storeBytes_frame (·.g.sp.lastLoad) (fun s bs => by simp) (fun _ _ _ => rfl) (fun s bs => by simp) (fun _ _ _ => rfl) s bs
@[simp] theorem closeLine_sp_timeout (s : State) (pa : Nat) : (closeLine pa s).g.sp.timeout = s.g.sp.timeout :=
  closeLine_frame (·.g.sp.timeout) (fun s bs => by simp) (fun _ _ _ => rfl) pa s
@[simp] theorem storeBytes_sp_timeout (s : State) (bs : List (Nat × Byte)) : (storeBytes s bs).g.sp.timeout = s.g.sp.timeout :=
  storeBytes_frame (·.g.sp.timeout) (fun s bs => by simp) (fun _ _ _ => rfl) (fun s bs => by simp) (fun _ _ _ => rfl) s bs
@[simp] theorem closeLine_sp_trap (s : State) (pa : Nat) : (closeLine pa s).g.sp.trap = s.g.sp.trap :=
  closeLine_frame (·.g.sp.trap) (fun s bs => by simp) (fun _ _ _ => rfl) pa s
@[simp] theorem storeBytes_sp_trap (s : State) (bs : List (Nat × Byte)) : (storeBytes s bs).g.sp.trap = s.g.sp.trap :=
  storeBytes_frame (·.g.sp.trap) (fun s bs => by simp) (fun _ _ _ => rfl) (fun s bs => by simp) (fun _ _ _ => rfl) s bs
@[simp] theorem closeLine_sp_restart (s : State) (pa : Nat) : (closeLine pa s).g.sp.restart = s.g.sp.restart :=
  closeLine_frame (·.g.sp.restart) (fun s bs => by simp) (fun _ _ _ => rfl) pa s
@[simp] theorem storeBytes_sp_restart (s : State) (bs : List (Nat × Byte)) : (storeBytes s bs).g.sp.restart = s.g.sp.restart :=
  storeBytes_frame (·.g.sp.restart) (fun s bs => by simp) (fun _ _ _ => rfl) (fun s bs => by simp) (fun _ _ _ => rfl) s bs
@[simp] theorem closeLine_sp_err (s : State) (pa : Nat) : (closeLine pa s).g.sp.err = s.g.sp.err :=
  closeLine_frame (·.g.sp.err) (fun s bs => by simp) (fun _ _ _ => rfl) pa s
@[simp] theorem storeBytes_sp_err (s : State) (bs : List (Nat × Byte)) : (storeBytes s bs).g.sp.err = s.g.sp.err :=
  storeBytes_frame (·.g.sp.err) (fun s bs => by simp) (fun _ _ _ => rfl) (fun s bs => by simp) (fun _ _ _ => rfl) s bs
@[simp] theorem closeLine_sp_defer (s : State) (pa : Nat) : (closeLine pa s).g.sp.defer = s.g.sp.defer :=
  closeLine_frame (·.g.sp.defer) (fun s bs => by simp) (fun _ _ _ => rfl) pa s
@[simp] theorem storeBytes_sp_defer (s : State) (bs : List (Nat × Byte)) : (storeBytes s bs).g.sp.defer = s.g.sp.defer :=
  storeBytes_frame (·.g.sp.defer) (fun s bs => by simp) (fun _ _ _ => rfl) (fun s bs => by simp) (fun _ _ _ => rfl) s bs
@[simp] theorem closeLine_sp_stopped (s : State) (pa : Nat) : (closeLine pa s).g.sp.stopped = s.g.sp.stopped :=
  closeLine_frame (·.g.sp.stopped) (fun s bs => by simp) (fun _ _ _ => rfl) pa s
@[simp] theorem storeBytes_sp_stopped (s : State) (bs : List (Nat × Byte)) : (storeBytes s bs).g.sp.stopped = s.g.sp.stopped :=
  storeBytes_frame (·.g.sp.stopped) (fun s bs => by simp) (fun _ _ _ => rfl) (fun s bs => by simp) (fun _ _ _ => rfl) s bs
@[simp] theorem closeLine_sp_crc (s : State) (pa : Nat) : (closeLine pa s).g.sp.crc = s.g.sp.crc :=
  closeLine_frame (·.g.sp.crc) (fun s bs => by simp) (fun _ _ _ => rfl) pa s
@[simp] theorem storeBytes_sp_crc (s : State) (bs : List (Nat × Byte)) : (storeBytes s bs).g.sp.crc = s.g.sp.crc :=
  storeBytes_frame (·.g.sp.crc) (fun s bs => by simp) (fun _ _ _ => rfl) (fun s bs => by simp) (fun _ _ _ => rfl) s bs
@[simp] theorem closeLine_sp_inval (s : State) (pa : Nat) : (closeLine pa s).g.sp.inval = s.g.sp.inval :=
  closeLine_frame (·.g.sp.inval) (fun s bs => by simp) (fun _ _ _ => rfl) pa s
@[simp] theorem storeBytes_sp_inval (s : State) (bs : List (Nat × Byte)) : (storeBytes s bs).g.sp.inval = s.g.sp.inval :=
  storeBytes_frame (·.g.sp.inval) (fun s bs => by simp) (fun _ _ _ => rfl) (fun s bs => by simp) (fun _ _ _ => rfl) s bs
@[simp] theorem closeLine_sp_yielded (s : State) (pa : Nat) : (closeLine pa s).g.sp.yielded = s.g.sp.yielded :=
  closeLine_frame (·.g.sp.yielded) (fun s bs => by simp) (fun _ _ _ => rfl) pa s
@[simp] theorem storeBytes_sp_yielded (s : State) (bs : List (Nat × Byte)) : (storeBytes s bs).g.sp.yielded = s.g.sp.yielded :=
  storeBytes_frame (·.g.sp.yielded) (fun s bs => by simp) (fun _ _ _ => rfl) (fun s bs => by simp) (fun _ _ _ => rfl) s bs
@[simp] theorem closeLine_sp_spin (s : State) (pa : Nat) : (closeLine pa s).g.sp.spin = s.g.sp.spin :=
  closeLine_frame (·.g.sp.spin) (fun s bs => by simp) (fun _ _ _ => rfl) pa s
@[simp] theorem storeBytes_sp_spin (s : State) (bs : List (Nat × Byte)) : (storeBytes s bs).g.sp.spin = s.g.sp.spin :=
  storeBytes_frame (·.g.sp.spin) (fun s bs => by simp) (fun _ _ _ => rfl) (fun s bs => by simp) (fun _ _ _ => rfl) s bs
@[simp] theorem closeLine_sp_trace (s : State) (pa : Nat) : (closeLine pa s).g.sp.trace = s.g.sp.trace :=
  closeLine_frame (·.g.sp.trace) (fun s bs => by simp) (fun _ _ _ => rfl) pa s
@[simp] theorem storeBytes_sp_trace (s : State) (bs : List (Nat × Byte)) : (storeBytes s bs).g.sp.trace = s.g.sp.trace :=
  storeBytes_frame (·.g.sp.trace) (fun s bs => by simp) (fun _ _ _ => rfl) (fun s bs => by simp) (fun _ _ _ => rfl) s bs
@[simp] theorem closeLine_sp_prev (s : State) (pa : Nat) : (closeLine pa s).g.sp.prev = s.g.sp.prev :=
  closeLine_frame (·.g.sp.prev) (fun s bs => by simp) (fun _ _ _ => rfl) pa s
@[simp] theorem storeBytes_sp_prev (s : State) (bs : List (Nat × Byte)) : (storeBytes s bs).g.sp.prev = s.g.sp.prev :=
  storeBytes_frame (·.g.sp.prev) (fun s bs => by simp) (fun _ _ _ => rfl) (fun s bs => by simp) (fun _ _ _ => rfl) s bs
@[simp] theorem closeLine_sp_past (s : State) (pa : Nat) : (closeLine pa s).g.sp.past = s.g.sp.past :=
  closeLine_frame (·.g.sp.past) (fun s bs => by simp) (fun _ _ _ => rfl) pa s
@[simp] theorem storeBytes_sp_past (s : State) (bs : List (Nat × Byte)) : (storeBytes s bs).g.sp.past = s.g.sp.past :=
  storeBytes_frame (·.g.sp.past) (fun s bs => by simp) (fun _ _ _ => rfl) (fun s bs => by simp) (fun _ _ _ => rfl) s bs
@[simp] theorem closeLine_sp_dirty (s : State) (pa : Nat) : (closeLine pa s).g.sp.dirty = s.g.sp.dirty :=
  closeLine_frame (·.g.sp.dirty) (fun s bs => by simp) (fun _ _ _ => rfl) pa s
@[simp] theorem storeBytes_sp_dirty (s : State) (bs : List (Nat × Byte)) : (storeBytes s bs).g.sp.dirty = s.g.sp.dirty :=
  storeBytes_frame (·.g.sp.dirty) (fun s bs => by simp) (fun _ _ _ => rfl) (fun s bs => by simp) (fun _ _ _ => rfl) s bs
@[simp] theorem closeLine_sp_poisonS (s : State) (pa : Nat) : (closeLine pa s).g.sp.poisonS = s.g.sp.poisonS :=
  closeLine_frame (·.g.sp.poisonS) (fun s bs => by simp) (fun _ _ _ => rfl) pa s
@[simp] theorem storeBytes_sp_poisonS (s : State) (bs : List (Nat × Byte)) : (storeBytes s bs).g.sp.poisonS = s.g.sp.poisonS :=
  storeBytes_frame (·.g.sp.poisonS) (fun s bs => by simp) (fun _ _ _ => rfl) (fun s bs => by simp) (fun _ _ _ => rfl) s bs
@[simp] theorem closeLine_sp_poisonP (s : State) (pa : Nat) : (closeLine pa s).g.sp.poisonP = s.g.sp.poisonP :=
  closeLine_frame (·.g.sp.poisonP) (fun s bs => by simp) (fun _ _ _ => rfl) pa s
@[simp] theorem storeBytes_sp_poisonP (s : State) (bs : List (Nat × Byte)) : (storeBytes s bs).g.sp.poisonP = s.g.sp.poisonP :=
  storeBytes_frame (·.g.sp.poisonP) (fun s bs => by simp) (fun _ _ _ => rfl) (fun s bs => by simp) (fun _ _ _ => rfl) s bs

theorem storeBytes_mem (s : State) (bs : List (Nat × Byte)) : (storeBytes s bs).mem = putBytes s.mem (deviceBytesOf s bs) := by
  have e : deviceBytesOf (endRuns bs s) bs = deviceBytesOf s bs := by
    unfold deviceBytesOf hostKey
    rw [show (endRuns bs s).pkg = s.pkg from endRuns_frame (fun s => s.pkg) (fun s bs => by unfold State.pkg; rw [notifyWaits_pkgs]) (fun _ _ _ => rfl) bs s]
  unfold storeBytes
  rw [clearPoison_frame (·.mem) (fun _ _ _ => rfl), notifyWaits_mem, putMemory_mem, e,
    endRuns_frame (·.mem) (fun s bs => notifyWaits_mem s bs) (fun _ _ _ => rfl)]
theorem storeBytes_hostMem (s : State) (bs : List (Nat × Byte)) : (storeBytes s bs).hostMem = putBytes s.hostMem (hostBytesOf s bs) := by
  have e : hostBytesOf (endRuns bs s) bs = hostBytesOf s bs := by
    unfold hostBytesOf hostKey
    rw [show (endRuns bs s).pkg = s.pkg from endRuns_frame (fun s => s.pkg) (fun s bs => by unfold State.pkg; rw [notifyWaits_pkgs]) (fun _ _ _ => rfl) bs s]
  unfold storeBytes
  rw [clearPoison_frame (·.hostMem) (fun _ _ _ => rfl), notifyWaits_hostMem, putMemory_hostMem, e,
    endRuns_frame (·.hostMem) (fun s bs => notifyWaits_hostMem s bs) (fun _ _ _ => rfl)]

/-- A write outside tier 2 is one to the device's memory. -/
theorem storeBytes_device (s : State) (bs : List (Nat × Byte)) (h : ∀ b ∈ bs, paTier b.1 ≠ 2) :
    (storeBytes s bs).mem = putBytes s.mem bs ∧ (storeBytes s bs).hostMem = s.hostMem := by
  rw [storeBytes_mem, storeBytes_hostMem, deviceBytesOf_eq s bs h, hostBytesOf_eq s bs h]; exact ⟨rfl, rfl⟩

/-- A write keeps the canonical form of both memories. -/
theorem wf_storeBytes {s : State} (bs : List (Nat × Byte)) (h : Mems.wf s.mems = true) : Mems.wf (storeBytes s bs).mems = true := by
  unfold Mems.wf State.mems at *
  rw [Bool.and_eq_true] at *
  rw [storeBytes_mem, storeBytes_hostMem]
  exact ⟨wf_putBytes _ h.1, wf_putBytes _ h.2⟩

theorem wf_storeN {s : State} (pa n x : Nat) (h : Mems.wf s.mems = true) : Mems.wf (storeN s pa n x).mems = true :=
  wf_storeBytes _ h

/-- Every address of consecutive bytes is one of the run. -/
theorem mem_bytesAt (bs : List Byte) : ∀ (pa : Nat) (b : Nat × Byte), b ∈ bytesAt pa bs → pa ≤ b.1 ∧ b.1 < pa + bs.length := by
  induction bs with
  | nil => intro pa b h; cases h
  | cons x bs ih =>
    intro pa b h
    rcases List.mem_cons.1 h with rfl | h
    · exact ⟨Nat.le_refl _, by simp⟩
    · have := ih (pa + 1) b h; simp only [List.length_cons]; omega

/-- What a byte of the device's memory reads after a number is stored outside tier 2. -/
theorem read_storeN (s : State) (pa n x a : Nat) (h : ∀ i, i < n → paTier (pa + i) ≠ 2) :
    Bytes.read (storeN s pa n x).mem a
      = if pa ≤ a ∧ a < pa + n then ((leBytes n x)[a - pa]?).getD 0 else Bytes.read s.mem a := by
  unfold storeN
  rw [(storeBytes_device s _ fun b hb => ?_).1, putBytes_bytesAt, Bytes.read_write, leBytes_length]
  have := mem_bytesAt _ _ _ hb
  rw [leBytes_length] at this
  have e : b.1 = pa + (b.1 - pa) := by omega
  rw [e]; exact h _ (by omega)

/-- A byte that a write does not name reads as before. -/
theorem read_storeBytes_other (s : State) (bs : List (Nat × Byte)) (a : Nat) (h : ∀ b ∈ bs, b.1 ≠ a) :
    Bytes.read (storeBytes s bs).mem a = Bytes.read s.mem a := by
  rw [storeBytes_mem]; exact read_putBytes_other a _ s.mem fun b hb => h b (List.mem_of_mem_filter hb)

/-- A device write whose bytes lie in one page of memory that may be written. -/
theorem deviceWrite_one_page {n : Nat} {s : State} {home ctx va pa pte z : Nat} {bs : List Byte}
    (ht : translate s home ctx va = .ok pa pte z) (h2 : paTier pa < 2) (hw : pteW pte = true)
    (hl : va % 2 ^ 16 + bs.length ≤ 2 ^ 16) (hb : bs ≠ []) :
    deviceWrite (n + 1) s home ctx va bs
      = some (forward s.fresh (some s.g.gid) pa bs.length pte (storeBytes s (bytesAt pa bs))) := by
  have e : bs.isEmpty = false := by cases bs <;> simp_all
  have d : bs.drop (2 ^ 16 - va % 2 ^ 16) = [] := List.drop_eq_nil_of_le (by omega)
  have k : bs.take (2 ^ 16 - va % 2 ^ 16) = bs := List.take_of_length_le (by omega)
  have m : min (2 ^ 16 - va % 2 ^ 16) bs.length = bs.length := by omega
  simp only [deviceWrite, e, ht, h2, hw, k, d, m, decide_true, Bool.and_self, if_true, Bool.false_eq_true, if_false]
  cases n <;> simp [deviceWrite]

end Sys2Proof.Machine
end

