-- ==== Sys2Proof/Laws/Ops.lean ====
section
/-! SUPPORT. Laws of the shared operations: what the focus, the end of an instruction and the taking of a trap can do, and that
each shared operation leaves memory alone or keeps its canonical form. -/

namespace Sys2Proof.Machine

/-! ### The focus -/

/-- The group that has the focus keeps it. -/
theorem focusGroup_self (s : State) (h : s.g.life ≠ .vacant) : focusGroup s.g.gid s = some s := by
  unfold focusGroup; rw [if_pos]; simp [h]

/-- The split that has the focus keeps it. -/
theorem focusSplit_self (g : Group) : focusSplit g.sp.idx g = some g := by unfold focusSplit; rw [if_pos]; simp

theorem focus_self (s : State) (h : s.g.life ≠ .vacant) : focus s.g.gid s.g.sp.idx s = some s := by
  unfold focus; rw [focusGroup_self s h]; simp [focusSplit_self]

/-- A change of the focused group changes nothing but which group stands apart. -/
theorem focusGroup_only {s t : State} {gid : Word} (h : focusGroup gid s = some t) :
    { t with g := s.g, others := s.others } = s := by
  unfold focusGroup at h
  split at h
  · cases h; rfl
  · simp only [Option.map_eq_some_iff] at h
    obtain ⟨r, _, rfl⟩ := h
    rfl

/-- A change of focus changes nothing but which group and split stand apart. -/
theorem focus_only {s t : State} {gid : Word} {k : Nat} (h : focus gid k s = some t) :
    { t with g := s.g, others := s.others } = s := by
  unfold focus at h
  simp only [Option.bind_eq_some_iff, Option.map_eq_some_iff] at h
  obtain ⟨u, hu, g, _, rfl⟩ := h
  have e := focusGroup_only hu
  exact e

theorem focus_mems {s t : State} {gid : Word} {k : Nat} (h : focus gid k s = some t) : t.mems = s.mems := by
  have e := congrArg State.mems (focus_only h)
  exact e

theorem focusGroup_mems {s t : State} {gid : Word} (h : focusGroup gid s = some t) : t.mems = s.mems := by
  have e := congrArg State.mems (focusGroup_only h)
  exact e

/-! ### The end of an instruction -/

/-- What the end of an instruction does to its split: the next instruction of the clause, or the next clause. -/
theorem advance_cases (sp : Split) :
    (sp.clause.pos + sp.clause.len < sp.clause.hdr.n ∧ sp.advance.pc = sp.pc
      ∧ sp.advance.clause = { sp.clause with pos := sp.clause.pos + sp.clause.len, k := sp.clause.k + 1, len := 1 })
    ∨ (sp.clause.hdr.n ≤ sp.clause.pos + sp.clause.len ∧ sp.advance.pc = nextHeader sp ∧ sp.advance.clause = {}) := by
  unfold Split.advance
  dsimp only
  split
  · rename_i h; exact .inl ⟨h, rfl, rfl⟩
  · rename_i h; exact .inr ⟨by omega, rfl, rfl⟩

/-! ### Counters -/

/-- A charged operation counts once, where there is room for it. -/
theorem counter_charge (c : Ctr) (id : Nat) (s : State) (h : hasRoom c s = true) :
    counter c (charge c id s).g.sp = counter c s.g.sp + 1 := by
  unfold hasRoom counter at h
  rw [decide_eq_true_eq] at h
  simp only [counter, charge, State.setSp, List.filter_append, List.length_append, List.filter_cons, List.filter_nil, beq_self_eq_true,
    if_true, List.length_singleton]
  omega

/-- Another counter stays as it was. -/
theorem counter_charge_other (c d : Ctr) (id : Nat) (s : State) (h : d ≠ c) : counter d (charge c id s).g.sp = counter d s.g.sp := by
  simp [counter, charge, List.filter_append, Ne.symm h]

/-! ### The counts of the levels (12 R203) -/

/-- The settling of the levels changes nothing but the partitions. -/
theorem settleLevels_only (s : State) : { settleLevels s with parts := s.parts } = s := by unfold settleLevels; split <;> rfl

@[simp] theorem settleLevels_g (s : State) : (settleLevels s).g = s.g := by unfold settleLevels; split <;> rfl
@[simp] theorem settleLevels_agenda (s : State) : (settleLevels s).agenda = s.agenda := by unfold settleLevels; split <;> rfl
@[simp] theorem settleLevels_mems (s : State) : (settleLevels s).mems = s.mems := by unfold settleLevels; split <;> rfl

/-! ### Taking a trap (21 R314, R316, R319) -/

/-- The handler starts with the trap registers written and the PC at TRAPVEC, or the trap is a double one. -/
theorem startHandler_cases (t : TrapRec) (s : State) :
    startHandler t s = doubleTrap t s
    ∨ ∃ u, startHandler t s = u ∧ u.g.sup = true ∧ u.g.handler = .running u.g.sp.idx ∧ u.g.sp.pc = u.g.trapvec
        ∧ u.g.trapcause = causeWord t false ∧ u.g.trappc = t.pc ∧ u.g.trapaddr = t.addr ∧ u.g.trapmask = t.mask
        ∧ u.g.traphdr = t.hdr ∧ u.g.sp.clause = {} ∧ u.g.seams = [] := by
  unfold startHandler
  split
  · exact .inl rfl
  · split
    · exact .inl rfl
    · exact .inr ⟨_, rfl, rfl, rfl, rfl, rfl, rfl, rfl, rfl, rfl, rfl, rfl⟩

/-- Everything that taking a trap can do. -/
theorem takeTrap_cases (t : TrapRec) (s : State) :
    (s.g.diag = true ∧ takeTrap t s = diagnosticTrap t s)
    ∨ (s.g.sup = true ∧ takeTrap t s = doubleTrap t s)
    ∨ (s.g.handler ≠ .none ∧ takeTrap t s = s.setSp fun sp => { sp with trap := some t, status := .suspended })
    ∨ (takeTrap t s = { s with g := { suspendOthers s.g with
          handler := .pending s.g.sp.idx, sp := { s.g.sp with trap := some t, status := .suspended } } })
    ∨ takeTrap t s = startHandler t { s with g := suspendOthers s.g } := by
  unfold takeTrap
  split
  · rename_i h; exact .inl ⟨h, rfl⟩
  · split
    · rename_i h; exact .inr (.inl ⟨h, rfl⟩)
    · split
      · rename_i h; exact .inr (.inr (.inl ⟨by simp [h], rfl⟩))
      · rename_i h; exact .inr (.inr (.inl ⟨by simp [h], rfl⟩))
      · dsimp only
        split
        · exact .inr (.inr (.inr (.inl rfl)))
        · exact .inr (.inr (.inr (.inr rfl)))

/-! ### Operations that leave memory alone -/

@[simp] theorem setSp_mems (s : State) (f : Split → Split) : (s.setSp f).mems = s.mems := rfl
@[simp] theorem setPkg_mems (s : State) (n : Nat) (f : Pkg → Pkg) : (s.setPkg n f).mems = s.mems := rfl
@[simp] theorem setCore_mems (s : State) (n : Nat) (f : Core → Core) : (s.setCore n f).mems = s.mems := rfl
@[simp] theorem mapGroups_mems (s : State) (f : Group → Group) : (s.mapGroups f).mems = s.mems := rfl

@[simp] theorem setPageN_mems (s : State) (p o n x : Nat) : (s.setPageN p o n x).mems = s.mems := rfl
@[simp] theorem postEvent_mems (h c k : Nat) (gid : Word) (a b : Nat) (s : State) : (postEvent h c k gid a b s).mems = s.mems := by
  unfold postEvent
  extract_lets
  split
  · rw [setPageN_mems]
  · rfl
@[simp] theorem postPacket_mems (p : Packet) (s : State) : (postPacket p s).mems = s.mems := rfl
@[simp] theorem postDecrement_mems (src pa pte x : Nat) (l : List Nat) (s : State) : (postDecrement src pa pte x l s).mems = s.mems := rfl
@[simp] theorem copyMirror_mems (id : Nat) (gid : Option Word) (pa n pte : Nat) (s : State) : (copyMirror id gid pa n pte s).mems = s.mems := by
  unfold copyMirror; split <;> rfl
@[simp] theorem releaseRecord_mems (r : Nat) (s : State) : (releaseRecord r s).mems = s.mems := by unfold releaseRecord; split <;> rfl
@[simp] theorem releaseLease_mems (r : Nat) (s : State) : (releaseLease r s).mems = s.mems := rfl
@[simp] theorem purgeLeases_mems (s : State) : (purgeLeases s).mems = s.mems := rfl
@[simp] theorem releaseBoot_mems (h : Nat) (s : State) : (releaseBoot h s).mems = s.mems := by unfold releaseBoot; split <;> rfl
@[simp] theorem releaseGroup_mems (s : State) : (releaseGroup s).mems = s.mems := by unfold releaseGroup; dsimp only; split <;> rfl
@[simp] theorem retireDiagnostic_mems (s : State) : (retireDiagnostic s).mems = s.mems := by
  unfold retireDiagnostic; split
  · rfl
  · extract_lets c s1 h w
    have h1 : s1.mems = s.mems := setCore_mems s c _
    clear_value s1
    split
    · rw [postEvent_mems, setPageN_mems, h1]
    · exact h1
@[simp] theorem setPartner_mems (h : Nat) (x : DWord) (s : State) : (setPartner h x s).mems = s.mems := by
  unfold setPartner; split <;> rfl
@[simp] theorem writeRegister_mems (h o : Nat) (x : DWord) (s : State) : (writeRegister h o x s).mems = s.mems := by
  unfold writeRegister
  repeat' split
  all_goals first | exact setPartner_mems _ _ _ | rfl
@[simp] theorem markMembers_mems (r b : Nat) (s : State) : (markMembers r b s).mems = s.mems := rfl
@[simp] theorem charge_mems (c : Ctr) (id : Nat) (s : State) : (charge c id s).mems = s.mems := rfl
@[simp] theorem finishOp_mems (gid : Word) (id : Nat) (s : State) : (finishOp gid id s).mems = s.mems := rfl
@[simp] theorem settle_mems (id : Nat) (s : State) : (settle id s).mems = s.mems := by unfold settle; split <;> rfl
@[simp] theorem setLinePoison_mems (x : Bool) (l : Nat) (s : State) : (setLinePoison x l s).mems = s.mems := rfl
@[simp] theorem poisonBoth_mems (gid : Option Word) (pa pte : Nat) (s : State) : (poisonBoth gid pa pte s).mems = s.mems := by
  unfold poisonBoth; dsimp only; split <;> rfl
@[simp] theorem poisonVa_mems (s : State) (va : Nat) : (poisonVa s va).mems = s.mems := by
  unfold poisonVa; split
  · exact poisonBoth_mems _ _ _ s
  · rfl
@[simp] theorem enqueue_mems (h l : Nat) (i : Item) (s : State) : (enqueue h l i s).mems = s.mems := rfl
@[simp] theorem requestAdmission_mems (s : State) : (requestAdmission s).mems = s.mems := by
  unfold requestAdmission; extract_lets t; split
  · rfl
  · split <;> rfl
@[simp] theorem joinSplits_mems (m : Split) (k : Nat) (js : List Split) (s : State) : (joinSplits m k js s).mems = s.mems := by
  unfold joinSplits; dsimp only; rw [requestAdmission_mems]
@[simp] theorem rejoin_mems (k : Nat) (s : State) : (rejoin k s).mems = s.mems := by
  unfold rejoin; split
  · rfl
  · dsimp only; rw [joinSplits_mems]
@[simp] theorem completeSeams_mems (s : State) : (completeSeams s).mems = s.mems :=
  foldl_frame (·.mems) (fun s k => if seamComplete s.g k then rejoin k s else s) (fun s k => by
    split
    · exact rejoin_mems k s
    · rfl) _ s
@[simp] theorem afterEnd_mems (s : State) : (afterEnd s).mems = s.mems := by
  unfold afterEnd; split
  · split <;> rw [completeSeams_mems]
  · rw [completeSeams_mems]
@[simp] theorem endSplit_mems (s : State) : (endSplit s).mems = s.mems := by
  unfold endSplit; dsimp only; split
  · rfl
  · rw [afterEnd_mems]
@[simp] theorem finishDiscarded_mems (g : Group) (s : State) : (finishDiscarded g s).mems = s.mems :=
  foldl_frame (·.mems) (fun s (c : CopyCmd) => settle c.id (finishOp g.gid c.id s))
    (fun s c => (settle_mems c.id _).trans (finishOp_mems g.gid c.id s)) _ s
@[simp] theorem discardHeld_mems (s : State) : (discardHeld s).mems = s.mems :=
  foldl_frame (·.mems) (fun t (c : CopyCmd) => settle c.id (finishOp s.g.gid c.id t))
    (fun t c => (settle_mems c.id _).trans (finishOp_mems s.g.gid c.id t)) _ _
@[simp] theorem postFailure_mems (g : Group) (h f : Nat) (s : State) : (postFailure g h f s).mems = s.mems := by
  unfold postFailure; split
  · rfl
  · split
    · split <;> rfl
    · rfl
@[simp] theorem dropLatches_mems (gid : Word) (s : State) : (dropLatches gid s).mems = s.mems := by unfold dropLatches; split <;> rfl
@[simp] theorem rollbackGroup_mems (s : State) : (rollbackGroup s).mems = s.mems := by
  unfold rollbackGroup; dsimp only; split
  · rfl
  · rw [requestAdmission_mems]

/-! ### Operations that keep the canonical form of memory -/

theorem wf_ite {p : Prop} [Decidable p] {a b : State} (ha : Mems.wf a.mems = true) (hb : Mems.wf b.mems = true) :
    Mems.wf (if p then a else b).mems = true := by split <;> assumption

section
variable {s : State} (h : Mems.wf s.mems = true)
include h

/-- Another group in the focus changes no memory. -/
theorem wf_withG (g : Group) : Mems.wf ({ s with g := g } : State).mems = true := h

theorem wf_deviceStore (pte pa n x : Nat) : Mems.wf (deviceStore pte pa n x s).mems = true := by
  unfold deviceStore; split
  · rw [copyMirror_mems]; exact wf_storeN pa n x h
  · exact wf_storeN pa n x h

theorem wf_setBarrier (pte r a b c : Nat) : Mems.wf (setBarrier pte r a b c s).mems = true := wf_deviceStore h _ _ _ _
theorem wf_setTeamStatus (pte r b : Nat) : Mems.wf (setTeamStatus pte r b s).mems = true := wf_deviceStore h _ _ _ _
theorem wf_setCardStatus (c : Card) (b : Nat) : Mems.wf (setCardStatus c b s).mems = true := wf_deviceStore h _ _ _ _
theorem wf_undelivered (pte r : Nat) : Mems.wf (undelivered pte r s).mems = true := by
  unfold undelivered; rw [postEvent_mems]; exact wf_setTeamStatus h pte r 2

theorem wf_noteDegraded (gid : Word) : Mems.wf (noteDegraded gid s).mems = true := by
  unfold noteDegraded
  split
  · exact h
  · extract_lets s1
    have h1 : Mems.wf s1.mems = true := h
    clear_value s1
    split
    · exact wf_setTeamStatus h1 _ _ _
    · exact h1

theorem wf_forward (id : Nat) (gid : Option Word) (pa n pte : Nat) : Mems.wf (forward id gid pa n pte s).mems = true := by
  unfold forward
  split
  · split
    · exact wf_noteDegraded h _
    · exact h
  · rw [copyMirror_mems]; exact h

theorem wf_postParent (ctx pte r : Nat) : Mems.wf (postParent ctx pte r s).mems = true := by
  unfold postParent
  dsimp only
  split
  · exact h
  · split
    · exact wf_undelivered h pte r
    · split
      · exact wf_undelivered h pte r
      · split
        · exact h
        · exact wf_undelivered h pte r

theorem wf_applyArrival (ctx pte r : Nat) : Mems.wf (applyArrival ctx pte r s).mems = true := by
  unfold applyArrival
  dsimp only
  split
  · exact wf_postParent (wf_setBarrier h _ _ _ _ _) _ _ _
  · exact wf_setBarrier h _ _ _ _ _

theorem wf_applyParentArrival (ctx pte pa c k : Nat) : Mems.wf (applyParentArrival ctx pte pa c k s).mems = true := by
  unfold applyParentArrival
  split
  · exact wf_applyArrival h _ _ _
  · exact wf_undelivered h _ _

theorem wf_leaveTeam : Mems.wf (leaveTeam s).mems = true := by
  unfold leaveTeam
  split
  · exact h
  · extract_lets s0 gen expected counted arrived members pte s1 s2 s3
    have h0 : Mems.wf s0.mems = true := by
      dsimp only [s0]
      split
      · exact wf_noteDegraded h _
      · exact h
    have h1 : Mems.wf s1.mems = true := wf_deviceStore h0 _ _ _ _
    clear_value s1
    have h2 : Mems.wf s2.mems = true := by
      dsimp only [s2]
      split
      · exact wf_postParent (wf_setBarrier h1 _ _ _ _ _) _ _ _
      · exact wf_setBarrier h1 _ _ _ _ _
    clear_value s2
    have h3 : Mems.wf s3.mems = true := by
      dsimp only [s3]
      split
      · rw [releaseRecord_mems, releaseLease_mems]; exact h2
      · exact h2
    clear_value s3
    exact wf_withG h3 _

theorem wf_withoutCard (c : Card) :
    Mems.wf (if c.boot then releaseBoot c.home { s with cards := s.cards.filter fun x => x.id != c.id }
      else { s with cards := s.cards.filter fun x => x.id != c.id }).mems = true := by
  split
  · rw [releaseBoot_mems]; exact h
  · exact h

theorem wf_lostCard (c : Card) :
    Mems.wf (postEvent c.home 0x0B 0 0 c.done.toNat c.slot (if c.refused then s else setCardStatus c 9 s)).mems = true := by
  rw [postEvent_mems]
  split
  · exact h
  · exact wf_setCardStatus h _ _

theorem wf_postDecrement (src pa pte x : Nat) (l : List Nat) : Mems.wf (postDecrement src pa pte x l s).mems = true := h

theorem wf_completeCard (c : Card) (l : List Nat) : Mems.wf (completeCard c l s).mems = true := by
  have h1 := wf_withoutCard h c
  have h2 := wf_lostCard h1 c
  unfold completeCard
  refine wf_ite h1 (wf_ite h2 ?_)
  split
  · exact wf_ite (wf_postDecrement h1 _ _ _ _ _) h2
  · exact h2

theorem wf_cardRetire (id : Nat) (gid : Word) : Mems.wf (cardRetire id gid s).mems = true := by
  unfold cardRetire
  split
  · exact h
  · extract_lets pend c' s1
    have h1 : Mems.wf s1.mems = true := h
    clear_value s1
    split
    · exact wf_completeCard h1 _ _
    · exact h1

theorem wf_retireGroup : Mems.wf (retireGroup s).mems = true := by
  unfold retireGroup
  extract_lets s1 s2 s3
  have h3 : Mems.wf s3.mems = true := by
    dsimp only [s3, s2, s1]
    rw [releaseGroup_mems, retireDiagnostic_mems]
    exact wf_leaveTeam h
  exact wf_cardRetire h3 _ _

theorem wf_killGroup : Mems.wf (killGroup s).mems = true := by
  unfold killGroup
  extract_lets x s0 g s1 s2 s3 s4
  have h0 : Mems.wf s0.mems = true := by dsimp only [s0]; rw [discardHeld_mems]; exact h
  clear_value s0
  have h1 : Mems.wf s1.mems = true := by
    dsimp only [s1]
    split
    · exact h0
    · rw [markMembers_mems]; exact wf_setTeamStatus h0 _ _ _
  clear_value s1 g
  have h2 : Mems.wf s2.mems = true := wf_leaveTeam h1
  clear_value s2
  have h3 : Mems.wf s3.mems = true := by
    dsimp only [s3]
    split
    · exact h2
    · rw [postFailure_mems]; exact h2
  clear_value s3
  have h4 : Mems.wf s4.mems = true := by
    dsimp only [s4]
    split
    · exact h3
    · exact wf_setCardStatus h3 _ _
  clear_value s4
  exact wf_retireGroup h4

theorem wf_diagnosticTrap (t : TrapRec) : Mems.wf (diagnosticTrap t s).mems = true := wf_retireGroup (by rw [setCore_mems]; exact h)

omit h in
/-- A device write of virtual addresses keeps the canonical form. -/
theorem wf_deviceWrite (home ctx : Nat) : ∀ (fuel : Nat) {s t : State} {va : Nat} {bs : List Byte},
    Mems.wf s.mems = true → deviceWrite fuel s home ctx va bs = some t → Mems.wf t.mems = true := by
  intro fuel
  induction fuel with
  | zero => intro s t va bs h e; unfold deviceWrite at e; split at e <;> cases e; exact h
  | succ fuel ih =>
    intro s t va bs h e
    unfold deviceWrite at e
    split at e
    · cases e; exact h
    · split at e
      · split at e
        · exact ih (wf_forward (wf_storeBytes _ h) _ _ _ _ _) e
        · cases e
      · cases e

theorem wf_doubleTrap (t : TrapRec) : Mems.wf (doubleTrap t s).mems = true := by
  unfold doubleTrap
  split
  · exact wf_diagnosticTrap h t
  · exact wf_killGroup (by rw [postEvent_mems]; exact h)

theorem wf_startHandler (t : TrapRec) : Mems.wf (startHandler t s).mems = true := by
  unfold startHandler
  split
  · exact wf_doubleTrap h t
  · split
    · exact wf_doubleTrap h t
    · rename_i s0 e
      extract_lets s1
      have h0 := wf_deviceWrite _ _ _ h e
      have h1 : Mems.wf s1.mems = true := by
        dsimp only [s1]
        rw [dropLatches_mems, foldl_frame (·.mems) (fun s o => poisonVa s (s.g.ctxbase.toNat + o)) (fun u o => poisonVa_mems u _)]
        exact h0
      clear_value s1
      exact wf_withG h1 _

theorem wf_takeTrap (t : TrapRec) : Mems.wf (takeTrap t s).mems = true := by
  obtain ⟨_, e⟩ | ⟨_, e⟩ | ⟨_, e⟩ | e | e := takeTrap_cases t s <;> rw [e]
  · exact wf_diagnosticTrap h t
  · exact wf_doubleTrap h t
  · rw [setSp_mems]; exact h
  · exact wf_withG h _
  · exact wf_startHandler (wf_withG h _) t

theorem wf_noEntryTrap : Mems.wf (noEntryTrap s).mems = true := wf_doubleTrap h _

theorem wf_rollbackTeam : Mems.wf (rollbackTeam s).mems = true := by
  unfold rollbackTeam
  extract_lets g s1 mates
  have h1 : Mems.wf s1.mems = true := by
    dsimp only [s1]
    split
    · exact h
    · exact wf_setBarrier h _ _ _ _ _
  rw [foldl_frame (·.mems) (fun s x => finishDiscarded x s) (fun u x => finishDiscarded_mems x u), mapGroups_mems]
  exact h1

theorem wf_containment (t : TrapRec) : Mems.wf (containment t s).mems = true := by
  unfold containment
  split
  · exact wf_rollbackTeam h
  · exact wf_killGroup (by rw [postEvent_mems]; exact h)

theorem wf_writeRestart {t : TrapRec} {u : State} (e : writeRestart t s = some u) : Mems.wf u.mems = true := by
  unfold writeRestart at e
  split at e
  · cases e
  · exact wf_deviceWrite _ _ _ h e

theorem wf_takeError (t : TrapRec) : Mems.wf (takeError t s).mems = true := by
  unfold takeError
  split
  · exact wf_diagnosticTrap h t
  · split
    · exact wf_doubleTrap h t
    · split
      · exact h
      · split
        · rw [setSp_mems]; exact h
        · split
          · exact wf_takeTrap h t
          · exact wf_containment h t

theorem wf_restartRegion (t : TrapRec) (r : Region) : Mems.wf (restartRegion t r s).mems = true := by
  unfold restartRegion
  split
  · exact wf_containment (by rw [setSp_mems]; exact h) t
  · rename_i e
    extract_lets g
    exact wf_withG (wf_writeRestart h e) _

theorem wf_writePa (bs : List (Nat × Byte)) : Mems.wf (writePa s bs).mems = true := by
  unfold writePa
  split
  · exact h
  · split
    · rw [foldl_frame (·.mems)]
      · exact h
      · intro u x; exact writeRegister_mems _ _ _ _
    · exact wf_storeBytes _ h

theorem wf_writePaN (pa n x : Nat) : Mems.wf (writePaN s pa n x).mems = true := wf_writePa h _

end

/-- A trap of an instruction answers a next state, and keeps the canonical form. -/
theorem trapAt_next (code acc lane : Nat) (addr : DWord) (s : State) :
    trapAt code acc lane addr s = .next (takeTrap (instrTrap code acc lane addr s) s) := rfl

end Sys2Proof.Machine
end

