-- ==== Sys2Proof/Laws/PerInstr.lean ====
section
/-! SUPPORT. For every instruction: the class in whose clauses its word stands (02 R24, Tables 2.10 to 2.17), and none for a step
of 95, which has no word. -/

namespace Sys2Proof.Laws.Engine

open Sys2Proof

/-- The class of an instruction's table. -/
def classOf : Instr → Option EngineClass
  | .snop | .smov .. | .smovi .. | .slit .. | .slith .. | .sadd .. | .saddi .. | .ssub .. | .smul .. | .smulh .. | .sand ..
  | .sandi .. | .sor .. | .sori .. | .sxor .. | .sxori .. | .sshl .. | .sshli .. | .sshr .. | .sshri .. | .ssra ..
  | .ssrai .. | .smin .. | .smax .. | .scmp .. | .spopc .. | .sclz .. | .scmov .. | .bra .. | .brp .. | .brz .. | .brnz ..
  | .call .. | .jmpr .. | .loop .. | .exit | .yield | .plog .. | .pmovToPredicate .. | .pmovToScalar .. | .emrd ..
  | .emwr .. | .emwrPredicate .. | .pcnt .. | .pfirst .. | .sread .. | .swrite .. => some .sctl
  | .vmov .. | .vadd .. | .vsub .. | .vmul .. | .vmulh .. | .vmad .. | .vand .. | .vor .. | .vxor .. | .vandn .. | .vshl ..
  | .vshr .. | .vsra .. | .vmin .. | .vmax .. | .vabs .. | .vadds .. | .vsubs .. | .vadd64 .. | .vsub64 .. | .vmulw ..
  | .vsel .. | .fadd .. | .fsub .. | .fmul .. | .ffma .. | .ffms .. | .fmin .. | .fmax .. | .dadd .. | .dsub .. | .dmul ..
  | .dfma .. | .dmin .. | .dmax .. | .hadd2 .. | .hmul2 .. | .hfma2 .. | .bfma2 .. | .dot4 .. | .dot2h .. | .vcmp ..
  | .vcmpu .. | .fcmp .. | .dcmp .. | .cvt .. | .cvtf .. | .pack .. | .unpk .. => some .valu
  | .frcp .. | .frsq .. | .fsqrt .. | .fdiv .. | .fexp2 .. | .flog2 .. | .fsinpi .. | .fcospi .. | .ftanh .. | .drcpa ..
  | .drsqa .. | .popc .. | .clz .. | .brev .. | .bfe .. | .bfi .. | .funsh .. | .bsinit .. | .bsrd .. | .bsfill ..
  | .bspeek .. | .shfl .. | .shflup .. | .shfldn .. | .shflx .. | .vote .. | .redi .. | .redf .. | .scan .. | .rdlane ..
  | .wrlane .. | .bcast .. => some .vspc
  | .ldb .. | .ldbs .. | .ldh .. | .ldhs .. | .ldw .. | .ldd .. | .ldq .. | .ldaw .. | .ldad .. | .stb .. | .sth ..
  | .stw .. | .std .. | .stq .. | .strw .. | .strd .. | .ldpw .. | .ldpd .. | .stpw .. | .stpd .. | .ldsw .. | .ldsd ..
  | .ldsq .. | .stsw .. | .stsd .. | .stsq .. | .migrate .. | .homeof .. | .fence .. => some .mem
  | .mma .. | .mmaz .. | .mmnp .. | .mctr .. | .tldv .. | .tstv .. | .tzero .. | .tepi .. | .taddst .. | .tstore .. | .mrel => some .mtx
  | .itld .. | .cpin .. | .cpga .. | .cpout .. | .cpsc .. | .cpsig .. | .sweep .. | .cpfill .. => some .copy
  | .atadd .. | .atmin .. | .atmax .. | .atminu .. | .atmaxu .. | .atand .. | .ator .. | .atxor .. | .atxch .. | .atcas ..
  | .atfadd .. | .rdadd .. | .rdmin .. | .rdmax .. | .rdand .. | .rdor .. | .rdxor .. | .rdfadd .. | .rddadd .. | .dqpush ..
  | .dqpop .. | .dqsteal .. | .tjoin .. | .tleave | .barrive | .barwait .. | .barsync .. | .genwait .. | .sigdec ..
  | .sigwait .. | .seam .. | .waitc .. | .lease .. | .unlease => some .sync
  | .trap .. | .eret | .brk | .rdsys .. | .wrsys .. | .iregion .. | .irend | .safept .. | .ckbegin .. | .ckcommit ..
  | .rpget .. | .tlbinv .. | .icinv .. | .halt | .preempt .. => some .sys
  | .clauseFetch .. | .clauseIssue .. | .issueDueLevel .. | .counterRoom .. | .safePointOverrunTrap ..
  | .translationWalkDone .. | .inPlaceAccessComplete .. | .packetAccept .. | .hotLineRunClose .. | .arrivalAcknowledge ..
  | .hierarchicalArrival .. | .orderingHoldEnd .. | .jacketDepart .. | .jacketArrive .. | .admitItem .. | .waitWake ..
  | .spinDetectorFire .. | .spinWaitTimeout .. | .brpResolve .. | .matrixOperandsConsumed .. | .matrixComplete ..
  | .copyStart .. | .copyFinish .. | .copyFaultReport .. | .waitCounterSatisfied .. | .trapEntry .. | .handlerStart ..
  | .regionRestart .. | .teamRollback .. | .preemptSave .. | .teamSave .. | .groupRetire .. | .append .. | .cardTake ..
  | .chunkDeal .. | .steal .. | .balancerMove .. | .mirrorCopyAccept .. | .dieReset .. | .flitReceive .. | .linkDown ..
  | .linkRetrained .. | .reorderWindowRoom .. | .packageLost .. | .pageMoveStart .. | .cutover .. | .redirect ..
  | .pageMoveEnd .. | .autoPageMove .. | .partnerWrite .. | .registerWrite .. | .rdmaWrite .. | .rdmaRead .. | .rdmaSend ..
  | .atomicFetchAdd .. | .atomicCompareSwap .. | .invalidRequest .. | .regq .. | .unregq .. | .preemptCommand ..
  | .resume .. | .kill .. | .replay .. | .drain .. | .update .. | .homeReturn .. | .route .. | .movlist .. | .hwin ..
  | .attest .. | .move .. | .partner .. | .tlbinvCommand .. | .icinvCommand .. | .unknownCommand .. | .homeDrained ..
  | .powerOn .. | .bootImageVerify .. | .dieIdentity .. | .calibration .. | .homeReady .. | .temperatureChange ..
  | .supplyDroop .. | .portStateChange .. | .coreResetComplete .. | .uncorrectableEccError .. | .invalidationComplete ..
  | .checkpointCrcComplete .. | .roceAcknowledgement .. | .clockIncrement .. => none

/-- The encoder gives an instruction the class of its table. -/
def Statement (i : Instr) : Prop := (encode i).map (·.1) = classOf i

theorem snop : Statement .snop := rfl
theorem smov : ∀ d a, Statement (.smov d a) := fun _ _ => rfl
theorem smovi : ∀ d imm, Statement (.smovi d imm) := fun _ _ => rfl
theorem slit : ∀ d l, Statement (.slit d l) := fun _ _ => rfl
theorem slith : ∀ d a l, Statement (.slith d a l) := fun _ _ _ => rfl
theorem sadd : ∀ d a b, Statement (.sadd d a b) := fun _ _ _ => rfl
theorem saddi : ∀ d a imm, Statement (.saddi d a imm) := fun _ _ _ => rfl
theorem ssub : ∀ d a b, Statement (.ssub d a b) := fun _ _ _ => rfl
theorem smul : ∀ d a b, Statement (.smul d a b) := fun _ _ _ => rfl
theorem smulh : ∀ sgn d a b, Statement (.smulh sgn d a b) := fun _ _ _ _ => rfl
theorem sand : ∀ d a b, Statement (.sand d a b) := fun _ _ _ => rfl
theorem sandi : ∀ d a imm, Statement (.sandi d a imm) := fun _ _ _ => rfl
theorem sor : ∀ d a b, Statement (.sor d a b) := fun _ _ _ => rfl
theorem sori : ∀ d a imm, Statement (.sori d a imm) := fun _ _ _ => rfl
theorem sxor : ∀ d a b, Statement (.sxor d a b) := fun _ _ _ => rfl
theorem sxori : ∀ d a imm, Statement (.sxori d a imm) := fun _ _ _ => rfl
theorem sshl : ∀ d a b, Statement (.sshl d a b) := fun _ _ _ => rfl
theorem sshli : ∀ d a n, Statement (.sshli d a n) := fun _ _ _ => rfl
theorem sshr : ∀ d a b, Statement (.sshr d a b) := fun _ _ _ => rfl
theorem sshri : ∀ d a n, Statement (.sshri d a n) := fun _ _ _ => rfl
theorem ssra : ∀ d a b, Statement (.ssra d a b) := fun _ _ _ => rfl
theorem ssrai : ∀ d a n, Statement (.ssrai d a n) := fun _ _ _ => rfl
theorem smin : ∀ sgn d a b, Statement (.smin sgn d a b) := fun _ _ _ _ => rfl
theorem smax : ∀ sgn d a b, Statement (.smax sgn d a b) := fun _ _ _ _ => rfl
theorem scmp : ∀ c d a b, Statement (.scmp c d a b) := fun _ _ _ _ => rfl
theorem spopc : ∀ d a, Statement (.spopc d a) := fun _ _ => rfl
theorem sclz : ∀ d a, Statement (.sclz d a) := fun _ _ => rfl
theorem scmov : ∀ z d a b, Statement (.scmov z d a b) := fun _ _ _ _ => rfl
theorem bra : ∀ p neg off, Statement (.bra p neg off) := fun _ _ _ => rfl
theorem brp : ∀ h p neg off, Statement (.brp h p neg off) := fun _ _ _ _ => rfl
theorem brz : ∀ n off, Statement (.brz n off) := fun _ _ => rfl
theorem brnz : ∀ n off, Statement (.brnz n off) := fun _ _ => rfl
theorem call : ∀ n off, Statement (.call n off) := fun _ _ => rfl
theorem jmpr : ∀ d a, Statement (.jmpr d a) := fun _ _ => rfl
theorem loop : ∀ n off, Statement (.loop n off) := fun _ _ => rfl
theorem exit : Statement .exit := rfl
theorem yield : Statement .yield := rfl
theorem plog : ∀ d a b tt, Statement (.plog d a b tt) := fun _ _ _ _ => rfl
theorem pmovToPredicate : ∀ d a, Statement (.pmovToPredicate d a) := fun _ _ => rfl
theorem pmovToScalar : ∀ d a, Statement (.pmovToScalar d a) := fun _ _ => rfl
theorem emrd : ∀ d lanes, Statement (.emrd d lanes) := fun _ _ => rfl
theorem emwr : ∀ a, Statement (.emwr a) := fun _ => rfl
theorem emwrPredicate : ∀ f a, Statement (.emwrPredicate f a) := fun _ _ => rfl
theorem pcnt : ∀ d a lanes, Statement (.pcnt d a lanes) := fun _ _ _ => rfl
theorem pfirst : ∀ d a last, Statement (.pfirst d a last) := fun _ _ _ => rfl
theorem sread : ∀ d n, Statement (.sread d n) := fun _ _ => rfl
theorem swrite : ∀ n a, Statement (.swrite n a) := fun _ _ => rfl
theorem vmov : ∀ f, Statement (.vmov f) := fun _ => rfl
theorem vadd : ∀ f, Statement (.vadd f) := fun _ => rfl
theorem vsub : ∀ f, Statement (.vsub f) := fun _ => rfl
theorem vmul : ∀ f, Statement (.vmul f) := fun _ => rfl
theorem vmulh : ∀ sgn f, Statement (.vmulh sgn f) := fun _ _ => rfl
theorem vmad : ∀ f, Statement (.vmad f) := fun _ => rfl
theorem vand : ∀ f, Statement (.vand f) := fun _ => rfl
theorem vor : ∀ f, Statement (.vor f) := fun _ => rfl
theorem vxor : ∀ f, Statement (.vxor f) := fun _ => rfl
theorem vandn : ∀ f, Statement (.vandn f) := fun _ => rfl
theorem vshl : ∀ f, Statement (.vshl f) := fun _ => rfl
theorem vshr : ∀ f, Statement (.vshr f) := fun _ => rfl
theorem vsra : ∀ f, Statement (.vsra f) := fun _ => rfl
theorem vmin : ∀ sgn f, Statement (.vmin sgn f) := fun _ _ => rfl
theorem vmax : ∀ sgn f, Statement (.vmax sgn f) := fun _ _ => rfl
theorem vabs : ∀ sat f, Statement (.vabs sat f) := fun _ _ => rfl
theorem vadds : ∀ sgn f, Statement (.vadds sgn f) := fun _ _ => rfl
theorem vsubs : ∀ sgn f, Statement (.vsubs sgn f) := fun _ _ => rfl
theorem vadd64 : ∀ f, Statement (.vadd64 f) := fun _ => rfl
theorem vsub64 : ∀ f, Statement (.vsub64 f) := fun _ => rfl
theorem vmulw : ∀ sgn f, Statement (.vmulw sgn f) := fun _ _ => rfl
theorem vsel : ∀ m f, Statement (.vsel m f) := fun _ _ => rfl
theorem fadd : ∀ rm f, Statement (.fadd rm f) := fun _ _ => rfl
theorem fsub : ∀ rm f, Statement (.fsub rm f) := fun _ _ => rfl
theorem fmul : ∀ rm f, Statement (.fmul rm f) := fun _ _ => rfl
theorem ffma : ∀ rm f, Statement (.ffma rm f) := fun _ _ => rfl
theorem ffms : ∀ rm f, Statement (.ffms rm f) := fun _ _ => rfl
theorem fmin : ∀ f, Statement (.fmin f) := fun _ => rfl
theorem fmax : ∀ f, Statement (.fmax f) := fun _ => rfl
theorem dadd : ∀ rm f, Statement (.dadd rm f) := fun _ _ => rfl
theorem dsub : ∀ rm f, Statement (.dsub rm f) := fun _ _ => rfl
theorem dmul : ∀ rm f, Statement (.dmul rm f) := fun _ _ => rfl
theorem dfma : ∀ rm f, Statement (.dfma rm f) := fun _ _ => rfl
theorem dmin : ∀ f, Statement (.dmin f) := fun _ => rfl
theorem dmax : ∀ f, Statement (.dmax f) := fun _ => rfl
theorem hadd2 : ∀ rm f, Statement (.hadd2 rm f) := fun _ _ => rfl
theorem hmul2 : ∀ rm f, Statement (.hmul2 rm f) := fun _ _ => rfl
theorem hfma2 : ∀ rm f, Statement (.hfma2 rm f) := fun _ _ => rfl
theorem bfma2 : ∀ rm f, Statement (.bfma2 rm f) := fun _ _ => rfl
theorem dot4 : ∀ sgn f, Statement (.dot4 sgn f) := fun _ _ => rfl
theorem dot2h : ∀ rm f, Statement (.dot2h rm f) := fun _ _ => rfl
theorem vcmp : ∀ c f, Statement (.vcmp c f) := fun _ _ => rfl
theorem vcmpu : ∀ c f, Statement (.vcmpu c f) := fun _ _ => rfl
theorem fcmp : ∀ c f, Statement (.fcmp c f) := fun _ _ => rfl
theorem dcmp : ∀ c f, Statement (.dcmp c f) := fun _ _ => rfl
theorem cvt : ∀ rm f dst src, Statement (.cvt rm f dst src) := fun _ _ _ _ => rfl
theorem cvtf : ∀ rm f partner fromSlot fs, Statement (.cvtf rm f partner fromSlot fs) := fun _ _ _ _ _ => rfl
theorem pack : ∀ rm f, Statement (.pack rm f) := fun _ _ => rfl
theorem unpk : ∀ f, Statement (.unpk f) := fun _ => rfl
theorem frcp : ∀ f, Statement (.frcp f) := fun _ => rfl
theorem frsq : ∀ f, Statement (.frsq f) := fun _ => rfl
theorem fsqrt : ∀ f, Statement (.fsqrt f) := fun _ => rfl
theorem fdiv : ∀ f, Statement (.fdiv f) := fun _ => rfl
theorem fexp2 : ∀ f, Statement (.fexp2 f) := fun _ => rfl
theorem flog2 : ∀ f, Statement (.flog2 f) := fun _ => rfl
theorem fsinpi : ∀ f, Statement (.fsinpi f) := fun _ => rfl
theorem fcospi : ∀ f, Statement (.fcospi f) := fun _ => rfl
theorem ftanh : ∀ f, Statement (.ftanh f) := fun _ => rfl
theorem drcpa : ∀ f, Statement (.drcpa f) := fun _ => rfl
theorem drsqa : ∀ f, Statement (.drsqa f) := fun _ => rfl
theorem popc : ∀ f, Statement (.popc f) := fun _ => rfl
theorem clz : ∀ f, Statement (.clz f) := fun _ => rfl
theorem brev : ∀ f, Statement (.brev f) := fun _ => rfl
theorem bfe : ∀ sgn f, Statement (.bfe sgn f) := fun _ _ => rfl
theorem bfi : ∀ f, Statement (.bfi f) := fun _ => rfl
theorem funsh : ∀ f, Statement (.funsh f) := fun _ => rfl
theorem bsinit : ∀ a, Statement (.bsinit a) := fun _ => rfl
theorem bsrd : ∀ f, Statement (.bsrd f) := fun _ => rfl
theorem bsfill : ∀ f, Statement (.bsfill f) := fun _ => rfl
theorem bspeek : ∀ f, Statement (.bspeek f) := fun _ => rfl
theorem shfl : ∀ f, Statement (.shfl f) := fun _ => rfl
theorem shflup : ∀ f, Statement (.shflup f) := fun _ => rfl
theorem shfldn : ∀ f, Statement (.shfldn f) := fun _ => rfl
theorem shflx : ∀ f, Statement (.shflx f) := fun _ => rfl
theorem vote : ∀ c p a, Statement (.vote c p a) := fun _ _ _ => rfl
theorem redi : ∀ f op, Statement (.redi f op) := fun _ _ => rfl
theorem redf : ∀ f op, Statement (.redf f op) := fun _ _ => rfl
theorem scan : ∀ f excl op, Statement (.scan f excl op) := fun _ _ _ => rfl
theorem rdlane : ∀ f, Statement (.rdlane f) := fun _ => rfl
theorem wrlane : ∀ f, Statement (.wrlane f) := fun _ => rfl
theorem bcast : ∀ last f, Statement (.bcast last f) := fun _ _ => rfl
theorem ldb : ∀ m, Statement (.ldb m) := fun _ => rfl
theorem ldbs : ∀ m, Statement (.ldbs m) := fun _ => rfl
theorem ldh : ∀ m, Statement (.ldh m) := fun _ => rfl
theorem ldhs : ∀ m, Statement (.ldhs m) := fun _ => rfl
theorem ldw : ∀ m, Statement (.ldw m) := fun _ => rfl
theorem ldd : ∀ m, Statement (.ldd m) := fun _ => rfl
theorem ldq : ∀ m, Statement (.ldq m) := fun _ => rfl
theorem ldaw : ∀ m scope order, Statement (.ldaw m scope order) := fun _ _ _ => rfl
theorem ldad : ∀ m scope order, Statement (.ldad m scope order) := fun _ _ _ => rfl
theorem stb : ∀ m, Statement (.stb m) := fun _ => rfl
theorem sth : ∀ m, Statement (.sth m) := fun _ => rfl
theorem stw : ∀ m, Statement (.stw m) := fun _ => rfl
theorem std : ∀ m, Statement (.std m) := fun _ => rfl
theorem stq : ∀ m, Statement (.stq m) := fun _ => rfl
theorem strw : ∀ m, Statement (.strw m) := fun _ => rfl
theorem strd : ∀ m, Statement (.strd m) := fun _ => rfl
theorem ldpw : ∀ m, Statement (.ldpw m) := fun _ => rfl
theorem ldpd : ∀ m, Statement (.ldpd m) := fun _ => rfl
theorem stpw : ∀ m, Statement (.stpw m) := fun _ => rfl
theorem stpd : ∀ m, Statement (.stpd m) := fun _ => rfl
theorem ldsw : ∀ m, Statement (.ldsw m) := fun _ => rfl
theorem ldsd : ∀ m, Statement (.ldsd m) := fun _ => rfl
theorem ldsq : ∀ m, Statement (.ldsq m) := fun _ => rfl
theorem stsw : ∀ m, Statement (.stsw m) := fun _ => rfl
theorem stsd : ∀ m, Statement (.stsd m) := fun _ => rfl
theorem stsq : ∀ m, Statement (.stsq m) := fun _ => rfl
theorem migrate : ∀ ls va sb, Statement (.migrate ls va sb) := fun _ _ _ => rfl
theorem homeof : ∀ m, Statement (.homeof m) := fun _ => rfl
theorem fence : ∀ scope order, Statement (.fence scope order) := fun _ _ => rfl
theorem mma : ∀ m, Statement (.mma m) := fun _ => rfl
theorem mmaz : ∀ m, Statement (.mmaz m) := fun _ => rfl
theorem mmnp : ∀ m, Statement (.mmnp m) := fun _ => rfl
theorem mctr : ∀ m, Statement (.mctr m) := fun _ => rfl
theorem tldv : ∀ m, Statement (.tldv m) := fun _ => rfl
theorem tstv : ∀ m, Statement (.tstv m) := fun _ => rfl
theorem tzero : ∀ m, Statement (.tzero m) := fun _ => rfl
theorem tepi : ∀ m, Statement (.tepi m) := fun _ => rfl
theorem taddst : ∀ m, Statement (.taddst m) := fun _ => rfl
theorem tstore : ∀ m, Statement (.tstore m) := fun _ => rfl
theorem mrel : Statement .mrel := rfl
theorem itld : ∀ q p evw out, Statement (.itld q p evw out) := fun _ _ _ _ => rfl
theorem cpin : ∀ rec p evw, Statement (.cpin rec p evw) := fun _ _ _ => rfl
theorem cpga : ∀ rec l p evw, Statement (.cpga rec l p evw) := fun _ _ _ _ => rfl
theorem cpout : ∀ rec p evw, Statement (.cpout rec p evw) := fun _ _ _ => rfl
theorem cpsc : ∀ rec l p evw, Statement (.cpsc rec l p evw) := fun _ _ _ _ => rfl
theorem cpsig : ∀ a x evw, Statement (.cpsig a x evw) := fun _ _ _ => rfl
theorem sweep : ∀ rec x p evw op out fs, Statement (.sweep rec x p evw op out fs) := fun _ _ _ _ _ _ _ => rfl
theorem cpfill : ∀ x p evw, Statement (.cpfill x p evw) := fun _ _ _ => rfl
theorem atadd : ∀ m, Statement (.atadd m) := fun _ => rfl
theorem atmin : ∀ m, Statement (.atmin m) := fun _ => rfl
theorem atmax : ∀ m, Statement (.atmax m) := fun _ => rfl
theorem atminu : ∀ m, Statement (.atminu m) := fun _ => rfl
theorem atmaxu : ∀ m, Statement (.atmaxu m) := fun _ => rfl
theorem atand : ∀ m, Statement (.atand m) := fun _ => rfl
theorem ator : ∀ m, Statement (.ator m) := fun _ => rfl
theorem atxor : ∀ m, Statement (.atxor m) := fun _ => rfl
theorem atxch : ∀ m, Statement (.atxch m) := fun _ => rfl
theorem atcas : ∀ m, Statement (.atcas m) := fun _ => rfl
theorem atfadd : ∀ m, Statement (.atfadd m) := fun _ => rfl
theorem rdadd : ∀ m, Statement (.rdadd m) := fun _ => rfl
theorem rdmin : ∀ m, Statement (.rdmin m) := fun _ => rfl
theorem rdmax : ∀ m, Statement (.rdmax m) := fun _ => rfl
theorem rdand : ∀ m, Statement (.rdand m) := fun _ => rfl
theorem rdor : ∀ m, Statement (.rdor m) := fun _ => rfl
theorem rdxor : ∀ m, Statement (.rdxor m) := fun _ => rfl
theorem rdfadd : ∀ m, Statement (.rdfadd m) := fun _ => rfl
theorem rddadd : ∀ m, Statement (.rddadd m) := fun _ => rfl
theorem dqpush : ∀ m, Statement (.dqpush m) := fun _ => rfl
theorem dqpop : ∀ m, Statement (.dqpop m) := fun _ => rfl
theorem dqsteal : ∀ m, Statement (.dqsteal m) := fun _ => rfl
theorem tjoin : ∀ a, Statement (.tjoin a) := fun _ => rfl
theorem tleave : Statement .tleave := rfl
theorem barrive : Statement .barrive := rfl
theorem barwait : ∀ ls, Statement (.barwait ls) := fun _ => rfl
theorem barsync : ∀ ls, Statement (.barsync ls) := fun _ => rfl
theorem genwait : ∀ ls a b, Statement (.genwait ls a b) := fun _ _ _ => rfl
theorem sigdec : ∀ a b, Statement (.sigdec a b) := fun _ _ => rfl
theorem sigwait : ∀ ls a b, Statement (.sigwait ls a b) := fun _ _ _ => rfl
theorem seam : ∀ ls mode k, Statement (.seam ls mode k) := fun _ _ _ => rfl
theorem waitc : ∀ c n, Statement (.waitc c n) := fun _ _ => rfl
theorem lease : ∀ a, Statement (.lease a) := fun _ => rfl
theorem unlease : Statement .unlease := rfl
theorem trap : ∀ n, Statement (.trap n) := fun _ => rfl
theorem eret : Statement .eret := rfl
theorem brk : Statement .brk := rfl
theorem rdsys : ∀ d n, Statement (.rdsys d n) := fun _ _ => rfl
theorem wrsys : ∀ n a, Statement (.wrsys n a) := fun _ _ => rfl
theorem iregion : ∀ ls, Statement (.iregion ls) := fun _ => rfl
theorem irend : Statement .irend := rfl
theorem safept : ∀ ls, Statement (.safept ls) := fun _ => rfl
theorem ckbegin : ∀ ls a, Statement (.ckbegin ls a) := fun _ _ => rfl
theorem ckcommit : ∀ ls a, Statement (.ckcommit ls a) := fun _ _ => rfl
theorem rpget : ∀ d a, Statement (.rpget d a) := fun _ _ => rfl
theorem tlbinv : ∀ a n, Statement (.tlbinv a n) := fun _ _ => rfl
theorem icinv : ∀ a n, Statement (.icinv a n) := fun _ _ => rfl
theorem halt : Statement .halt := rfl
theorem preempt : ∀ k a, Statement (.preempt k a) := fun _ _ => rfl
theorem clauseFetch : ∀ gid sp, Statement (.clauseFetch gid sp) := fun _ _ => rfl
theorem clauseIssue : ∀ gid sp, Statement (.clauseIssue gid sp) := fun _ _ => rfl
theorem issueDueLevel : ∀ part level, Statement (.issueDueLevel part level) := fun _ _ => rfl
theorem counterRoom : ∀ gid sp, Statement (.counterRoom gid sp) := fun _ _ => rfl
theorem safePointOverrunTrap : ∀ gid sp, Statement (.safePointOverrunTrap gid sp) := fun _ _ => rfl
theorem translationWalkDone : ∀ home ctx va, Statement (.translationWalkDone home ctx va) := fun _ _ _ => rfl
theorem inPlaceAccessComplete : ∀ gid access, Statement (.inPlaceAccessComplete gid access) := fun _ _ => rfl
theorem packetAccept : ∀ src dst, Statement (.packetAccept src dst) := fun _ _ => rfl
theorem hotLineRunClose : ∀ home pa, Statement (.hotLineRunClose home pa) := fun _ _ => rfl
theorem arrivalAcknowledge : ∀ gid, Statement (.arrivalAcknowledge gid) := fun _ => rfl
theorem hierarchicalArrival : ∀ src dst, Statement (.hierarchicalArrival src dst) := fun _ _ => rfl
theorem orderingHoldEnd : ∀ gid sp, Statement (.orderingHoldEnd gid sp) := fun _ _ => rfl
theorem jacketDepart : ∀ gid sp, Statement (.jacketDepart gid sp) := fun _ _ => rfl
theorem jacketArrive : ∀ gid sp, Statement (.jacketArrive gid sp) := fun _ _ => rfl
theorem admitItem : ∀ home, Statement (.admitItem home) := fun _ => rfl
theorem waitWake : ∀ gid sp, Statement (.waitWake gid sp) := fun _ _ => rfl
theorem spinDetectorFire : ∀ gid sp, Statement (.spinDetectorFire gid sp) := fun _ _ => rfl
theorem spinWaitTimeout : ∀ gid sp, Statement (.spinWaitTimeout gid sp) := fun _ _ => rfl
theorem brpResolve : ∀ gid, Statement (.brpResolve gid) := fun _ => rfl
theorem matrixOperandsConsumed : ∀ gid, Statement (.matrixOperandsConsumed gid) := fun _ => rfl
theorem matrixComplete : ∀ gid mismatch, Statement (.matrixComplete gid mismatch) := fun _ _ => rfl
theorem copyStart : ∀ gid, Statement (.copyStart gid) := fun _ => rfl
theorem copyFinish : ∀ gid cmd, Statement (.copyFinish gid cmd) := fun _ _ => rfl
theorem copyFaultReport : ∀ gid, Statement (.copyFaultReport gid) := fun _ => rfl
theorem waitCounterSatisfied : ∀ gid sp, Statement (.waitCounterSatisfied gid sp) := fun _ _ => rfl
theorem trapEntry : ∀ gid sp, Statement (.trapEntry gid sp) := fun _ _ => rfl
theorem handlerStart : ∀ gid, Statement (.handlerStart gid) := fun _ => rfl
theorem regionRestart : ∀ gid sp, Statement (.regionRestart gid sp) := fun _ _ => rfl
theorem teamRollback : ∀ gid, Statement (.teamRollback gid) := fun _ => rfl
theorem preemptSave : ∀ gid, Statement (.preemptSave gid) := fun _ => rfl
theorem teamSave : ∀ gid, Statement (.teamSave gid) := fun _ => rfl
theorem groupRetire : ∀ gid, Statement (.groupRetire gid) := fun _ => rfl
theorem append : ∀ core values, Statement (.append core values) := fun _ _ => rfl
theorem cardTake : ∀ home queue, Statement (.cardTake home queue) := fun _ _ => rfl
theorem chunkDeal : ∀ home, Statement (.chunkDeal home) := fun _ => rfl
theorem steal : ∀ home, Statement (.steal home) := fun _ => rfl
theorem balancerMove : ∀ card src dst count, Statement (.balancerMove card src dst count) := fun _ _ _ _ => rfl
theorem mirrorCopyAccept : ∀ home, Statement (.mirrorCopyAccept home) := fun _ => rfl
theorem dieReset : ∀ pkg die, Statement (.dieReset pkg die) := fun _ _ => rfl
theorem flitReceive : ∀ src dst ok, Statement (.flitReceive src dst ok) := fun _ _ _ => rfl
theorem linkDown : ∀ pkg port, Statement (.linkDown pkg port) := fun _ _ => rfl
theorem linkRetrained : ∀ pkg port, Statement (.linkRetrained pkg port) := fun _ _ => rfl
theorem reorderWindowRoom : ∀ src dst cls, Statement (.reorderWindowRoom src dst cls) := fun _ _ _ => rfl
theorem packageLost : ∀ pkg, Statement (.packageLost pkg) := fun _ => rfl
theorem pageMoveStart : ∀ home, Statement (.pageMoveStart home) := fun _ => rfl
theorem cutover : ∀ home, Statement (.cutover home) := fun _ => rfl
theorem redirect : ∀ src dst, Statement (.redirect src dst) := fun _ _ => rfl
theorem pageMoveEnd : ∀ home, Statement (.pageMoveEnd home) := fun _ => rfl
theorem autoPageMove : ∀ home entry, Statement (.autoPageMove home entry) := fun _ _ => rfl
theorem partnerWrite : ∀ home value, Statement (.partnerWrite home value) := fun _ _ => rfl
theorem registerWrite : ∀ home offset value, Statement (.registerWrite home offset value) := fun _ _ _ => rfl
theorem rdmaWrite : ∀ qp va bytes, Statement (.rdmaWrite qp va bytes) := fun _ _ _ => rfl
theorem rdmaRead : ∀ qp va len, Statement (.rdmaRead qp va len) := fun _ _ _ => rfl
theorem rdmaSend : ∀ qp bytes, Statement (.rdmaSend qp bytes) := fun _ _ => rfl
theorem atomicFetchAdd : ∀ qp va x, Statement (.atomicFetchAdd qp va x) := fun _ _ _ => rfl
theorem atomicCompareSwap : ∀ qp va cmp x, Statement (.atomicCompareSwap qp va cmp x) := fun _ _ _ _ => rfl
theorem invalidRequest : ∀ qp, Statement (.invalidRequest qp) := fun _ => rfl
theorem regq : ∀ c, Statement (.regq c) := fun _ => rfl
theorem unregq : ∀ c, Statement (.unregq c) := fun _ => rfl
theorem preemptCommand : ∀ c, Statement (.preemptCommand c) := fun _ => rfl
theorem resume : ∀ c, Statement (.resume c) := fun _ => rfl
theorem kill : ∀ c, Statement (.kill c) := fun _ => rfl
theorem replay : ∀ c, Statement (.replay c) := fun _ => rfl
theorem drain : ∀ c, Statement (.drain c) := fun _ => rfl
theorem update : ∀ c signatureOk calibrationOk, Statement (.update c signatureOk calibrationOk) := fun _ _ _ => rfl
theorem homeReturn : ∀ c, Statement (.homeReturn c) := fun _ => rfl
theorem route : ∀ c, Statement (.route c) := fun _ => rfl
theorem movlist : ∀ c, Statement (.movlist c) := fun _ => rfl
theorem hwin : ∀ c, Statement (.hwin c) := fun _ => rfl
theorem attest : ∀ c, Statement (.attest c) := fun _ => rfl
theorem move : ∀ c, Statement (.move c) := fun _ => rfl
theorem partner : ∀ c, Statement (.partner c) := fun _ => rfl
theorem tlbinvCommand : ∀ c, Statement (.tlbinvCommand c) := fun _ => rfl
theorem icinvCommand : ∀ c, Statement (.icinvCommand c) := fun _ => rfl
theorem unknownCommand : ∀ c, Statement (.unknownCommand c) := fun _ => rfl
theorem homeDrained : ∀ home, Statement (.homeDrained home) := fun _ => rfl
theorem powerOn : ∀ pins, Statement (.powerOn pins) := fun _ => rfl
theorem bootImageVerify : ∀ pkg die ok image, Statement (.bootImageVerify pkg die ok image) := fun _ _ _ _ => rfl
theorem dieIdentity : ∀ pkg die ok, Statement (.dieIdentity pkg die ok) := fun _ _ _ => rfl
theorem calibration : ∀ pkg die ok, Statement (.calibration pkg die ok) := fun _ _ _ => rfl
theorem homeReady : ∀ home, Statement (.homeReady home) := fun _ => rfl
theorem temperatureChange : ∀ home celsius, Statement (.temperatureChange home celsius) := fun _ _ => rfl
theorem supplyDroop : ∀ pkg die, Statement (.supplyDroop pkg die) := fun _ _ => rfl
theorem portStateChange : ∀ pkg fabric port up, Statement (.portStateChange pkg fabric port up) := fun _ _ _ _ => rfl
theorem coreResetComplete : ∀ core, Statement (.coreResetComplete core) := fun _ => rfl
theorem uncorrectableEccError : ∀ site, Statement (.uncorrectableEccError site) := fun _ => rfl
theorem invalidationComplete : ∀ req, Statement (.invalidationComplete req) := fun _ => rfl
theorem checkpointCrcComplete : ∀ gid, Statement (.checkpointCrcComplete gid) := fun _ => rfl
theorem roceAcknowledgement : ∀ home, Statement (.roceAcknowledgement home) := fun _ => rfl
theorem clockIncrement : ∀ pkg die, Statement (.clockIncrement pkg die) := fun _ _ => rfl

end Sys2Proof.Laws.Engine
end

