-- ==== Sys2Proof/Tests/Slice0.lean ====
section
/-! SUPPORT. Tests: ill-formed terms that WellFormed refuses, words of the encodings of 02 that decode to their instructions, and for
every hypothesis of the obligations a state and operands that meet it. -/

namespace Sys2Proof.Tests

open Sys2Proof Sys2Proof.Machine

set_option Elab.async false

/-! ### WellFormed refuses -/

/-- An ill-formed term for each check of R43: an illegal code that is none, two literals, a LOOP of s0, a write of a read-only
register, a condition or order that the instruction has not, equal or integer conversion types, shapes and zero fields of class
4, a compare register of an atomic that has none, a SWEEP scalar without its use, a fourth PREEMPT form, and a die or port that
no package has. -/
theorem test_ill_formed_terms_are_refused :
    ([ .loop 0 1, .swrite .clock 1, .bsinit (.illegal 0xC3)
     , .vmov { nwb := false, d := 0, a := .illegal 0 }, .vadd { nwb := false, d := 0, a := .lit 1, b := .lit 2 }
     , .vcmp .ord { p := 1, a := .v 0, b := .v 1 }, .vcmpu .uno { p := 1, a := .v 0, b := .v 1 }
     , .fcmp .eq { p := 1, a := .lit 1, b := .lit 2 }
     , .cvt .rne { nwb := false, d := 0, a := .v 0 } .fp32 .fp32, .cvt .rne { nwb := false, d := 0, a := .v 0 } .int8 .int32
     , .redi { nwb := false, d := 0, a := .v 0 } .fadd
     , .ldaw { ls := 0, vd := 0, va := 0, sb := 0 } .pkg .rel, .stw { scope := .pkg, order := .acq, vd := 0, va := 0, sb := 0 }
     , .fence .pkg .rlx, .rdadd { scope := .pkg, order := .sc, vd := 0, va := 0, sb := 0 }
     , .preempt 3 0, .sweep 0 1 0 false .relu false 0
     , .atadd { ls := 0, vd := 0, va := 0, sb := 0, scope := .grp, order := .rlx, w64 := false, vx := 0, vc := 1 }
     , .dqpop { ls := 0, vd := 0, va := 0, sb := 0, scope := .grp, order := .rlx, w64 := false, vx := 1, vc := 0 }
     , .mma { shape := 4, fs := 0, reuse := false, a := 0, desc := 0, acc := false, neg := false, trb := false, evt := false }
     , .mma { shape := 0, fs := 0, reuse := false, a := 0, desc := 0, acc := true, neg := false, trb := false, evt := false }
     , .mctr { shape := 0x17, fs := 0, reuse := false, a := 0, desc := 0, acc := false, neg := false, trb := false, evt := false }
     , .mmnp { shape := 0x19, fs := 0, reuse := false, a := 0, desc := 0, acc := false, neg := false, trb := false, evt := false }
     , .tldv { shape := 0, fs := 1, reuse := false, a := 0, desc := 0, acc := false, neg := false, trb := false, evt := false }
     , .tzero { shape := 0, fs := 0, reuse := false, a := 1, desc := 0, acc := false, neg := false, trb := false, evt := false }
     , .tepi { shape := 0, fs := 0, reuse := true, a := 0, desc := 0, acc := false, neg := false, trb := false, evt := false }
     , .tstore { shape := 0, fs := 0, reuse := false, a := 0, desc := 0, acc := false, neg := false, trb := true, evt := false }
     , .supplyDroop 0 6, .linkDown 0 15, .portStateChange 0 false 4 true ] : List Instr).all (fun i => !WellFormed i) = true := by
  decide +kernel

/-! ### Words of the encodings -/

/-- Every word decodes, in its class, to the instruction beside it. -/
def allDecode (c : EngineClass) (l : List (List Word × Instr)) : Bool := l.all fun e => decide (decode c e.1 = .ok e.2)

theorem test_decode_class0_a : allDecode .sctl
    [ ([0x00000000], .snop)
    , ([0x0638C000], .smov 35 35)
    , ([0x0A402345], .smovi 36 9029)
    , ([0x0EA00000, 0x89ABCDEF], .slit 42 0x89ABCDEF)
    , ([0x12A54000, 0x89ABCDEF], .slith 42 21 0x89ABCDEF)
    , ([0x1679E700], .sadd 39 39 39)
    , ([0x1A8A2345], .saddi 40 40 9029)
    , ([0x1E9A6900], .ssub 41 41 41)
    , ([0x22AAAA00], .smul 42 42 42)
    , ([0x26BAEB01], .smulh true 43 43 43)
    , ([0x2ACB2C00], .sand 44 44 44)
    , ([0x2EDB6345], .sandi 45 45 9029)
    , ([0x32EBAE00], .sor 46 46 46)
    , ([0x36FBE345], .sori 47 47 9029)
    , ([0x3B0C3000], .sxor 48 48 48)
    , ([0x3E186345], .sxori 33 33 9029)
    , ([0x4228A200], .sshl 34 34 34)
    , ([0x4638C023], .sshli 35 35 35)
    , ([0x4A492400], .sshr 36 36 36)
    , ([0x4E594025], .sshri 37 37 37)
    , ([0x5269A600], .ssra 38 38 38)
    , ([0x5679C027], .ssrai 39 39 39)
    , ([0x5A8A2800], .smin false 40 40 40)
    , ([0x5E9A6901], .smax true 41 41 41)
    ] = true := by decide +kernel

theorem test_decode_class0_b : allDecode .sctl
    [ ([0x62AAAA05], .scmp .ge 42 42 42)
    , ([0x66BAC000], .spopc 43 43)
    , ([0x6ACB0000], .sclz 44 44)
    , ([0x6EDB6D01], .scmov true 45 45 45)
    , ([0x80BFFFFD], .bra 5 true 1048573)
    , ([0x86BFFFFE], .brp .fall 5 true 1048574)
    , ([0x8B0FFFFF], .brz 48 1048575)
    , ([0x8E1FFFF0], .brnz 33 1048560)
    , ([0x922FFFF1], .call 34 1048561)
    , ([0x9638C000], .jmpr 35 35)
    , ([0x9A4FFFF3], .loop 36 1048563)
    , ([0x9C000000], .exit)
    , ([0xA0000000], .yield)
    , ([0xC0514509], .plog 5 5 5 9)
    , ([0xC45A0000], .pmovToPredicate 5 40)
    , ([0xC6914001], .pmovToScalar 41 5)
    , ([0xCAA00001], .emrd 42 true)
    , ([0xCC0AC000], .emwr 43)
    , ([0xCC014002], .emwrPredicate .and 5)
    , ([0xD2D14001], .pcnt 45 5 true)
    , ([0xD6E14001], .pfirst 46 5 true)
    , ([0xE2F00009], .sread 47 .fpstat)
    , ([0xE40C0009], .swrite .fpstat 48)
    ] = true := by decide +kernel

theorem test_decode_class1_a : allDecode .valu
    [ ([0x00510700], .vmov { nwb := false, d := 81, a := .v 7 })
    , ([0x04D285E0], .vadd { nwb := true, d := 82, a := .s 5, b := .laneid })
    , ([0x0853C27F], .vsub { nwb := false, d := 83, a := .latch 2, b := .v 127 })
    , ([0x0CD4D9BF], .vmul { nwb := true, d := 84, a := .const 9, b := .s 63 })
    , ([0x1155E013], .vmulh true { nwb := false, d := 85, a := .laneid, b := .v 19 })
    , ([0x14D67F07], .vmad { nwb := true, d := 86, a := .v 127, b := .v 7 })
    , ([0x1857BF85], .vand { nwb := false, d := 87, a := .s 63, b := .s 5 })
    , ([0x1CD813C2], .vor { nwb := true, d := 88, a := .v 19, b := .latch 2 })
    , ([0x205907D9], .vxor { nwb := false, d := 89, a := .v 7, b := .const 9 })
    , ([0x24DA85E0], .vandn { nwb := true, d := 90, a := .s 5, b := .laneid })
    , ([0x285BC27F], .vshl { nwb := false, d := 91, a := .latch 2, b := .v 127 })
    , ([0x2CDCD9BF], .vshr { nwb := true, d := 92, a := .const 9, b := .s 63 })
    , ([0x305DE013], .vsra { nwb := false, d := 93, a := .laneid, b := .v 19 })
    , ([0x34DE7F07], .vmin false { nwb := true, d := 94, a := .v 127, b := .v 7 })
    , ([0x395FBF85], .vmax true { nwb := false, d := 95, a := .s 63, b := .s 5 })
    , ([0x3CE01300], .vabs false { nwb := true, d := 96, a := .v 19 })
    , ([0x414107D9], .vadds true { nwb := false, d := 65, a := .v 7, b := .const 9 })
    , ([0x44C285E0], .vsubs false { nwb := true, d := 66, a := .s 5, b := .laneid })
    , ([0x4843C27F], .vadd64 { nwb := false, d := 67, a := .latch 2, b := .v 127 })
    , ([0x4CC4D9BF], .vsub64 { nwb := true, d := 68, a := .const 9, b := .s 63 })
    , ([0x5145E013], .vmulw true { nwb := false, d := 69, a := .laneid, b := .v 19 })
    , ([0x56C67F07], .vsel 2 { nwb := true, d := 70, a := .v 127, b := .v 7 })
    , ([0x6247BF85], .fadd .rup { nwb := false, d := 71, a := .s 63, b := .s 5 })
    , ([0x66C813C2], .fsub .rup { nwb := true, d := 72, a := .v 19, b := .latch 2 })
    , ([0x6A4907D9], .fmul .rup { nwb := false, d := 73, a := .v 7, b := .const 9 })
    ] = true := by decide +kernel

theorem test_decode_class1_b : allDecode .valu
    [ ([0x6ECA85E0], .ffma .rup { nwb := true, d := 74, a := .s 5, b := .laneid })
    , ([0x724BC27F], .ffms .rup { nwb := false, d := 75, a := .latch 2, b := .v 127 })
    , ([0x74CCD9BF], .fmin { nwb := true, d := 76, a := .const 9, b := .s 63 })
    , ([0x784DE013], .fmax { nwb := false, d := 77, a := .laneid, b := .v 19 })
    , ([0x82CE7F07], .dadd .rup { nwb := true, d := 78, a := .v 127, b := .v 7 })
    , ([0x864FBF85], .dsub .rup { nwb := false, d := 79, a := .s 63, b := .s 5 })
    , ([0x8AD013C2], .dmul .rup { nwb := true, d := 80, a := .v 19, b := .latch 2 })
    , ([0x8E5107D9], .dfma .rup { nwb := false, d := 81, a := .v 7, b := .const 9 })
    , ([0x90D285E0], .dmin { nwb := true, d := 82, a := .s 5, b := .laneid })
    , ([0x9453C27F], .dmax { nwb := false, d := 83, a := .latch 2, b := .v 127 })
    , ([0xA2D4D9BF], .hadd2 .rup { nwb := true, d := 84, a := .const 9, b := .s 63 })
    , ([0xA655E013], .hmul2 .rup { nwb := false, d := 85, a := .laneid, b := .v 19 })
    , ([0xAAD67F07], .hfma2 .rup { nwb := true, d := 86, a := .v 127, b := .v 7 })
    , ([0xAE57BF85], .bfma2 .rup { nwb := false, d := 87, a := .s 63, b := .s 5 })
    , ([0xB0D813C2], .dot4 false { nwb := true, d := 88, a := .v 19, b := .latch 2 })
    , ([0xB65907D9], .dot2h .rup { nwb := false, d := 89, a := .v 7, b := .const 9 })
    , ([0xC2D085E0], .vcmp .ge { p := 5, a := .s 5, b := .laneid })
    , ([0xC6D0C27F], .vcmpu .ge { p := 5, a := .latch 2, b := .v 127 })
    , ([0xCAD0D9BF], .fcmp .ge { p := 5, a := .const 9, b := .s 63 })
    , ([0xCED0E013], .dcmp .ge { p := 5, a := .laneid, b := .v 19 })
    , ([0xE2DE7F80], .cvt .rup { nwb := true, d := 94, a := .v 127 } .int32 .fp32)
    , ([0xE65FBF03], .cvtf .rup { nwb := false, d := 95, a := .s 63 } .fp32 false 3)
    , ([0xEAE013C2], .pack .rup { nwb := true, d := 96, a := .v 19, b := .latch 2 })
    , ([0xEC4107D9], .unpk { nwb := false, d := 65, a := .v 7, b := .const 9 })
    ] = true := by decide +kernel

theorem test_decode_class2_a : allDecode .vspc
    [ ([0x00C28500], .frcp { nwb := true, d := 66, a := .s 5 })
    , ([0x0443C200], .frsq { nwb := false, d := 67, a := .latch 2 })
    , ([0x08C4D900], .fsqrt { nwb := true, d := 68, a := .const 9 })
    , ([0x0C45E013], .fdiv { nwb := false, d := 69, a := .laneid, b := .v 19 })
    , ([0x10C67F00], .fexp2 { nwb := true, d := 70, a := .v 127 })
    , ([0x1447BF00], .flog2 { nwb := false, d := 71, a := .s 63 })
    , ([0x18C81300], .fsinpi { nwb := true, d := 72, a := .v 19 })
    , ([0x1C490700], .fcospi { nwb := false, d := 73, a := .v 7 })
    , ([0x20CA8500], .ftanh { nwb := true, d := 74, a := .s 5 })
    , ([0x244BC200], .drcpa { nwb := false, d := 75, a := .latch 2 })
    , ([0x28CCD900], .drsqa { nwb := true, d := 76, a := .const 9 })
    , ([0x404DE000], .popc { nwb := false, d := 77, a := .laneid })
    , ([0x44CE7F00], .clz { nwb := true, d := 78, a := .v 127 })
    , ([0x484FBF00], .brev { nwb := false, d := 79, a := .s 63 })
    , ([0x4CD013C2], .bfe false { nwb := true, d := 80, a := .v 19, b := .latch 2 })
    , ([0x505107D9], .bfi { nwb := false, d := 81, a := .v 7, b := .const 9 })
    ] = true := by decide +kernel

theorem test_decode_class2_b : allDecode .vspc
    [ ([0x54D285E0], .funsh { nwb := true, d := 82, a := .s 5, b := .laneid })
    , ([0x6000C200], .bsinit (.latch 2))
    , ([0x64D4D9BF], .bsrd { nwb := true, d := 84, a := .const 9, b := .s 63 })
    , ([0x6855E013], .bsfill { nwb := false, d := 85, a := .laneid, b := .v 19 })
    , ([0x6CD67F07], .bspeek { nwb := true, d := 86, a := .v 127, b := .v 7 })
    , ([0x8057BF85], .shfl { nwb := false, d := 87, a := .s 63, b := .s 5 })
    , ([0x84D813C2], .shflup { nwb := true, d := 88, a := .v 19, b := .latch 2 })
    , ([0x885907D9], .shfldn { nwb := false, d := 89, a := .v 7, b := .const 9 })
    , ([0x8CDA85E0], .shflx { nwb := true, d := 90, a := .s 5, b := .laneid })
    , ([0x9150C200], .vote .uni 5 (.latch 2))
    , ([0x94DCD903], .redi { nwb := true, d := 92, a := .const 9 } .minu)
    , ([0x985DE001], .redf { nwb := false, d := 93, a := .laneid } .min)
    , ([0x9CDE7F15], .scan { nwb := true, d := 94, a := .v 127 } true .and)
    , ([0xA05FBF85], .rdlane { nwb := false, d := 95, a := .s 63, b := .s 5 })
    , ([0xA4E013C2], .wrlane { nwb := true, d := 96, a := .v 19, b := .latch 2 })
    , ([0xA9410700], .bcast true { nwb := false, d := 65, a := .v 7 })
    ] = true := by decide +kernel

theorem test_decode_class3_a : allDecode .mem
    [ ([0x022850A2], .ldb { ls := 34, vd := 66, va := 66, sb := 34 })
    , ([0x063870E3], .ldbs { ls := 35, vd := 67, va := 67, sb := 35 })
    , ([0x0A489124], .ldh { ls := 36, vd := 68, va := 68, sb := 36 })
    , ([0x0E58B165], .ldhs { ls := 37, vd := 69, va := 69, sb := 37 })
    , ([0x1268D1A6], .ldw { ls := 38, vd := 70, va := 70, sb := 38 })
    , ([0x1678F1E7], .ldd { ls := 39, vd := 71, va := 71, sb := 39 })
    , ([0x1A891228], .ldq { ls := 40, vd := 72, va := 72, sb := 40 })
    , ([0x1C208189, 0x44000000], .ldaw { ls := 2, vd := 4, va := 6, sb := 9 } .pkg .acq)
    , ([0x20208189, 0x44000000], .ldad { ls := 2, vd := 4, va := 6, sb := 9 } .pkg .acq)
    , ([0x410972EB], .stb { scope := .pkg, order := .rlx, vd := 75, va := 75, sb := 43 })
    , ([0x4589932C], .sth { scope := .fab, order := .rlx, vd := 76, va := 76, sb := 44 })
    , ([0x4909B36D], .stw { scope := .pkg, order := .rlx, vd := 77, va := 77, sb := 45 })
    , ([0x4D89D3AE], .std { scope := .fab, order := .rlx, vd := 78, va := 78, sb := 46 })
    , ([0x5109F3EF], .stq { scope := .pkg, order := .rlx, vd := 79, va := 79, sb := 47 })
    , ([0x55AA1430], .strw { scope := .fab, order := .rel, vd := 80, va := 80, sb := 48 })
    ] = true := by decide +kernel

theorem test_decode_class3_b : allDecode .mem
    [ ([0x592A3461], .strd { scope := .pkg, order := .rel, vd := 81, va := 81, sb := 33 })
    , ([0x622A54A2], .ldpw { ls := 34, vd := 82, va := 82, sb := 34 })
    , ([0x663A74E3], .ldpd { ls := 35, vd := 83, va := 83, sb := 35 })
    , ([0x680A9524], .stpw { scope := .grp, order := .rlx, vd := 84, va := 84, sb := 36 })
    , ([0x6C0AB565], .stpd { scope := .grp, order := .rlx, vd := 85, va := 85, sb := 37 })
    , ([0x800AD5A6], .ldsw { vd := 86, va := 86, sb := 38 })
    , ([0x840AF5E7], .ldsd { vd := 87, va := 87, sb := 39 })
    , ([0x880B1628], .ldsq { vd := 88, va := 88, sb := 40 })
    , ([0x8C0B3669], .stsw { vd := 89, va := 89, sb := 41 })
    , ([0x900B56AA], .stsd { vd := 90, va := 90, sb := 42 })
    , ([0x940B76EB], .stsq { vd := 91, va := 91, sb := 43 })
    , ([0xC2C0172C], .migrate 44 92 44)
    , ([0xC40BB76D], .homeof { vd := 93, va := 93, sb := 45 })
    , ([0xC9C00000], .fence .fab .sc)
    ] = true := by decide +kernel

theorem test_decode_class4 : allDecode .mtx
    [ ([0x014B7EF7], .mma { shape := 10, fs := 2, reuse := true, a := 95, desc := 47, acc := false, neg := true, trb := true, evt := true })
    , ([0x054B8307], .mmaz { shape := 10, fs := 2, reuse := true, a := 96, desc := 48, acc := false, neg := true, trb := true, evt := true })
    , ([0x0B17061D], .mmnp { shape := 24, fs := 5, reuse := true, a := 65, desc := 33, acc := true, neg := true, trb := false, evt := true })
    , ([0x0EA40225], .mctr { shape := 21, fs := 1, reuse := false, a := 0, desc := 34, acc := false, neg := true, trb := false, evt := true })
    , ([0x10010E33], .tldv { shape := 0, fs := 0, reuse := false, a := 67, desc := 35, acc := false, neg := false, trb := true, evt := true })
    , ([0x14011243], .tstv { shape := 0, fs := 0, reuse := false, a := 68, desc := 36, acc := false, neg := false, trb := true, evt := true })
    , ([0x18000251], .tzero { shape := 0, fs := 0, reuse := false, a := 0, desc := 37, acc := false, neg := false, trb := false, evt := true })
    , ([0x1C000265], .tepi { shape := 0, fs := 0, reuse := false, a := 0, desc := 38, acc := false, neg := true, trb := false, evt := true })
    , ([0x20011E71], .taddst { shape := 0, fs := 0, reuse := false, a := 71, desc := 39, acc := false, neg := false, trb := false, evt := true })
    , ([0x24012281], .tstore { shape := 0, fs := 0, reuse := false, a := 72, desc := 40, acc := false, neg := false, trb := false, evt := true })
    , ([0x28000000], .mrel)
    ] = true := by decide +kernel

theorem test_decode_class5 : allDecode .copy
    [ ([0x02A02A81], .itld 42 42 true true)
    , ([0x06B02B00], .cpin 43 43 false)
    , ([0x0ACB2C80], .cpga 44 44 44 true)
    , ([0x0ED02D00], .cpout 45 45 false)
    , ([0x12EBAE80], .cpsc 46 46 46 true)
    , ([0x16FBC000], .cpsig 47 47 false)
    , ([0x1B0C3095], .sweep 48 48 48 true .scale false 5)
    , ([0x1E102100], .cpfill 33 33 false)
    ] = true := by decide +kernel

theorem test_decode_class6_a : allDecode .sync
    [ ([0x02108189, 0x66280000], .atadd { ls := 33, vd := 4, va := 6, sb := 9, scope := .fab, order := .acq, w64 := true, vx := 10, vc := 0 })
    , ([0x06108189, 0x66280000], .atmin { ls := 33, vd := 4, va := 6, sb := 9, scope := .fab, order := .acq, w64 := true, vx := 10, vc := 0 })
    , ([0x0A108189, 0x66280000], .atmax { ls := 33, vd := 4, va := 6, sb := 9, scope := .fab, order := .acq, w64 := true, vx := 10, vc := 0 })
    , ([0x0E108189, 0x66280000], .atminu { ls := 33, vd := 4, va := 6, sb := 9, scope := .fab, order := .acq, w64 := true, vx := 10, vc := 0 })
    , ([0x12108189, 0x66280000], .atmaxu { ls := 33, vd := 4, va := 6, sb := 9, scope := .fab, order := .acq, w64 := true, vx := 10, vc := 0 })
    , ([0x16108189, 0x66280000], .atand { ls := 33, vd := 4, va := 6, sb := 9, scope := .fab, order := .acq, w64 := true, vx := 10, vc := 0 })
    , ([0x1A108189, 0x66280000], .ator { ls := 33, vd := 4, va := 6, sb := 9, scope := .fab, order := .acq, w64 := true, vx := 10, vc := 0 })
    , ([0x1E108189, 0x66280000], .atxor { ls := 33, vd := 4, va := 6, sb := 9, scope := .fab, order := .acq, w64 := true, vx := 10, vc := 0 })
    , ([0x22108189, 0x66280000], .atxch { ls := 33, vd := 4, va := 6, sb := 9, scope := .fab, order := .acq, w64 := true, vx := 10, vc := 0 })
    , ([0x26108189, 0x66286000], .atcas { ls := 33, vd := 4, va := 6, sb := 9, scope := .fab, order := .acq, w64 := true, vx := 10, vc := 12 })
    , ([0x2A108189, 0x64280000], .atfadd { ls := 33, vd := 4, va := 6, sb := 9, scope := .fab, order := .acq, w64 := false, vx := 10, vc := 0 })
    , ([0x412BB76D], .rdadd { scope := .pkg, order := .rel, vd := 93, va := 93, sb := 45 })
    , ([0x45ABD7AE], .rdmin { scope := .fab, order := .rel, vd := 94, va := 94, sb := 46 })
    , ([0x492BF7EF], .rdmax { scope := .pkg, order := .rel, vd := 95, va := 95, sb := 47 })
    , ([0x4DAC1830], .rdand { scope := .fab, order := .rel, vd := 96, va := 96, sb := 48 })
    , ([0x51283061], .rdor { scope := .pkg, order := .rel, vd := 65, va := 65, sb := 33 })
    , ([0x55A850A2], .rdxor { scope := .fab, order := .rel, vd := 66, va := 66, sb := 34 })
    ] = true := by decide +kernel

theorem test_decode_class6_b : allDecode .sync
    [ ([0x592870E3], .rdfadd { scope := .pkg, order := .rel, vd := 67, va := 67, sb := 35 })
    , ([0x5DA89124], .rddadd { scope := .fab, order := .rel, vd := 68, va := 68, sb := 36 })
    , ([0x62108189, 0x66280000], .dqpush { ls := 33, vd := 4, va := 6, sb := 9, scope := .fab, order := .acq, w64 := true, vx := 10, vc := 0 })
    , ([0x66108189, 0x66000000], .dqpop { ls := 33, vd := 4, va := 6, sb := 9, scope := .fab, order := .acq, w64 := true, vx := 0, vc := 0 })
    , ([0x6A108189, 0x66000000], .dqsteal { ls := 33, vd := 4, va := 6, sb := 9, scope := .fab, order := .acq, w64 := true, vx := 0, vc := 0 })
    , ([0x800A0000], .tjoin 40)
    , ([0x84000000], .tleave)
    , ([0x88000000], .barrive)
    , ([0x8EB00000], .barwait 43)
    , ([0x92C00000], .barsync 44)
    , ([0x96DB6D00], .genwait 45 45 45)
    , ([0x980BAE00], .sigdec 46 46)
    , ([0x9EFBEF00], .sigwait 47 47 47)
    , ([0xA3000019], .seam 48 .join 9)
    , ([0xA40000A1], .waitc .post 33)
    , ([0xA8088000], .lease 34)
    , ([0xAC000000], .unlease)
    ] = true := by decide +kernel

theorem test_decode_class7 : allDecode .sys
    [ ([0x00002345], .trap 9029)
    , ([0x04000000], .eret)
    , ([0x08000000], .brk)
    , ([0x0E700006], .rdsys 39 .ctxbase)
    , ([0x100A0006], .wrsys .ctxbase 40)
    , ([0x16900000], .iregion 41)
    , ([0x18000000], .irend)
    , ([0x1EB00000], .safept 43)
    , ([0x22CB0000], .ckbegin 44 44)
    , ([0x26DB4000], .ckcommit 45 45)
    , ([0x2AEB8000], .rpget 46 46)
    , ([0x2C0BD234], .tlbinv 47 4660)
    , ([0x300C2345], .icinv 48 9029)
    , ([0x34000000], .halt)
    , ([0x38088001], .preempt 1 34)
    ] = true := by decide +kernel

/-! ### A small machine -/

/-- Tier 1 of home 0. -/
def B : Nat := 2 ^ 48

/-- Tables of one context at B + 0x100: virtual pages of 64 MiB at 0 (home 0), 0x4000000 (home 0, mirrored and mantle) and
0x8000000 (home 1), and a page of 64 KiB at 0xC000000; one code region with one live set. -/
def tables : Bytes :=
  let put (a n x : Nat) (m : Bytes) : Bytes := m.writeN a n x
  (put (B + 0x100) 8 (B + 0x2000) <| put (B + 0x108) 8 0x1000 <| put (B + 0x110) 2 1 <| put (B + 0x112) 2 4 <|
   put (B + 0x114) 1 16 <| put (B + 0x120) 8 0x100000 <|
   put (B + 0x2000) 8 (B + 0x4001) <| put (B + 0x4000) 8 (B + 0x6001) <|
   put (B + 0x6000) 8 (B + 0x400009F) <| put (B + 0x6008) 8 (B + 0x8000077) <| put (B + 0x6010) 8 (B + 2 ^ 44 + 0x1F) <|
   put (B + 0x6018) 8 (B + 0x8001) <| put (B + 0x8000) 8 (B + 0x20001F) <|
   put (B + 0x4001008) 8 0x100000 <| put (B + 0x4001010) 8 0x2000 <| put (B + 0x4001018) 8 1 <|
   put (B + 0x4002000) 8 0xFFFF <| put (B + 0x4002010) 8 0xFFFFFFFFFFFFFFFE <| put (B + 0x4002018) 8 0x1FE <| [])

/-- A header of a clause of four words. -/
def hdr (c : EngineClass) : Header :=
  { n := 4, cls := c, s := false, y := false, wcopy := 15, wmtx := 15, wpost := 15, wsync := 15 }

/-- A split at 0x10000, in the middle of nothing. -/
def split0 : Split :=
  { pc := 0x10000, part := some 0, s := [(1, 0x40000), (2, 3), (4, 1), (5, 0x4000000), (6, 0x8000000), (7, 0x30000)]
    clause := { stage := .issued, hdr := hdr .sctl } }

/-- A group of 16 registers with lanes 0 and 31 enabled. -/
def group0 : Group :=
  { life := .live, gid := 7, w := 16, ctx := B + 0x100, slot := some 0, em := 0x80000001, sp := split0
    trapvec := 0x11000, ctxbase := 0x20000, v := [(2 * 32, 8), (2 * 32 + 31, 72), (4 * 32, 0xAABBCCDD), (4 * 32 + 31, 5)] }

/-- One package with its homes 0 and 1 ready. -/
def s0 : State := { g := group0, mem := tables, pkgs := [(0, { present := true })], homes := [(0, { st := .ready }), (1, { st := .ready })] }

/-- The same machine with other splits, groups or places. -/
def withG (f : Group → Group) : State := { s0 with g := f group0 }
def withSp (f : Split → Split) : State := withG fun g => { g with sp := f g.sp }

/-- The words of an instruction. -/
def words (i : Instr) : List Word :=
  match encode i with
  | some x => x.2
  | none => []

/-- What holds for the lanes of a set among the 32 holds for all its lanes. -/
theorem forall_lanes {m : LaneSet} {P : Nat → Prop} (h : ∀ l, l < 32 → m.getLsbD l = true → P l) : ∀ l, m.getLsbD l = true → P l :=
  fun l hl => h l (by
    by_contra hc
    rw [BitVec.getLsbD_of_ge _ _ (by omega)] at hl
    cases hl) hl

/-- Bytes of the device's memory are distinct. -/
theorem distinct_device {s : State} {pa n : Nat} (h : ∀ i, i < n → hostKey s (pa + i) = none) : Rules.Distinct s pa n :=
  fun i _ hi hj => .inl (h i (by omega))

/-! ### Class 0 -/

theorem witness_scalar_frame : Rules.scalar s0 (.smov 0 1) = some (0, 0x40000) ∧ Rules.scalar s0 (.sread 63 .clock) = some (63, 0) := by
  decide +kernel

theorem witness_scalar_results : Rules.scalar s0 (.ssub 3 0 2) = some (3, -3) ∧ ¬(readS s0 2 = 0 ↔ true = true) := by decide +kernel

theorem witness_scmp : Rules.scmpTrue .ge (readS s0 2) (readS s0 2) ∧ ¬Rules.scmpTrue .ltu (readS s0 0) (readS s0 0) := by
  unfold Rules.scmpTrue; decide +kernel

/-- SCMP words with FN 10 and 255. -/
def scmpWord (fn : Nat) : State := withSp fun p =>
  { p with clause := { p.clause with words := [BitVec.ofNat 32 (0x18 * 2 ^ 26 + 3 * 2 ^ 20 + 1 * 2 ^ 14 + 2 * 2 ^ 8 + fn)] } }

theorem witness_scmp_reserved : ∀ fn ∈ [10, 255], (scmpWord fn).g.sp.clause.hdr.cls = .sctl
    ∧ (scmpWord fn).g.sp.clause.words.drop (scmpWord fn).g.sp.clause.pos
        = BitVec.ofNat 32 (0x18 * 2 ^ 26 + (3 : SReg).toNat * 2 ^ 20 + (1 : SReg).toNat * 2 ^ 14 + (2 : SReg).toNat * 2 ^ 8 + fn) :: []
    ∧ (scmpWord fn).g.sp.safe < 4096 := by decide +kernel

theorem witness_special_register_not_fpstat : SpecialReg.grpinrec ≠ .fpstat := by decide

/-- LOOP of s0; of 1; of 0 and of 3 with a target in range; of 3 with one out of range. -/
theorem witness_loop : readS s0 4 = 1 ∧ readS s0 9 = 0 ∧ Rules.inRange (Rules.target s0 (-1)) ∧ readS s0 2 ≠ 1
    ∧ ¬Rules.inRange (Rules.target (withSp fun p => { p with pc := 0 }) (-2)) := by
  unfold Rules.inRange; decide +kernel

theorem witness_brz : readS s0 0 = 0 ∧ readS s0 2 ≠ 0 := by decide +kernel

/-- BRZ not taken; taken in range; taken out of range: the last address in range is 2^56 - 4. -/
theorem witness_branches :
    (∃ P, Rules.branchTaken s0 (.brz 2 (-1)) = some (-1, P) ∧ ¬P) ∧ (∃ P, Rules.branchTaken s0 (.brz 0 (-1)) = some (-1, P) ∧ P)
      ∧ Rules.inRange (Rules.target (withSp fun p => { p with pc := 0xFFFFFFFFFFFFF8 }) 0)
      ∧ ¬Rules.inRange (Rules.target (withSp fun p => { p with pc := 0xFFFFFFFFFFFFF8 }) 1)
      ∧ Rules.inRange (readS s0 1) ∧ ¬Rules.inRange (readS (withSp fun p => { p with s := [(1, 2 ^ 56)] }) 1) := by
  refine ⟨⟨_, rfl, ?_⟩, ⟨_, rfl, ?_⟩, ?_⟩
  · decide +kernel
  · decide +kernel
  · unfold Rules.inRange; decide +kernel

/-- An empty taken set; a full one; a part of the lanes; the group's last split; one of two splits. -/
theorem witness_divergence :
    (s0.g.path = none ∧ (~~~readP s0 0) &&& s0.active = 0)
      ∧ (let s := withG fun g => { g with em := 0xFFFFFFFF }
         readP s 0 &&& s.active ≠ 0 ∧ s.g.sp.lanes &&& ~~~(readP s 0 &&& s.active) = 0 ∧ s.g.path = none)
      ∧ (readP s0 0 &&& s0.active ≠ 0 ∧ s0.g.sp.lanes &&& ~~~(readP s0 0 &&& s0.active) ≠ 0 ∧ (freeEntry s0.g).isSome = true)
      ∧ (s0.g.sp.region = none ∧ s0.g.sibs = [] ∧ s0.g.handler = .none ∧ s0.g.seams = [] ∧ s0.g.seamSv = [])
      ∧ (withG fun g => { g with sibs := [{ split0 with idx := 1, lanes := 0 }] }).g.sibs = [{ split0 with idx := 1, lanes := 0 }] := by
  decide +kernel

/-! ### Classes 1 and 2 -/

/-- v15 is the last register of a window of 16; v16, and the pair v15, are not legal. -/
theorem witness_vectors :
    (∃ q, Rules.vec s0 (.vadd { nwb := false, d := 15, a := .v 2, b := .const 1 }) = some q ∧ q.legal s0 = true)
      ∧ (∃ q, Rules.vec s0 (.vadd { nwb := false, d := 16, a := .v 2, b := .const 1 }) = some q ∧ q.legal s0 = false)
      ∧ (∃ q, Rules.vec s0 (.vadd64 { nwb := true, d := 14, a := .s 1, b := .lit 7 }) = some q ∧ q.legal s0 = true)
      ∧ ∃ q, Rules.vec s0 (.vadd64 { nwb := true, d := 15, a := .s 1, b := .lit 7 }) = some q ∧ q.legal s0 = false :=
  ⟨⟨_, rfl, by decide +kernel⟩, ⟨_, rfl, by decide +kernel⟩, ⟨_, rfl, by decide +kernel⟩, ⟨_, rfl, by decide +kernel⟩⟩

theorem witness_compares :
    (∃ p srcs r, Rules.compare s0 (.vcmp .ge { p := 7, a := .v 15, b := .v 2 }) = some (p, srcs, r)
        ∧ srcs.all (fun x => srcOk s0 x.1 x.2) = true)
      ∧ ∃ p srcs r, Rules.compare s0 (.vcmp .ge { p := 7, a := .v 16, b := .v 2 }) = some (p, srcs, r)
          ∧ srcs.all (fun x => srcOk s0 x.1 x.2) = false :=
  ⟨⟨_, _, _, rfl, by decide +kernel⟩, ⟨_, _, _, rfl, by decide +kernel⟩⟩

theorem witness_bit_streams : srcOk s0 false (.v 15) = true ∧ regOk s0 true 14 = true ∧ regOk s0 false 15 = true := by
  decide +kernel


/-- FUNSH of the lane number into v15, with the shift amount in v4. -/
theorem witness_funsh : ∃ q, Rules.vec s0 (.funsh { nwb := false, d := 15, a := .laneid, b := .v 4 }) = some q ∧ q.legal s0 = true :=
  ⟨_, rfl, by decide +kernel⟩

/-- s0 behind an unresolved path, or with an entry of the predictor for its BRP. -/
def sPath : State := withG fun g => { g with path := some { sp := 0, taken := true, mask := 1, pc := 0 } }
def sPred (c k : BitVec 2) (l : LaneSet) : State :=
  { s0 with parts := [(0, { pred := [(((instrPc s0).toNat / 4 ^^^ 7) % 512, { cls := c, conf := k, last := l })] })] }

/-- The entry that a BRP of a state finds. -/
def predOf (s : State) : PredEntry := Cells.get {} (s.part (s.g.sp.part.getD 0)).pred (((instrPc s).toNat / 4 ^^^ s.g.gid.toNat) % 512)

/-- A handler's group whose 32 entries are taken, before a BRP that divides it. -/
def sEntries : State := withG fun g => { g with sibs := (List.range 31).map fun k => { split0 with idx := k + 1, lanes := 0 } }

theorem witness_predictions :
    sPath.g.path.isSome = true
      ∧ (∀ c ∈ [0, 1, 2, 3], (sPred c 2 1).g.path = none ∧ (predOf (sPred c 2 1)).conf.toNat = 2 ∧ (predOf (sPred c 2 1)).cls = c)
      ∧ (predOf (sPred 2 2 1)).last &&& (sPred 2 2 1).active ≠ 0 ∧ (predOf (sPred 2 2 2)).last &&& (sPred 2 2 2).active = 0
      ∧ (predOf (sPred 0 1 0)).conf.toNat < 2
      ∧ (let s := withSp fun p => { p with pc := 0 }
         s.g.path = none ∧ readP s 0 &&& s.active ≠ 0 ∧ ¬Rules.inRange (Rules.target s (-2)))
      ∧ (sEntries.g.path = none ∧ readP sEntries 0 &&& sEntries.active ≠ 0 ∧ freeEntry sEntries.g = none
          ∧ sEntries.g.sp.lanes &&& ~~~(readP sEntries 0 &&& sEntries.active) ≠ 0 ∧ Rules.inRange (Rules.target sEntries 1)) := by
  unfold Rules.inRange; decide +kernel

/-! ### Number formats -/

/-- NaNs, infinities, zeros and numbers, in order and beside each other. -/
theorem witness_arithmetic :
    fp32 ∈ [fp64, fp32, fp16, bf16] ∧ Rules.num fp32 0x7F800001 = .nan ∧ Rules.num fp32 0xFF800000 = .inf true
      ∧ Rules.num fp32 0x80000000 = .num true 0 ∧ Rules.num fp32 0x3F800000 = .num false 1 ∧ Rules.num fp16 0x0001 = .num false (1 / 2 ^ 24)
      ∧ Rules.below (.inf true) (.num false 1) ∧ ¬Rules.below (.num true 0) (.num false 0) := by
  refine ⟨by decide, ?_, ?_, ?_, ?_, ?_, ?_, ?_⟩
    <;> norm_num [Rules.num, Rules.mag, Rules.body, Rules.topBody, Rules.infBody, Rules.negative, Rules.below, Rules.signed, fp32, fp16]

theorem witness_conversions : cvtFmt .fp32 = some fp32 ∧ cvtFmt .fp16 = some fp16 ∧ cvtFmt .int32 = none ∧ (2 ^ 31 : Nat) < 2 ^ 32 := by
  decide

set_option exponentiation.threshold 2000 in
/-- Normal numbers: 1.0, 2.0, 3.0, 9.0, -1.0, 0.5, 128.0 and -128.0, and the smallest normal number. -/
theorem witness_normal :
    Rules.normal fp32 0x3F800000 false 1 ∧ Rules.normal fp32 0x40000000 false 2 ∧ Rules.normal fp32 0x40400000 false 3
      ∧ Rules.normal fp32 0x41100000 false 9 ∧ Rules.normal fp32 0xBF800000 true 1 ∧ Rules.normal fp32 0x3F000000 false (1 / 2)
      ∧ Rules.normal fp32 0x43000000 false 128 ∧ Rules.normal fp32 0xC3000000 true 128 ∧ Rules.normal fp64 0x3FF0000000000000 false 1
      ∧ Rules.normal fp32 0x00800000 false (1 / 2 ^ 126) ∧ Rules.normal fp32 0x7F000000 false (2 ^ 127) := by
  refine ⟨?_, ?_, ?_, ?_, ?_, ?_, ?_, ?_, ?_, ?_, ?_⟩
    <;> norm_num [Rules.normal, Rules.num, Rules.mag, Rules.body, Rules.topBody, Rules.infBody, Rules.negative, fp32, fp64]

set_option exponentiation.threshold 2000 in
/-- Exact results within the normal values, at their lower end, and outside them. -/
theorem witness_bounds :
    Rules.inBounds fp32 ((1 / 1 : ℚ) : ℝ) ∧ Rules.inBounds fp32 ((1 / 2 ^ 126 : ℚ) : ℝ) ∧ Rules.inBounds fp64 ((1 / 1 : ℚ) : ℝ)
      ∧ Rules.inBounds fp32 ((2 : ℝ) ^ (1 : ℝ)) ∧ (1 / 2 ^ 127 : ℚ) < Rules.mag fp32 (2 ^ 23)
      ∧ (1 / 2 ^ 126 / 2 ^ 127 : ℚ) < Rules.mag fp32 (2 ^ 23) ∧ Rules.mag fp32 (Rules.topBody fp32) < 2 ^ 127 / (1 / 2 ^ 126 : ℚ)
      ∧ (1 : ℚ) ≤ Rules.mag fp32 (Rules.topBody fp32) := by
  refine ⟨?_, ?_, ?_, ?_, ?_, ?_, ?_, ?_⟩ <;> norm_num [Rules.inBounds, Rules.mag, Rules.topBody, fp32, fp64]
/-! ### Class 3 -/

/-- The record of a team, at virtual address 0x30000, and a lease of it on core 0. -/
def TR : Nat := B + 0x4030000
def lease0 : Lease := { id := 1, team := TR, core := 0, base := 128, len := 128 }

/-- A member of a team with a lease of 128 bytes, whose v3 holds the offsets `a` and `b`. -/
def sLease (a b : Word) : State :=
  { withG (fun g => { g with team := some TR, teamId := 5, v := [(2 * 32, 8), (2 * 32 + 31, 72), (3 * 32, a), (3 * 32 + 31, b)] }) with
    leases := [lease0] }

def mx (vd va : VReg) (sb : SReg) : MMX := { vd := vd, va := va, sb := sb }

/-- The last word of the lease, and for stores two lanes at one word. -/
theorem witness_scratch_accesses :
    (Rules.scratch (.ldsw (mx 15 3 0)) = some (false, 4, mx 15 3 0) ∧ Rules.scratch (.stsw (mx 15 3 0)) = some (true, 4, mx 15 3 0))
      ∧ (∀ s ∈ [sLease 0 124, sLease 124 124], s.g.diag = false ∧ scratchPlace s = some (0, 128, 128)
          ∧ Rules.scratchRegs s (mx 15 3 0) 4 = true)
      ∧ Rules.scratchFits (sLease 0 124) (mx 15 3 0) 4 128 ∧ Rules.scratchFits (sLease 124 124) (mx 15 3 0) 4 128
      ∧ (∀ l, (sLease 0 124).active.getLsbD l = true → ∀ j, j < 4 / 4 →
          Cells.get false ((sLease 0 124).core 0).poison ((128 + scratchOffset (sLease 0 124) (mx 15 3 0) l) / 4 + j) = false)
      ∧ Rules.lastWriter (sLease 124 124) (fun l => 128 + scratchOffset (sLease 124 124) (mx 15 3 0) l) 4 255 31 := by
  refine ⟨by decide +kernel, by decide +kernel, forall_lanes (by unfold Rules.pastEnd; decide +kernel),
    forall_lanes (by unfold Rules.pastEnd; decide +kernel), forall_lanes (by decide +kernel), by decide +kernel, by decide +kernel,
    by decide +kernel, fun k hk h => ?_⟩
  exact absurd h (by
    rw [Bool.not_eq_true]
    exact BitVec.getLsbD_of_ge _ _ (by omega))

/-- A diagnostic group, which holds its core's scratchpad and ports: the last port, and the last wide word before them. -/
def sDiag (a b : Word) : State := withG fun g => { g with diag := true, v := [(3 * 32, a), (3 * 32 + 31, b)] }

theorem witness_diagnostic_scratch :
    (scratchPlace (sDiag 0 0xC160C) = some (0, 0, 0xC1610) ∧ Rules.scratchRegs (sDiag 0 0xC160C) (mx 15 3 0) 4 = true
        ∧ Rules.scratchFits (sDiag 0 0xC160C) (mx 15 3 0) 4 0xC1610)
      ∧ (Rules.scratchRegs (sDiag 0 0xC15F8) (mx 14 3 0) 8 = true ∧ Rules.scratchFits (sDiag 0 0xC15F8) (mx 14 3 0) 8 0xC1610)
      ∧ Rules.firstLane (sDiag 0 0xC1600) (fun l => Rules.pastEnd (sDiag 0 0xC1600) 8 0xC1610 (scratchOffset (sDiag 0 0xC1600) (mx 14 3 0) l)) 31 := by
  refine ⟨⟨by decide +kernel, by decide +kernel, forall_lanes (by unfold Rules.pastEnd; decide +kernel)⟩,
    ⟨by decide +kernel, forall_lanes (by unfold Rules.pastEnd; decide +kernel)⟩,
    by unfold Rules.firstLane Rules.pastEnd; decide +kernel⟩

/-- A split behind an acquire, and behind a release fence. -/
theorem witness_scratch_held : Rules.scratchHeld ((sLease 0 124).setSp fun p => { p with acquire := [(some .fab, 4)] }) false
    ∧ Rules.scratchHeld ((sLease 0 124).setSp fun p => { p with fence := [4] }) true ∧ ¬Rules.scratchHeld (sLease 0 124) true := by
  unfold Rules.scratchHeld; decide +kernel

theorem witness_scratch_checks :
    Rules.scratchRegs s0 (mx 16 3 0) 4 = false
      ∧ (Rules.scratchRegs s0 (mx 15 3 0) 4 = true ∧ scratchPlace s0 = none ∧ Rules.firstLane s0 (fun _ => True) 0)
      ∧ ((scratchPlace (sLease 0 122)).isSome = true ∧ Rules.firstLane (sLease 0 122) (fun l => scratchOffset (sLease 0 122) (mx 15 3 0) l % 4 ≠ 0) 31)
      ∧ (∀ l, (sLease 0 128).active.getLsbD l = true → scratchOffset (sLease 0 128) (mx 15 3 0) l % 4 = 0)
      ∧ Rules.firstLane (sLease 0 128) (fun l => Rules.pastEnd (sLease 0 128) 4 128 (scratchOffset (sLease 0 128) (mx 15 3 0) l)) 31 := by
  refine ⟨by decide +kernel, ⟨by decide +kernel, by decide +kernel, by decide +kernel, trivial, fun k hk => by omega⟩,
    ⟨by decide +kernel, by unfold Rules.firstLane; decide +kernel⟩, forall_lanes (by decide +kernel),
    by unfold Rules.firstLane Rules.pastEnd; decide +kernel⟩

def ml (va : VReg) (sb : SReg) : MML := { ls := 0, vd := 15, va := va, sb := sb }

/-- A live set is known at s0. -/
def ls0 : LiveSet := { v := 0xFFFF, s := 0xFFFFFFFFFFFFFFFE, p := 0xFE, b := true }
theorem live_set_known : Rules.liveSetKnown s0 0 := ⟨ls0, .inr ⟨rfl, by decide +kernel⟩⟩

/-- A split that has moved has the live set it moved with. -/
theorem witness_live_set_moved :
    Rules.liveSetIs (withSp fun p => { p with tail := some {}, live := ls0 }) 5 ls0 := .inl ⟨rfl, rfl⟩

/-- s0 with another address in lane 31, behind scalar s11. -/
def sFar (a : Word) (f : Group → Group) : State :=
  withG fun g => f { g with v := [(2 * 32, 8), (2 * 32 + 31, a)], sp := { g.sp with s := (11, 2 ^ 56 - 64) :: g.sp.s } }

/-- Addresses that each check of R246 fails first at lane 31: past the address range, misaligned, not translated, not writable; registers
past W; no active lane. -/
theorem witness_access_checks :
    (Rules.accessForm (sFar 64 id) 2 11 false 4 .read true).failure (sFar 64 id) = some (0x05, 31)
      ∧ (Rules.accessForm (sFar 10 id) 2 1 false 4 .read true).failure (sFar 10 id) = some (0x06, 31)
      ∧ (Rules.accessForm (sFar 0x10000000 id) 2 1 false 4 .write false).failure (sFar 0x10000000 id) = some (0x07, 31)
      ∧ (sFar 64 id).active ≠ 0 ∧ (sFar 64 fun g => { g with em := 0 }).active = 0
      ∧ (dataOk s0 4 16 && addrOk s0 2 1) = false ∧ (dataOk (sFar 64 fun g => { g with em := 0 }) 4 15 && addrOk s0 2 1) = true
      ∧ Rules.liveSetKnown (sFar 64 id) 0 ∧ Rules.liveSetKnown (sFar 64 fun g => { g with em := 0 }) 0 := by
  refine ⟨by decide +kernel, by decide +kernel, by decide +kernel, by decide +kernel, by decide +kernel, by decide +kernel,
    by decide +kernel, ⟨ls0, .inr ⟨rfl, by decide +kernel⟩⟩, ⟨ls0, .inr ⟨rfl, by decide +kernel⟩⟩⟩

theorem witness_loads_issue :
    (Rules.load (.ldw (ml 2 1)) = some (4, false, false, none, none, ml 2 1))
      ∧ (dataOk s0 4 15 && addrOk s0 2 1) = true ∧ Rules.liveSetKnown s0 0 ∧ s0.active ≠ 0
      ∧ Rules.inPlace s0 (Rules.accessForm s0 2 1 false 4 .read true) ∧ Rules.waitsInPlace s0 false = false ∧ Rules.injected s0 = false
      ∧ (∀ a ∈ (Rules.accessForm s0 2 1 false 4 .read true).accesses s0, linePoisoned s0 a = false ∧ mirrorAwaited s0 a = false)
      ∧ ((Rules.accessForm s0 2 1 false 4 .read true).accesses s0).map (fun x => (x.lane, x.pa))
          = [(0, B + 0x4040008), (31, B + 0x4040048)] := by
  refine ⟨rfl, by decide +kernel, live_set_known, by decide +kernel, ?_, by decide +kernel, by decide +kernel, by decide +kernel,
    by decide +kernel⟩
  unfold Rules.inPlace; decide +kernel

/-- A split of an anchored group's handler, whose private memory is reached at the base home. -/
def sPriv : State := withG fun g =>
  { g with sup := true, handler := .running 0, v := [(2 * 32, 8), (2 * 32 + 31, 72)]
           sp := { g.sp with home := 1, clause := { g.sp.clause with anch := true } } }

/-- A pending access of lanes 0 and 31, in one line or of two words. -/
def access (k : AccessKind) (x y : Nat) : Access :=
  { id := 9, owners := [0], kind := k, vd := 14, vs := 12, pc := 0x10004, hdr := 0x10000, mask := 0x80000001
    lanes := [{ lane := 0, va := 0x40008, pa := x }, { lane := 31, va := 0x4000F, pa := y, x := 7, c := 3 }] }

/-- s0 with a pending access. -/
def sAcc (a : Access) : State := withG fun g => { g with accs := [a] }

/-- A load of bytes, the last of its line, and one of the quad-word of a register group. -/
theorem witness_load_step : ∀ a ∈ [access (.load 1 true) (B + 0x4040008) (B + 0x404003F), access (.load 16 false) (B + 0x4040000) (B + 0x4040030)],
    (sAcc a).g.life = .live ∧ (sAcc a).g.accs.find? (fun x => x.id == a.id) = some a ∧ a.held = false ∧ a.after = [] ∧ a.lanes ≠ []
      ∧ (a.lanes.map (·.lane)).Nodup
      ∧ ∀ x ∈ a.lanes, x.lane < 32 ∧ paTier x.pa ≠ 3 ∧ x.pa % (if a.kind = .load 1 true then 1 else 16) = 0 ∧ Rules.soundLine (sAcc a) x := by
  unfold Rules.soundLine; decide +kernel

def sa (va : VReg) (sb : SReg) (w : Bool) : SA :=
  { ls := 0, vd := 14, va := va, sb := sb, scope := .fab, order := .rlx, w64 := w, vx := 4, vc := 6 }

/-- A load of words, an atomic and MIGRATE, whose lanes' addresses behind scalar s6 are served by home 1. -/
theorem witness_other_home : Rules.liveSetIs s0 0 ls0 ∧ s0.active ≠ 0 ∧ (1 : Nat) ≠ s0.g.sp.home
    ∧ ∀ i ∈ [Instr.ldw (ml 2 6), .atadd (sa 2 6 false), .migrate 0 2 6], ∃ f, Rules.movesBy s0 i 0 f
        ∧ f.failure s0 = none ∧ ∀ a ∈ f.accesses s0, homeOfPa a.pa = 1 := by
  refine ⟨.inr ⟨rfl, by decide +kernel⟩, by decide +kernel, by decide +kernel, fun i hi => ?_⟩
  simp only [List.mem_cons, List.not_mem_nil, or_false] at hi
  rcases hi with rfl | rfl | rfl
  · exact ⟨_, .inl ⟨4, _, _, _, _, _, rfl, by decide +kernel, by decide +kernel, rfl, rfl⟩, by decide +kernel, by decide +kernel⟩
  · exact ⟨_, .inr (.inl ⟨_, rfl, by decide +kernel, rfl, rfl⟩), by decide +kernel, by decide +kernel⟩
  · exact ⟨_, .inr (.inr ⟨_, _, rfl, by decide +kernel, rfl⟩), by decide +kernel, by decide +kernel⟩

/-- s0 with lanes 0, 15 and 31 enabled, whose addresses behind s0 lie at homes 0 or 1. -/
def sHomes (a b c : Word) : State :=
  withG fun g => { g with em := 0x80008001, v := [(2 * 32, a), (2 * 32 + 15, b), (2 * 32 + 31, c)] }

/-- Two homes, one of them the split's own; a split at home 1 with the same addresses but another home of its own. -/
theorem witness_several_homes :
    (let s := sHomes 0x40008 0x8000000 0x40048
     let f := Rules.accessForm s 2 0 false 4 .read true
     Rules.movesBy s (.ldw (ml 2 0)) 0 f ∧ Rules.liveSetKnown s 0 ∧ s.active ≠ 0 ∧ f.failure s = none ∧ s.g.sp.joins = none
       ∧ ([0, 1] : List Nat).Pairwise (· < ·) ∧ (f.accesses s).map (fun a => homeOfPa a.pa) = [0, 1, 0] ∧ s.g.sp.home = 0
       ∧ Rules.injected s = false ∧ (∀ a ∈ f.accesses s, linePoisoned s a = false ∧ mirrorAwaited s a = false)
       ∧ (Rules.freeEntries s.g).length = 31)
      ∧ (let s := (sHomes 0x40008 0x8000000 0x40048).setSp fun p => { p with home := 2 }
         ((Rules.accessForm s 2 0 false 4 .read true).accesses s).map (fun a => homeOfPa a.pa) = [0, 1, 0] ∧ s.g.sp.home = 2
           ∧ Rules.liveSetKnown s 0) := by
  refine ⟨⟨.inl ⟨4, _, _, _, _, _, rfl, by decide +kernel, by decide +kernel, rfl, rfl⟩, ⟨ls0, .inr ⟨rfl, by decide +kernel⟩⟩, by decide +kernel,
    by decide +kernel, rfl, by decide, by decide +kernel, rfl, by decide +kernel, by decide +kernel, by decide +kernel⟩, by decide +kernel, rfl,
    ls0, .inr ⟨rfl, by decide +kernel⟩⟩

def mms (va : VReg) (sb : SReg) (o : Order) : MMS := { scope := .fab, order := o, vd := 14, va := va, sb := sb }

/-- s0 with n operations of a class outstanding. -/
def sOps (n : Nat) (c : Ctr) : State := withSp fun p => { p with ops := (List.range n).map fun k => { id := 100 + k, cls := c } }

/-- Stores of words to two lines, and of bytes reversed in pairs, with room for one more operation. -/
theorem witness_stores_post :
    Rules.store (.stw (mms 2 1 .rlx)) = some (4, false, false, mms 2 1 .rlx)
      ∧ Rules.store (.strd (mms 2 1 .sc)) = some (8, true, false, mms 2 1 .sc)
      ∧ (∀ n ∈ [4, 8], (dataOk (sOps 62 .post) n 14 && addrOk (sOps 62 .post) 2 1) = true ∧ (sOps 62 .post).active ≠ 0
          ∧ (Rules.accessForm (sOps 62 .post) 2 1 false n .write false).failure (sOps 62 .post) = none
          ∧ counter .post (sOps 62 .post).g.sp < 63
          ∧ ∀ a ∈ (Rules.accessForm (sOps 62 .post) 2 1 false n .write false).accesses (sOps 62 .post), a.pa % n = 0) := by
  decide +kernel

/-- A load and a store of private memory by an anchored handler at another home than its base home. -/
theorem witness_private_accesses :
    Rules.waitsInPlace sPriv true = true ∧ Rules.inPlace sPriv (Rules.accessForm sPriv 2 0 true 4 .read true)
      ∧ (Rules.accessForm sPriv 2 0 true 4 .write false).failure sPriv = none ∧ sPriv.g.baseHome ≠ sPriv.g.sp.home
      ∧ Rules.store (.stpw (mms 2 0 .rlx)) = some (4, false, true, mms 2 0 .rlx)
      ∧ ∀ a ∈ (Rules.accessForm sPriv 2 0 true 4 .write false).accesses sPriv, a.pa % 4 = 0 := by
  unfold Rules.inPlace; decide +kernel

/-- Two packets of one queue; the first holds the last byte of a line. -/
def pkt (id : Nat) (bs : List (Nat × Byte)) : Packet := { id := id, gid := some 7, src := 0, dst := 1, body := .store bs }
def sPkt : State := { s0 with packets := [pkt 9 [(B + 2 ^ 44 + 63, 1), (B + 2 ^ 44, 2)], pkt 10 [(B + 2 ^ 44, 3)]] }

theorem witness_packet : sPkt.g.life = .live
    ∧ takeFirst (fun q => inQueue 0 1 q && q.cls == 0) sPkt.packets
        = some (pkt 9 [(B + 2 ^ 44 + 63, 1), (B + 2 ^ 44, 2)], [pkt 10 [(B + 2 ^ 44, 3)]])
    ∧ (([(B + 2 ^ 44 + 63, 1), (B + 2 ^ 44, 2)] : List (Nat × Byte)).map (·.1)).Nodup
    ∧ (∀ b ∈ ([(B + 2 ^ 44 + 63, 1), (B + 2 ^ 44, 2)] : List (Nat × Byte)), paTier b.1 < 2) ∧ pteMirror (pkt 9 []).pte = false
    ∧ (pkt 9 []).mantle = none ∧ takesTraffic sPkt 1 = true ∧ crossed sPkt (homePkg 0) (homePkg 1) 0 (pkt 9 []).cross = true
    ∧ cutoverMove sPkt 1 (B + 2 ^ 44 + 63) = none ∧ isDegraded sPkt (B + 2 ^ 44 + 63) (pkt 9 []).pte = false
    ∧ (([(B + 2 ^ 44 + 63, 1), (B + 2 ^ 44, 2)] : List (Nat × Byte)).Pairwise fun b c => hostKey sPkt b.1 = none ∨ hostKey sPkt b.1 ≠ hostKey sPkt c.1)
    ∧ copyBefore sPkt (pkt 9 [(B + 2 ^ 44 + 63, 1)]) = false ∧ behindMove sPkt (pkt 9 [(B + 2 ^ 44 + 63, 1)]) = false := by
  decide +kernel

/-- A packet for two bytes of a host window of home 0. -/
def sPktH : State :=
  { s0 with packets := [{ pkt 9 [(2 ^ 49, 1), (2 ^ 49 + 1, 2)] with dst := 0 }]
            pkgs := [(0, { present := true, windows := [{ home := 0, window := 0, base := 0, len := 2 ^ 16, remote := 0x5000, rkey := 0, qpn := 0, port := 0 }] })] }

theorem witness_host_packet :
    takeFirst (fun q => inQueue 0 0 q && q.cls == 0) sPktH.packets = some ({ pkt 9 [(2 ^ 49, 1), (2 ^ 49 + 1, 2)] with dst := 0 }, [])
      ∧ (∀ b ∈ ([(2 ^ 49, 1), (2 ^ 49 + 1, 2)] : List (Nat × Byte)), paTier b.1 = 2)
      ∧ hostKey sPktH (2 ^ 49) ≠ none ∧ hostKey sPktH (2 ^ 49) ≠ hostKey sPktH (2 ^ 49 + 1)
      ∧ isDegraded sPktH (2 ^ 49) 0 = false ∧ takesTraffic sPktH 0 = true ∧ cutoverMove sPktH 0 (2 ^ 49) = none
      ∧ copyBefore sPktH (pkt 9 [(2 ^ 49, 1)]) = false ∧ behindMove sPktH (pkt 9 [(2 ^ 49, 1)]) = false := by
  decide +kernel

/-- A packet for a mirrored page. -/
def sPktM : State := { s0 with packets := [{ pkt 9 [(B + 0x8000000, 1)] with dst := 0, pte := B + 0x8000077 }] }

theorem witness_mirrored_packet :
    takeFirst (fun q => inQueue 0 0 q && q.cls == 0) sPktM.packets
        = some ({ pkt 9 [(B + 0x8000000, 1)] with dst := 0, pte := B + 0x8000077 }, [])
      ∧ pteMirror (B + 0x8000077) = true ∧ isDegraded sPktM (B + 0x8000000) (B + 0x8000077) = false ∧ takesTraffic sPktM 0 = true
      ∧ crossed sPktM (homePkg 0) (homePkg 0) 0 none = true ∧ cutoverMove sPktM 0 (B + 0x8000000) = none ∧ paTier (B + 0x8000000) < 2
      ∧ copyBefore sPktM (pkt 9 [(B + 0x8000000, 1)]) = false ∧ behindMove sPktM (pkt 9 [(B + 0x8000000, 1)]) = false := by
  decide +kernel

/-- A split with an access and a posted store still to be performed. -/
def sBusy : State :=
  { withG (fun g => { g with accs := [access (.load 4 false) (B + 0x4040008) (B + 0x4040048)], sp := { g.sp with ops := [{ id := 9, cls := .post }] } })
    with packets := [pkt 9 [(B + 2 ^ 44, 1)]] }

theorem witness_migrate_homeof_fence :
    (addrOk s0 2 1 = true ∧ Rules.inPlace s0 (Rules.accessForm s0 2 1 false 0 .read true))
      ∧ (regOk s0 false 15 && addrOk s0 2 1) = true
      ∧ (ownAccesses s0 = [] ∧ releaseTokens .fab s0 = []) ∧ ownAccesses sBusy ≠ [] ∧ releaseTokens .fab sBusy ≠ []
      ∧ (let s := { sBusy with g := { sBusy.g with accs := [] } }
         ownAccesses s = [] ∧ releaseTokens .fab s ≠ [])
      ∧ Rules.durable s0 .mantle ∧ Rules.durable sBusy .fab := by
  unfold Rules.inPlace Rules.durable; decide +kernel

/-- A split whose write to a MANTLE page was lost. -/
theorem witness_not_durable : ¬Rules.durable (withSp fun p => { p with strands := [3] }) .mantle := fun h => by
  have := (h rfl).1
  cases this

/-! ### Class 6 -/

/-- A deque of 2^log elements at virtual address 0x50000, with its descriptors for lanes 0 and 31. -/
def sDq (top bottom log : Nat) : State :=
  { withG (fun g => { g with v := [(4 * 32, 1), (4 * 32 + 31, 2), (10 * 32, 0), (10 * 32 + 31, 64)] }) with
    mem := [0, 64].foldl (fun m o => (((m.writeN (B + 0x4040000 + o) 8 top).writeN (B + 0x4040008 + o) 8 bottom).writeN
      (B + 0x4040010 + o) 8 0x50000).writeN (B + 0x4040018 + o) 8 log) tables }

theorem witness_atomics_issue :
    (∃ q, Rules.sa s0 (.atcas (sa 2 1 true)) = some q ∧ (q.legal && addrOk s0 q.m.va q.m.sb) = true ∧ q.m.ls = 0
        ∧ Rules.inPlace s0 (Rules.saForm s0 q) ∧ ∀ a ∈ (Rules.saForm s0 q).accesses s0, linePoisoned s0 a = false ∧ mirrorAwaited s0 a = false)
      ∧ (∃ q, Rules.sa (sDq 0 2 1) (.dqpop (sa 10 1 false)) = some q ∧ (q.legal && addrOk (sDq 0 2 1) q.m.va q.m.sb) = true ∧ q.m.ls = 0
        ∧ Rules.inPlace (sDq 0 2 1) (Rules.saForm (sDq 0 2 1) q) ∧ ∀ a ∈ (Rules.saForm (sDq 0 2 1) q).accesses (sDq 0 2 1), linePoisoned (sDq 0 2 1) a = false ∧ mirrorAwaited (sDq 0 2 1) a = false) := by
  unfold Rules.inPlace
  exact ⟨⟨_, rfl, by decide +kernel⟩, ⟨_, rfl, by decide +kernel⟩⟩

/-- A pair that ends past W; no active lane; a lane that is misaligned. -/
theorem witness_atomic_checks :
    (∃ q, Rules.sa s0 (.atadd { sa 2 1 true with vd := 15 }) = some q ∧ (q.legal && addrOk s0 q.m.va q.m.sb) = false)
      ∧ (let s := sFar 64 fun g => { g with em := 0 }
         ∃ q, Rules.sa s (.atadd (sa 2 1 false)) = some q ∧ (q.legal && addrOk s q.m.va q.m.sb) = true ∧ s.active = 0)
      ∧ ∃ q, Rules.sa (sFar 4 id) (.atadd (sa 2 1 true)) = some q ∧ (q.legal && addrOk (sFar 4 id) q.m.va q.m.sb) = true
          ∧ (Rules.saForm (sFar 4 id) q).failure (sFar 4 id) = some (0x06, 31) ∧ (sFar 4 id).active ≠ 0 :=
  ⟨⟨_, rfl, by decide +kernel⟩, ⟨_, rfl, by decide +kernel⟩, ⟨_, rfl, by decide +kernel⟩⟩

/-- Lane 0 of an atomic on two lanes, and the compare value that matches. -/
theorem witness_atomic_lane : ∀ w ∈ [false, true], ∀ op ∈ [0, 9, 10],
    let a := { access (.atomic op w) (B + 0x4040008) (B + 0x4040008) with
               lanes := [{ lane := 31, va := 0x40008, pa := B + 0x4040008, x := if w then 2 ^ 64 - 1 else 2 ^ 32 - 1 },
                         { lane := 0, va := 0x40008, pa := B + 0x4040008, x := 1 }] }
    (sAcc a).g.life = .live ∧ (sAcc a).g.accs.find? (fun x => x.id == a.id) = some a ∧ a.held = false ∧ a.after = []
      ∧ laneOwned (sAcc a).g a 31 = true ∧ paTier (B + 0x4040008) < 3 ∧ (∀ x ∈ a.lanes, Rules.soundLine (sAcc a) x)
      ∧ (B + 0x4040008) % (if w then 8 else 4) = 0 ∧ (∀ i, i < 8 → hostKey (sAcc a) (B + 0x4040008 + i) = none)
      ∧ a.mantle = none ∧ isDegraded (sAcc a) (B + 0x4040008) 0 = false ∧ ∀ l ∈ a.lanes, l.x < 2 ^ (if w then 64 else 32) := by
  unfold Rules.soundLine; decide +kernel

theorem witness_atomic_bytes (op : Nat) (w : Bool) :
    Rules.Distinct (sAcc { access (.atomic op w) (B + 0x4040008) (B + 0x4040008) with lanes := [] }) (B + 0x4040008) 8 :=
  distinct_device fun i hi => by interval_cases i <;> rfl

/-- The last lane of an atomic on a mirrored page. -/
theorem witness_mirrored_atomic :
    let a := { access (.atomic 0 true) (B + 0x8000000) 0 with
               lanes := [{ lane := 31, va := 0x4000000, pa := B + 0x8000000, pte := B + 0x8000077, x := 5 }] }
    (sAcc a).g.accs.find? (fun x => x.id == a.id) = some a ∧ laneOwned (sAcc a).g a 31 = true ∧ paTier (B + 0x8000000) < 3
      ∧ isDegraded (sAcc a) (B + 0x8000000) (B + 0x8000077) = false ∧ a.mantle = none ∧ pteMirror (B + 0x8000077) = true
      ∧ (∀ x ∈ a.lanes, Rules.soundLine (sAcc a) x) := by
  unfold Rules.soundLine; decide +kernel

/-- Reductions of words to one address of two lanes, and of doubles. -/
theorem witness_reductions :
    Rules.reduction (.rdmin (mms 2 1 .rel)) = some (1, 4, mms 2 1 .rel) ∧ Rules.reduction (.rddadd (mms 2 1 .rlx)) = some (7, 8, mms 2 1 .rlx)
      ∧ ∀ n ∈ [4, 8], (dataOk (sOps 62 .post) n 14 && addrOk (sOps 62 .post) 2 1) = true
          ∧ (Rules.accessForm (sOps 62 .post) 2 1 false n .write false).failure (sOps 62 .post) = none
          ∧ (sOps 62 .post).active ≠ 0 ∧ counter .post (sOps 62 .post).g.sp < 63 := by
  decide +kernel

/-- Orders that no reduction has; a pair past W; no active lane. -/
theorem witness_reduction_checks :
    (Order.sc ≠ .rlx ∧ Order.sc ≠ .rel) ∧ (dataOk s0 8 15 && addrOk s0 2 1) = false
      ∧ (dataOk (sFar 64 fun g => { g with em := 0 }) 8 14 && addrOk (sFar 64 fun g => { g with em := 0 }) 2 1) = true
      ∧ (sFar 64 fun g => { g with em := 0 }).active = 0 := by
  decide +kernel

/-- A team's record: members, expected and arrived arrivals, at TR (virtual address 0x30000, scalar s7). -/
def record (members expected arrived : Nat) : Bytes :=
  ((((tables.writeN TR 2 arrived).writeN (TR + 2) 2 expected).writeN (TR + 4) 4 0xFFFFFFFF).writeN (TR + 16) 4 members).writeN (TR + 20) 4 5

def sTeam (m : Bytes) (f : Group → Group) : State := { withG (fun g => f { g with team := some TR, teamId := 5, teamVa := 0x30000 }) with mem := m }

/-- A group's split that is not its whole group. -/
def sApart : State := withG fun g => { g with sp := { g.sp with lanes := 0x7FFFFFFF }, sibs := [{ split0 with idx := 1, lanes := 0x80000000 }] }

/-- The first member; a further one; a record that refuses its members; the group's own team; a split that is not its group. -/
theorem witness_tjoin :
    converged sApart = false ∧ Rules.uniformAt sApart (readS sApart 7) 64 .write { lane := 0, va := 0x30000, pa := TR, pte := B + 0x400009F }
      ∧ (∀ m ∈ [record 0 0 0, record 1 1 0, record 1 65535 0],
          let s := sTeam m fun g => { g with team := none }
          (joinRefused (closeLine TR s) TR = true ↔ m = record 1 65535 0) ∧ onAnchorCore TR (closeLine TR s) = true
            ∧ (∀ i, i < 64 → hostKey (closeLine TR s) (TR + i) = none) ∧ converged s = true ∧ Rules.uniformAt s (readS s 7) 64 .write { lane := 0, va := 0x30000, pa := TR, pte := B + 0x400009F }
            ∧ s.g.team = none ∧ recordWaits (isPrivate s 0x30000) TR s = false ∧ onAnchorCore TR s = true)
      ∧ (teamIds (sTeam (record 0 0 0) fun g => { g with team := none }) (paPkg TR)).length < 65536
      ∧ (sTeam (record 1 1 0) id).g.team = some TR ∧ converged (sTeam (record 1 1 0) id) = true
      ∧ (let s := sTeam (record 0 0 0) fun g => { g with team := none, accs := sBusy.g.accs }
         converged s = true ∧ Rules.uniformAt s (readS s 7) 64 .write { lane := 0, va := 0x30000, pa := TR, pte := B + 0x400009F }
          ∧ s.g.team ≠ some TR ∧ recordWaits (isPrivate s 0x30000) TR s = true) := by
  unfold Rules.uniformAt; decide +kernel

/-- A group on core 0 would join a team whose lease lies on core 1. -/
theorem witness_tjoin_elsewhere :
    let s := { sTeam (record 1 1 0) (fun g => { g with team := none }) with leases := [{ lease0 with core := 1 }] }
    converged s = true ∧ Rules.uniformAt s (readS s 7) 64 .write { lane := 0, va := 0x30000, pa := TR, pte := B + 0x400009F }
      ∧ s.g.team = none ∧ recordWaits (isPrivate s 0x30000) TR s = false ∧ joinRefused (closeLine TR s) TR = false ∧ onAnchorCore TR (closeLine TR s) = false := by
  unfold Rules.uniformAt; decide +kernel

/-- The last member leaves; one whose leave completes the barrier; one that the barrier has counted. -/
theorem witness_tleave :
    (converged s0 = true ∧ s0.g.team = none) ∧ converged sApart = false
      ∧ ∀ s ∈ [sTeam (record 1 1 0) id, sTeam (record 2 2 1) id, sTeam (record 2 2 1) fun g => { g with note := some 0xFFFFFFFF }],
          converged s = true ∧ s.g.team = some TR ∧ recordWaits (isPrivate s s.g.teamVa.toNat) TR s = false
            ∧ s.g.diag = false ∧ s.g.life = .live ∧ TR % 64 = 0 ∧ (∀ i, i < 64 → hostKey s (TR + i) = none) := by
  decide +kernel

/-- The bytes of the record are distinct. -/
theorem witness_record_bytes : Rules.Distinct (sTeam (record 1 1 0) id) TR 64 := distinct_device fun i hi => by
  have h : ∀ i, i < 64 → hostKey (sTeam (record 1 1 0) id) (TR + i) = none := by decide +kernel
  exact h i hi

/-- A member of a diagnostic group, and what its BARRIVE, BARSYNC, TLEAVE and LEASE meet. -/
theorem witness_diagnostic_member :
    let s := sTeam (record 1 1 0) fun g => { g with diag := true }
    converged s = true ∧ s.g.team = some TR ∧ s.g.diag = true ∧ counter .sync s.g.sp < 63 ∧ s.g.sp.wonly = false
      ∧ (∃ keep, liveSetAt s (instrPc s).toNat 0 = .ok keep) ∧ s.g.sp.part = some 0 :=
  ⟨by decide +kernel, rfl, rfl, by decide +kernel, rfl, ⟨ls0, by decide +kernel⟩, rfl⟩

theorem witness_tleave_waits :
    let s := sTeam (record 1 1 0) fun g => { g with accs := sBusy.g.accs }
    converged s = true ∧ s.g.team = some TR ∧ recordWaits (isPrivate s s.g.teamVa.toNat) TR s = true := by
  decide +kernel

theorem witness_arrivals :
    let s := { sTeam (record 2 2 1) (fun g => { g with sp := { g.sp with ops := (sOps 62 .sync).g.sp.ops } }) with packets := [] }
    counter .sync s.g.sp < 63 ∧ converged s = true ∧ s.g.team = some TR ∧ Rules.liveSetKnown s 0 ∧ s.g.sp.wonly = false
      ∧ Rules.uniformAt s (readS s 1) 8 .write { lane := 0, va := 0x40000, pa := B + 0x4040000, pte := B + 0x400009F }
      ∧ (counter .sync s0.g.sp < 63 ∧ converged s0 = true ∧ s0.g.team = none ∧ Rules.liveSetKnown s0 0 ∧ s0.g.sp.wonly = false) := by
  refine ⟨by decide +kernel, by decide +kernel, by decide +kernel, ⟨ls0, .inr ⟨rfl, by decide +kernel⟩⟩, by decide +kernel, ?_,
    by decide +kernel, by decide +kernel, by decide +kernel, live_set_known, by decide +kernel⟩
  unfold Rules.uniformAt; decide +kernel


/-- s0 whose clause issued as one of an anchored group. -/
def sAnch (s : State) : State := s.setSp fun p => { p with clause := { p.clause with anch := true } }

/-- A member whose arrival was noted at the largest generation but one. -/
def sNoted : State := sTeam (record 1 1 0) fun g => { g with note := some 0xFFFFFFFE }

/-- The barrier of the team, a generation word and a signal at this home, of an anchored and of a roaming split, and a signal at
home 1. -/
theorem witness_waits :
    (∀ s ∈ [sNoted, sAnch sNoted], s.g.sp.tail = none ∧ converged s = true ∧ counter .sync s.g.sp = 0 ∧ s.g.team = some TR
        ∧ s.g.note = some 0xFFFFFFFE ∧ liveSetAt s (instrPc s).toNat (0 : BitVec 6).toNat = .ok ls0
        ∧ isPrivate s s.g.teamVa.toNat = false
        ∧ mustPrecede s false [(TR + 4, 4)] = false ∧ homeOfPa (TR + 4) = s.g.sp.home ∧ s.g.sp.ops = [] ∧ ownAccesses s = [])
      ∧ sNoted.g.sp.clause.anch = false ∧ (sAnch sNoted).g.sp.clause.anch = true
      ∧ (∀ s ∈ [s0, sAnch s0], s.g.sp.tail = none ∧ liveSetAt s (instrPc s).toNat (0 : BitVec 6).toNat = .ok ls0
          ∧ isPrivate s 0x40000 = false
          ∧ Rules.uniformAt s (readS s 1) 4 .read { lane := 0, va := 0x40000, pa := B + 0x4040000, pte := B + 0x400009F }
          ∧ Rules.uniformAt s (readS s 1) 8 .read { lane := 0, va := 0x40000, pa := B + 0x4040000, pte := B + 0x400009F }
          ∧ mustPrecede s false [(B + 0x4040000, 8)] = false)
      ∧ (Rules.uniformAt s0 (readS s0 6) 8 .read { lane := 0, va := 0x8000000, pa := B + 2 ^ 44, pte := B + 2 ^ 44 + 0x1F }
          ∧ mustPrecede s0 false [(B + 2 ^ 44, 8)] = false ∧ isPrivate s0 0x8000000 = false ∧ homeOfPa (B + 2 ^ 44) ≠ s0.g.sp.home) := by
  unfold Rules.uniformAt; decide +kernel

/-- BARWAIT, GENWAIT and SIGWAIT, with the words that they watch. -/
theorem witness_waits_on : Rules.waitsOn sNoted (.barwait 0) 0 { pa := TR + 4, cond := .gen 0xFFFFFFFF } false
    ∧ Rules.waitsOn s0 (.genwait 0 1 2) 0 { pa := B + 0x4040000, cond := .gen 3 } false
    ∧ Rules.waitsOn s0 (.sigwait 0 6 2) 0 { pa := B + 2 ^ 44, cond := .sig 3 } false := by
  refine ⟨⟨rfl, .inl rfl, by decide +kernel, rfl, by decide +kernel, by decide +kernel, _, _, rfl, rfl, rfl⟩, ⟨rfl,
    { lane := 0, va := 0x40000, pa := B + 0x4040000, pte := B + 0x400009F }, ?_, by decide +kernel, by decide +kernel⟩, rfl,
    { lane := 0, va := 0x8000000, pa := B + 2 ^ 44, pte := B + 2 ^ 44 + 0x1F }, ?_, by decide +kernel, by decide +kernel⟩
  · unfold Rules.uniformAt; decide +kernel
  · unfold Rules.uniformAt; decide +kernel

theorem witness_wait_ends :
    let w : Wait := { pa := TR + 4, cond := .gen 1 }
    let s := withSp fun p => { p with status := .waiting, wait := some w, woken := true }
    let u := s.setSp fun p => { p with part := none }
    s.g.life = .live ∧ s.g.sp.status = .waiting ∧ s.g.sp.wait = some w ∧ s.g.sp.woken = true ∧ s.g.sp.stopped = false
      ∧ s.g.sp.move = none ∧ s.g.sp.part.isSome = true ∧ s.g.handler = .none
      ∧ (u.g.sp.wait = some w ∧ u.g.sp.woken = true ∧ u.g.sp.part = none ∧ wantsStop u.g = false) := by
  decide +kernel

/-- A lease of the whole scratchpad; of one byte too many; a second member; a group that holds one. -/
theorem witness_leases :
    (∀ n ∈ ([262144, 262272] : List Nat), let s := sTeam (record 1 1 0) (fun g => { g with sp := { g.sp with s := [(1, BitVec.ofNat 64 n)] } })
        converged s = true ∧ s.g.team = some TR ∧ s.g.sp.part = some 0 ∧ recMembers s TR ≤ 1 ∧ leaseOf s s.g = none
        ∧ (readS s 1).toNat = n ∧ runFree s (partCore 0) 0 262144 = true)
      ∧ (let s := sTeam (record 2 2 0) id
         converged s = true ∧ s.g.team = some TR ∧ s.g.sp.part = some 0 ∧ 1 < recMembers s TR ∧ leaseOf s s.g = none)
      ∧ (let s := sLease 0 124
         converged s = true ∧ s.g.team = some TR ∧ s.g.sp.part = some 0 ∧ (leaseOf s s.g).isSome = true ∧ counter .copy s.g.sp = 0) := by
  decide +kernel

/-- A member whose core's scratchpad another team holds. -/
def sFull : State := { sTeam (record 1 1 0) id with leases := [{ lease0 with team := TR + 64, base := 0, len := 262144 }] }

theorem full_core (b : Nat) : runFree sFull (partCore 0) b 128 = false := by
  simp [runFree, sFull, lease0, runsMeet, partCore, Config.scratchBytes]
  omega

theorem witness_full_core : converged sFull = true ∧ sFull.g.team = some TR ∧ sFull.g.sp.part = some 0
    ∧ freeRun sFull (partCore 0) 128 = none := by
  refine ⟨by decide +kernel, by decide +kernel, by decide +kernel, ?_⟩
  simp only [freeRun, full_core]
  decide +kernel

/-- No member and a split that is not its group; a lease that a copy still uses. -/
theorem witness_lease_faults :
    (converged s0 = true ∧ s0.g.team = none) ∧ converged sApart = false
      ∧ (let s := (sLease 0 124).setSp fun p => { p with ops := [{ id := 9, cls := .copy }] }
         converged s = true ∧ s.g.team = some TR ∧ s.g.sp.part = some 0 ∧ (leaseOf s s.g).isSome = true ∧ counter .copy s.g.sp ≠ 0) := by
  decide +kernel

/-- Two splits of a group; the other stands at seam 15. -/
def sSeam (cohort : LaneSet) : State := withG fun g =>
  { g with seams := [(15, { arrived := 0xFFFF0000, cohort := cohort })], sp := { g.sp with lanes := 0x0000FFFF }
           sibs := [{ split0 with idx := 1, lanes := 0xFFFF0000, status := .atSeam, seam := 15, part := some 1 }] }

theorem witness_seams :
    (Rules.liveSetKnown (sSeam 0xFFFF0000) 0 ∧ Rules.liveSetKnown (sSeam 0xFFFFFFFF) 0) ∧ Rules.liveSetKnown s0 0
      ∧ (s0.g.seam 0).arrived ||| s0.g.sp.lanes = (s0.g.seam 0).cohort ||| s0.g.sp.lanes
      ∧ (let s := withG fun g => { g with seams := [(0, { cohort := 0xFFFFFFFF })], sp := { g.sp with lanes := 0x0000FFFF } }
         (s.g.seam 0).arrived ||| s.g.sp.lanes ≠ (s.g.seam 0).cohort ||| s.g.sp.lanes)
      ∧ (let s := sSeam 0xFFFFFFFF
         let x := { split0 with idx := 1, lanes := 0xFFFF0000, status := .atSeam, seam := 15, part := some 1 }
         (s.g.seam 15).arrived ||| s.g.sp.lanes = (s.g.seam 15).cohort ||| s.g.sp.lanes ∧ wantsStop s.g = false ∧ s.g.sup = false
          ∧ s.g.sibs = [x] ∧ x.status = .atSeam ∧ x.seam = (15 : BitVec 4).toNat ∧ x.idx ≠ s.g.sp.idx ∧ x.home = s.g.sp.home
          ∧ x.stopped = false ∧ x.joins = none ∧ x.part.isSome = true ∧ s.g.sp.part.isSome = true)
      ∧ counter .copy (sOps 63 .copy).g.sp ≤ (63 : BitVec 6).toNat ∧ (62 : BitVec 6).toNat < counter .copy (sOps 63 .copy).g.sp := by
  exact ⟨⟨⟨ls0, .inr ⟨rfl, by decide +kernel⟩⟩, ls0, .inr ⟨rfl, by decide +kernel⟩⟩, live_set_known, by decide +kernel⟩

/-- A deque of two elements: full, empty, in between with its counts at their ends; and one of 2^21 elements, which is none. -/
theorem witness_deques :
    let d := B + 0x4040000
    let l : LaneAccess := { lane := 0, va := 0x40000, pa := d, x := 9 }
    (isDegraded (sDq 0 2 1) l.pa l.pte = false ∧ paTier l.pa < 2 ∧ l.pa % 64 = 0)
      ∧ dqMalformed (sDq 0 0 21) d = true
      ∧ (dqMalformed (sDq 0 2 1) d = false ∧ dqSize (sDq 0 2 1) d = 2 ^ dqLog (sDq 0 2 1) d)
      ∧ (dqMalformed (sDq 5 5 1) d = false ∧ dqSize (sDq 5 5 1) d = 0)
      ∧ (let s := sDq (2 ^ 64 - 1) 0 1
         dqMalformed s d = false ∧ dqSize s d = 1 ∧ 2 ^ dqLog s d = 2 ∧ dqElem s d (dqBottom s d) = some (B + 0x4050000, B + 0x400009F)
          ∧ dqElem s d ((dqBottom s d + 2 ^ 64 - 1) % 2 ^ 64) = some (B + 0x4050008, B + 0x400009F)
          ∧ dqElem s d (dqTop s d) = some (B + 0x4050008, B + 0x400009F)
          ∧ isDegraded s (B + 0x4050000) (B + 0x400009F) = false ∧ (∀ o ∈ [0, 8], Rules.soundLine s { l with pa := B + 0x4050000 + o, pte := B + 0x400009F }) ∧ paTier (B + 0x4050008) < 2 ∧ d + 64 ≤ B + 0x4050000) := by
  unfold Rules.soundLine; decide +kernel

theorem witness_deque_lane : ∀ k ∈ [.dqpush true, .dqpop false, .dqsteal true],
    let a := { access k (B + 0x4040000) (B + 0x4040040) with vd := 14, vs := 12 }
    let s := { sAcc a with mem := (sDq 0 1 1).mem }
    s.g.life = .live ∧ s.g.accs.find? (fun x => x.id == a.id) = some a ∧ a.held = false ∧ a.after = []
      ∧ laneOwned s.g a 0 = true ∧ a.mantle = none
      ∧ ∀ x ∈ lanesRead a a.lanes s, Rules.soundLine s x.2 := by
  unfold Rules.soundLine; decide +kernel
/-! ### Classes 4 and 5 -/

def mxw (shape : BitVec 5) (fs : BitVec 3) (a : VReg) (desc : SReg) : MX :=
  { shape := shape, fs := fs, reuse := false, a := a, desc := desc, acc := false, neg := false, trb := false, evt := false }

/-- A group of n tile rows, 62 operations outstanding, whose s8, s9 and s10 are tile descriptors (the last with a reserved bit), and
whose slots 1 and 2 name nested planes and scaled E4M3. -/
def sTile (n : Nat) : State := withG fun g =>
  { g with tileRows := n, fs := [(1, 0x2066), (2, 0x0103)]
           v := [(2 * 32, 8), (2 * 32 + 31, 72), (10 * 32, 0xFFFC), (10 * 32 + 31, 0x1FFFC)]
           sp := { g.sp with s := [(8, 0x0000000038080000), (9, 0x0000000030080000), (10, 0x4000)], ops := (sOps 62 .matrix).g.sp.ops } }

def issuable (s : State) (m : MX) (n : Nat) (scaled : Bool) (xs : List Extent) : Bool :=
  readS s m.desc &&& 0xFFFFC000C000C000 == 0 && (n == 0 || m.a.toNat + n ≤ s.g.w) && (!scaled || m.desc != 63)
    && xs.all fun x => x.row + x.rows ≤ s.g.tileRows && x.byte + x.bytes ≤ 256

/-- Products and moves whose registers end at v15, whose last word is word 63 of a row, and whose last row is the group's last one;
one lane's words cross a page. -/
theorem witness_matrix_issue :
    counter .matrix (sTile 16).g.sp < 63 ∧ converged (sTile 16) = true
      ∧ (∃ n z xs, Rules.matrix (sTile 16) (.mma (mxw 0x11 0 8 8)) = some (0, mxw 0x11 0 8 8, true, n, z, xs)
          ∧ issuable (sTile 16) (mxw 0x11 0 8 8) n z xs = true)
      ∧ (∃ n z xs, Rules.matrix (sTile 40) (.mmaz (mxw 0x00 2 8 9)) = some (1, mxw 0x00 2 8 9, true, n, z, xs)
          ∧ issuable (sTile 40) (mxw 0x00 2 8 9) n z xs = true)
      ∧ (∃ n z xs, Rules.matrix (sTile 40) (.mmnp (mxw 0x18 1 9 9)) = some (2, mxw 0x18 1 9 9, true, n, z, xs)
          ∧ issuable (sTile 40) (mxw 0x18 1 9 9) n z xs = true)
      ∧ (∃ n z xs, Rules.matrix (sTile 72) (.mctr (mxw 0x14 0 0 8)) = some (3, mxw 0x14 0 0 8, true, n, z, xs)
          ∧ issuable (sTile 72) (mxw 0x14 0 0 8) n z xs = true)
      ∧ (∀ op i, (op, i) ∈ [(4, Instr.tldv (mxw 7 0 8 8)), (5, .tstv (mxw 7 0 8 8)), (6, .tzero (mxw 7 0 0 8)), (7, .tepi (mxw 3 0 0 8))] →
          ∃ m n z xs, Rules.matrix (sTile 40) i = some (op, m, true, n, z, xs) ∧ issuable (sTile 40) m n z xs = true)
      ∧ (∀ op i, (op, i) ∈ [(8, Instr.taddst (mxw 0 0 10 8)), (9, .tstore (mxw 0 0 10 8))] →
          ∃ m n z xs, Rules.matrix (sTile 40) i = some (op, m, true, n, z, xs) ∧ issuable (sTile 40) m n z xs = true
            ∧ m.a.toNat % 2 = 0 ∧ (rangeForm m (sTile 40)).failure (sTile 40) = none) ∧ rowsHeld (sTile 40).g = 40 := by
  refine ⟨by decide +kernel, by decide +kernel, ⟨_, _, _, rfl, by decide +kernel⟩, ⟨_, _, _, rfl, by decide +kernel⟩,
    ⟨_, _, _, rfl, by decide +kernel⟩, ⟨_, _, _, rfl, by decide +kernel⟩, ?_, ?_, by decide +kernel⟩
  · intro op i h
    simp only [List.mem_cons, Prod.mk.injEq, List.not_mem_nil, or_false] at h
    rcases h with ⟨rfl, rfl⟩ | ⟨rfl, rfl⟩ | ⟨rfl, rfl⟩ | ⟨rfl, rfl⟩ <;> exact ⟨_, _, _, _, rfl, by decide +kernel⟩
  · intro op i h
    simp only [List.mem_cons, Prod.mk.injEq, List.not_mem_nil, or_false] at h
    rcases h with ⟨rfl, rfl⟩ | ⟨rfl, rfl⟩ <;>
      exact ⟨_, _, _, _, rfl, by decide +kernel⟩

/-- No shape of MMA has code 0x04. -/
theorem witness_no_shape : shapeOf (mxw 0x04 0 8 8).shape = none := by decide

/-- A shape that none is; registers from v9 on past v15; a reserved descriptor bit; one row too few. -/
theorem witness_matrix_checks :
    (∃ xs, Rules.matrix (sTile 40) (.mmnp (mxw 0x19 1 9 9)) = some (2, mxw 0x19 1 9 9, false, 7, false, xs))
      ∧ (∃ xs, Rules.matrix (sTile 40) (.mma (mxw 0x11 0 9 8)) = some (0, mxw 0x11 0 9 8, true, 8, false, xs)
          ∧ ¬((mxw 0x11 0 9 8).a.toNat + 8 ≤ (sTile 40).g.w))
      ∧ (∃ xs, Rules.matrix (sTile 40) (.tzero (mxw 0 0 0 10)) = some (6, mxw 0 0 0 10, true, 0, false, xs)
          ∧ ¬(readS (sTile 40) 10 &&& 0xFFFFC000C000C000 = 0))
      ∧ ∃ xs, Rules.matrix (sTile 15) (.mma (mxw 0x11 0 8 8)) = some (0, mxw 0x11 0 8 8, true, 8, false, xs)
          ∧ readS (sTile 15) 8 &&& 0xFFFFC000C000C000 = 0 ∧ (mxw 0x11 0 8 8).a.toNat + 8 ≤ (sTile 15).g.w
          ∧ ¬(∀ x ∈ xs, x.row + x.rows ≤ (sTile 15).g.tileRows ∧ x.byte + x.bytes ≤ 256) := by
  refine ⟨⟨_, rfl⟩, ⟨_, rfl, by decide +kernel⟩, ⟨_, rfl, by decide +kernel⟩, ⟨_, rfl, by decide +kernel⟩⟩

/-- TSTORE whose highest lane's words have no page; MREL of a split that is not its whole group. -/
theorem witness_store_checks :
    (let s := { sTile 40 with g := { (sTile 40).g with v := [(10 * 32, 0xFFFC), (10 * 32 + 31, 0x10000000)] } }
     ∃ xs, Rules.matrix s (.tstore (mxw 0 0 10 8)) = some (9, mxw 0 0 10 8, true, 2, false, xs)
       ∧ issuable s (mxw 0 0 10 8) 2 false xs = true ∧ counter .matrix s.g.sp < 63
       ∧ (∃ k, (rangeForm (mxw 0 0 10 8) s).failure s = some (0x07, k) ∧ k / 2 = 31))
      ∧ converged sApart = false :=
  ⟨⟨_, rfl, by decide +kernel, by decide +kernel, 62, by decide +kernel⟩, by decide +kernel⟩

/-- A matrix operation that has issued. -/
def mop (op : Nat) (shape : BitVec 5) (slot : BitVec 16) (desc : DWord) (consumed : Bool) : MtxOp :=
  { id := 9, sp := 0, op := op, m := mxw shape 0 8 8, slot := slot, desc := desc, act := 0x80000001, consumed := consumed
    tile := [(8 * 256 + 255, 1)], a := [(8 * 32, 5), (8 * 32 + 31, 6)], pc := 0x10004, hdr := 0x10000 }

def sOp (o : MtxOp) : State :=
  withG fun g => { g with tileRows := 72, tile := [(8 * 256 + 255, 2)], mtx := [o], sp := { g.sp with ops := [{ id := 9, cls := .matrix }] } }

/-- Moves of 8 registers at the last words of the rows, before and behind their operands-consumed event, and MREL. -/
theorem witness_tile_moves : ∀ o ∈ [mop 4 7 0 0x38080000 false, mop 4 7 0 0x38080000 true, mop 5 7 0 0x38080000 true, mop 6 7 0 0x3F080000 true,
      mop 10 0 0 0 true],
    (sOp o).g.life = .live ∧ headOp (sOp o).g = some o ∧ o.bad = none ∧ o.inject = false ∧ (∀ x ∈ (sOp o).g.mtx, x.id = o.id → x = o)
      ∧ o.after = [] ∧ o.rows = [] ∧ o.spoilt = [] ∧ (sOp o).g.poisonTile = [] ∧ (o.op = 5 → dE0 o.desc + (o.m.shape.toNat + 1) ≤ 64)
      ∧ (sOp o).g.copies = [] ∧ (∀ x ∈ (sOp o).g.mtx, x.sent = false) ∧ o.act ≠ 0 ∧ o.drows = []
      ∧ (o.op = 4 ∨ o.op = 10 → o.outs.getD (matrixRows o) = []) ∧ (o.op = 5 ∨ o.op = 6 → o.outs.getD (matrixRows o) ≠ []) := by
  decide +kernel

/-- An operation with two operand rows still to read; with one; with a D row; with all its rows written. -/
theorem witness_row_steps :
    (∀ r ∈ [[8, 9], [9]], let o := { mop 4 7 0 0x38080000 false with rows := r }
        headOp (sOp o).g = some o ∧ o.consumed = false ∧ o.spoilt = [] ∧ (∀ x ∈ (sOp o).g.mtx, x.id = o.id → x = o)
          ∧ (∀ x ∈ o.after, stillPending (sOp o) x = false) ∧ ∀ k ∈ o.rows, Cells.get false (sOp o).g.poisonTile k = false)
      ∧ (let o := { mop 0 0x11 0 0x38080000 true with drows := [8] }
         headOp (sOp o).g = some o ∧ o.op ≠ 10 ∧ (∀ x ∈ (sOp o).g.mtx, x.id = o.id → x = o) ∧ Cells.get false (sOp o).g.poisonTile 8 = false)
      ∧ (let o := { mop 6 7 0 0x3F080000 true with outs := some [] }
         headOp (sOp o).g = some o ∧ o.op < 8 ∧ o.bad = none ∧ o.inject = false ∧ o.drows = [] ∧ o.outs.getD (matrixRows o) = []) := by
  decide +kernel

/-- TADDST and TSTORE whose rows are read, with two words in each of two lines. -/
def sPost (op : Nat) : MtxOp :=
  { mop op 0 0 0x38080000 true with dests := [{ lane := 0, va := 0x40008, pa := B + 0x4040008, x := 0, c := 2 },
                                              { lane := 31, va := 0x4000C, pa := B + 0x404000C, x := 0, c := 2 }] }

theorem witness_words_posted : ∀ o ∈ [sPost 8, sPost 9],
    headOp (sOp o).g = some o ∧ o.consumed = true ∧ o.drows = [] ∧ o.outs.getD (matrixRows o) = [] ∧ o.bad = none ∧ (∃ a ∈ o.dests, a.c ≠ 0)
      ∧ (∀ a ∈ o.dests, a.pa % 4 = 0)
      ∧ o.dests.Pairwise fun a b => a.lane < b.lane ∨ (a.lane = b.lane ∧ (a.pa + 4 * a.c ≤ b.pa ∨ b.pa + 4 * b.c ≤ a.pa)) := by
  decide +kernel

/-- MMA and MMAZ of FP32 and of scaled E4M3; MMNP; MCTR along each axis. -/
theorem witness_products :
    ((0x11, 8, 8, 8, 4, 1) ∈ Rules.shapes ∧ Rules.takes 4 (slotOf 0).efmt = true ∧ (slotOf 0).scale = 0 ∧ dE0 0x38080000 + 8 = 64)
      ∧ ((0x00, 32, 16, 32, 1, 32) ∈ Rules.shapes ∧ Rules.takes 1 (slotOf 0x103).efmt = true ∧ (slotOf 0x103).scale = 1 ∧ dE0 0x30080000 + 16 = 64)
      ∧ (slotOf 0x2066).multiplyOk [6] = true ∧ behindTepi (sOp (mop 2 0x18 0x2066 0x30080000 true)).g 9 = false
      ∧ ∀ o ∈ [mop 0 0x11 0 0x38080000 true, mop 1 0x00 0x103 0x30080000 true, mop 2 0x18 0x2066 0x30080000 true, mop 3 0x14 0 0x38080000 true,
          mop 3 0x16 0 0x38080000 true], (sOp o).g.life = .live ∧ headOp (sOp o).g = some o ∧ o.consumed = true ∧ o.act ≠ 0 := by
  decide +kernel

/-- TEPI of two words for each lane to E4M3 at the end of a row's places, with a count word; and without an active lane. -/
theorem witness_tepi : let o := mop 7 0 0x3 0x3E080000 true
    o.op = 7 ∧ ((slotOf o.slot).generalOk && decide ((slotOf o.slot).efmt ≤ 5 ∧ (slotOf o.slot).scale ≤ 1)) = true
      ∧ dE0 o.desc + 2 = 64 ∧ 4 * dC0 o.desc + 2 * efmtBytes (slotOf o.slot).efmt ≤ 256 ∧ 4 * dSC0 o.desc + 4 ≤ 256
      ∧ behindTepi (sOp o).g o.id = false ∧ (sOp o).g.ovfLate = [] ∧ o.act ≠ 0 ∧ ({ o with act := 0 } : MtxOp).act = 0 := by
  decide +kernel

/-- A group with a lease of 256 bytes and one tile row; s8 to s10 are places: the whole lease, the tile row, and its last word. -/
def sCopy : State :=
  { withG (fun g => { g with team := some TR, teamId := 5, tileRows := 1
                             sp := { g.sp with s := [(1, 0x40000), (8, 0x10000000000), (9, 0x180000000), (10, 0x180003F00)], ops := (sOps 62 .copy).g.sp.ops } })
    with leases := [{ lease0 with len := 256 }] }

/-- A place word with a reserved bit; a diagnostic group. -/
theorem witness_copy_checks :
    (∃ p z, Rules.copy sCopy (.cpfill 2 1 false) = some (7, false, [p], false, z, true) ∧ placeOk p = false)
      ∧ (let s := { sCopy with g := { sCopy.g with diag := true } }
         ∃ p z, Rules.copy s (.cpfill 2 10 false) = some (7, false, [p], false, z, true) ∧ placeOk p = true ∧ s.g.diag = true) :=
  ⟨⟨_, _, rfl, by decide +kernel⟩, ⟨_, _, rfl, by decide +kernel⟩⟩

theorem witness_copies_issue :
    counter .copy sCopy.g.sp < 63
      ∧ (∀ p ∈ [readS sCopy 8, readS sCopy 9], Rules.placeFits sCopy false p) ∧ Rules.placeFits sCopy true 0x10000000000000
      ∧ (∃ x y z, Rules.copy sCopy (.itld 8 9 false true) = some (0, false, [x, y], false, z, true))
      ∧ (∃ x z, Rules.copy sCopy (.cpin 1 8 true) = some (1, true, [x], false, z, true))
      ∧ (∃ x z, Rules.copy sCopy (.cpga 1 2 8 false) = some (2, false, [x], true, z, true))
      ∧ (∃ z, Rules.copy sCopy (.cpsig 1 2 false) = some (5, false, [], false, z, true))
      ∧ (∃ x z, Rules.copy sCopy (.sweep 1 2 10 false .scrl true 0) = some (6, false, [x], false, z, true))
      ∧ ∃ x z, Rules.copy sCopy (.cpfill 2 10 false) = some (7, false, [x], false, z, true) := by
  have lease : leaseOf sCopy sCopy.g = some { lease0 with len := 256 } := by decide +kernel
  refine ⟨by decide +kernel, ?_, ⟨by decide +kernel, ?_⟩, ⟨_, _, _, rfl⟩, ⟨_, _, rfl⟩, ⟨_, _, rfl⟩, ⟨_, rfl⟩, ⟨_, _, rfl⟩, ⟨_, _, rfl⟩⟩
  · intro p hp
    simp only [List.mem_cons, List.not_mem_nil, or_false] at hp
    rcases hp with rfl | rfl
    · refine ⟨by decide +kernel, ?_⟩
      rw [if_neg (by decide +kernel)]
      exact ⟨_, lease, by decide +kernel⟩
    · exact ⟨by decide +kernel, by decide +kernel⟩
  · rw [if_neg (by decide +kernel)]
    exact ⟨_, lease, by decide +kernel⟩

/-- A started command: CPFILL of the lease's last word, of the last words of two tile rows, and CPIN of two words. -/
def cmd (code : Nat) (c : DWord) : CopyCmd :=
  { id := 9, sp := 0, code := code, flags := 0, a := 0x40000, b := 0x11223344, c := c, core := 0, lease := some 1, started := true
    iter := [0x40000, 0x102, 2, 0, 0, 0, 0, 0], pc := 0x10004, hdr := 0x10000 }

def sCmd (c : CopyCmd) : State :=
  { sLease 0 124 with g := { (sLease 0 124).g with copies := [c], sp := { (sLease 0 124).g.sp with ops := [{ id := 9, cls := .copy }] } } }

theorem witness_copies_write :
    (∀ c ∈ [cmd 7 0x40000007C, cmd 7 0x280003F00, cmd 1 0x800000078], (sCmd c).g.life = .live ∧ (sCmd c).g.copies = [c]
        ∧ c.started = true ∧ c.fault = false ∧ c.wrote = false ∧ c.got = c.index ∧ c.out = [] ∧ c.index < c.total
        ∧ packetsLeft (sCmd c) c.id = false ∧ c.leaseIn (sCmd c) = some lease0)
      ∧ (placeTile (cmd 7 0x40000007C).c = false ∧ lease0.dead = false ∧ placeOff (cmd 7 0x40000007C).c % 4 = 0 ∧ lease0.base % 4 = 0
          ∧ placeN (cmd 7 0x40000007C).c % 4 = 0 ∧ placeOff (cmd 7 0x40000007C).c + placeN (cmd 7 0x40000007C).c = lease0.len)
      ∧ placeTile (cmd 7 0x280003F00).c = true := by
  decide +kernel

/-- CPIN of two words of one line. -/
theorem witness_copy_in : let c := cmd 1 0x800000078
    placeTile c.c = false ∧ recDims c.iter = 1 ∧ recEsz c.iter = 2 ∧ recCount c.iter 0 = 2 ∧ recBase c.iter % 4 = 0 ∧ c.readEnd = c.writeEnd
      ∧ c.writeEnd = 2 ∧ Rules.readsLine (sCmd c) c (recBase c.iter + c.index * 4) (B + 0x4040000) (B + 0x400009F) ∧ paTier (B + 0x4040000) < 3 := by
  unfold Rules.readsLine Rules.lineFor Rules.soundLine; decide +kernel

/-- Commands of every code with two carried words, before their first read: ITLD both ways, CPIN into the lease and into a tile row, CPGA
with a list, CPOUT, CPSC, SWEEP both ways, and CPFILL. -/
def cmds : List CopyCmd :=
  let row : DWord := 0x180000000
  [ { cmd 0 row with a := 0x10000000000 }, { cmd 0 row with a := 0x10000000000, flags := 1 }, cmd 1 0x800000078, cmd 1 row
  , { cmd 2 0x800000000 with iter := [0x40000, 0x202, 2 + 2 ^ 32, 0, 8, 0, 0, 0], list := List.replicate 8 0 }, cmd 3 0x800000078
  , { cmd 4 0x800000000 with iter := [0x40000, 0x202, 2 + 2 ^ 32, 0, 8, 0, 0, 0], list := List.replicate 8 0 }
  , { cmd 6 row with iter := [0x40000, 0x102, 2, 0, 0, 0, 0, 0] }, { cmd 6 row with flags := 8 }, cmd 7 0x40000007C ]

/-- sCmd with a tile row. -/
def sMove (c : CopyCmd) : State := { sCmd c with g := { (sCmd c).g with tileRows := 1 } }

/-- Each command before a read, and with all that it is to write read. -/
theorem witness_copies_move : ∀ c ∈ cmds, let s := sMove c
    s.g.life = .live ∧ s.g.copies = [c] ∧ c.code ≠ 5 ∧ c.started = true ∧ (c.code ≠ 0 → c.code ≠ 7 → startFault c s = none)
      ∧ placeOff c.c % 4 = 0 ∧ (c.code = 0 → placeOff c.a % 4 = 0) ∧ c.fault = false ∧ c.wrote = false ∧ c.wantsList = false
      ∧ c.index ≤ c.got ∧ c.index < c.total ∧ c.index < c.known ∧ packetsLeft s c.id = false ∧ c.got < c.writeEnd
      ∧ (let d := { c with got := c.writeEnd, out := List.replicate c.writeEnd 0x3F }
         d.writeEnd ≤ d.got ∧ d.wantsList = false ∧ packetsLeft (sMove d) d.id = false) := by
  decide +kernel

/-- Where they read and write: memory, a tile row, the lease, and nowhere. -/
theorem witness_copy_spots :
    Rules.readsFrom (cmd 1 0x800000078) 0 = .mem 0x40000 ∧ Rules.readsFrom (cmd 3 0x180000000) 0 = .tile 0
      ∧ Rules.readsFrom (cmd 3 0x800000078) 0 = .lease 0x78 ∧ Rules.readsFrom (cmd 7 0x40000007C) 0 = .nothing
      ∧ Rules.writesTo (cmd 3 0x800000078) 0 = .mem 0x40000 ∧ Rules.writesTo (cmd 1 0x180000000) 0 = .tile 0
      ∧ Rules.writesTo (cmd 1 0x800000078) 0 = .lease 0x78
      ∧ Rules.writesTo { cmd 4 0x800000078 with iter := [0x40000, 0x202, 2 + 2 ^ 32, 0, 8, 0, 0, 0], list := List.replicate 8 9 } 0 = .nothing := by
  decide +kernel

/-- Their lines are sound, their lease lives, and their rows are sound. -/
theorem witness_copy_lines : let c := cmd 3 0x800000078
    Rules.readsLine (sMove c) c 0x40000 (B + 0x4040000) (B + 0x400009F) ∧ Rules.writesLine (sMove c) c 0x40000 (B + 0x4040000) (B + 0x400009F)
      ∧ paTier (B + 0x4040000) < 2 ∧ c.leaseIn (sMove c) = some lease0 ∧ lease0.dead = false
      ∧ Cells.get false (sMove c).g.poisonTile 0 = false ∧ behindTepi (sMove c).g c.id = false ∧ ((sMove c).core 0).poison = [] := by
  unfold Rules.readsLine Rules.writesLine Rules.lineFor Rules.soundLine; decide +kernel

/-- Commands that may start: CPFILL, CPSIG of the last signal of a page, and CPIN with its record at 0x40000. -/
theorem witness_copies_start :
    (∀ c ∈ [{ cmd 7 0x40000007C with started := false }, { cmd 5 0 with started := false, a := 0x3FFFFF8 }, { cmd 1 0x800000078 with started := false, iter := [] }],
        (sCmd c).g.life = .live ∧ (sCmd c).g.copies = [c] ∧ c.fault = false ∧ c.evt = none ∧ c.after = [] ∧ (sCmd c).roce = []
          ∧ c.report = none ∧ (sCmd c).g.copyFault = none)
      ∧ (let c := { cmd 5 0 with started := false, a := 0x3FFFFF8 }
         c.a.toNat % 8 = 0 ∧ c.a.toNat < 2 ^ 56
          ∧ resolve (sCmd c) (coreHome c.core) (sCmd c).g.ctx c.sup false .write c.a.toNat = .ok (B + 0x7FFFFF8, B + 0x400009F)
          ∧ passes (sCmd c) (coreHome c.core) (homeOfPa (B + 0x7FFFFF8)) 2 = true ∧ takesTraffic (sCmd c) (homeOfPa (B + 0x7FFFFF8)) = true
          ∧ cutoverMove (sCmd c) (homeOfPa (B + 0x7FFFFF8)) (B + 0x7FFFFF8) = none)
      ∧ (let c := { cmd 1 0x800000078 with started := false, iter := [] }
         let s := { sCmd c with mem := ((tables.writeN (B + 0x4040000) 8 0x50000).writeN (B + 0x4040008) 8 0x102).writeN (B + 0x4040010) 8 2 }
         let words := (List.range 8).map fun k => Bytes.readN s.mem (B + 0x4040000 + 8 * k) 8
         c.a.toNat % 64 = 0 ∧ resolve s (coreHome c.core) s.g.ctx c.sup false .read c.a.toNat = .ok (B + 0x4040000, B + 0x400009F)
          ∧ passes s (homeOfPa (B + 0x4040000)) (coreHome c.core) 2 = true ∧ takesTraffic s (homeOfPa (B + 0x4040000)) = true
          ∧ Rules.soundLine s { lane := 0, va := c.a.toNat, pa := B + 0x4040000, pte := B + 0x400009F } ∧ (B + 0x4040000) % 64 = 0 ∧ paTier (B + 0x4040000) < 3 ∧ words = [0x50000, 0x102, 2, 0, 0, 0, 0, 0]
          ∧ startFault { c with iter := words } s = none) := by
  unfold Rules.soundLine; decide +kernel

theorem witness_copy_fault : ∃ c x, (sCmd c).g.copies = [c] ∧ c.report = some x ∧ (sCmd c).g.copyFault = none :=
  ⟨{ cmd 1 0 with report := some { code := 0x10, pc := 0x10004, hdr := 0x10000, mask := 1 } }, _, rfl, rfl, rfl⟩
/-! ### Class 7, traps and recovery -/


theorem frame_place : translate s0 0 (B + 0x100) 0x20000 = .ok (B + 0x4020000) (B + 0x400009F) (2 ^ 26)
    ∧ translate s0 0 (B + 0x100) (0x20000 + 1652 + 128 * 16) = .ok (B + 0x4020000 + 3700) (B + 0x400009F) (2 ^ 26) := by decide +kernel

theorem witness_handler_ready : Rules.handlerReady s0 := by
  refine ⟨by decide +kernel, by decide +kernel, by decide +kernel, by decide +kernel, by decide +kernel, by decide +kernel, fun x h => ?_⟩
  cases h

theorem witness_frame_writable : Rules.frameWritable s0 := by
  intro bs h
  have hl : bs.length = 3724 := h
  have e : deviceWrite (2 + 1) { s0 with g := suspendOthers s0.g } 0 (B + 0x100) 0x20000 bs = _ :=
    deviceWrite_one_page (pa := B + 0x4020000) (pte := B + 0x400009F) (z := 2 ^ 26) (by decide +kernel) (by decide) (by decide) (by omega)
      (by intro hb; rw [hb] at hl; simp at hl)
  exact (congrArg Option.isSome e).trans rfl

/-- A frame that ends with its page. -/
theorem witness_frame_in_page :
    let s := withG fun g => { g with ctxbase := 0x10000 * 3 - 3724 }
    s.g.ctxbase.toNat % 2 ^ 16 + frameSize s.g = 2 ^ 16
      ∧ translate s s.g.baseHome s.g.ctx s.g.ctxbase.toNat = .ok (B + 0x4000000 + 0x30000 - 3724) (B + 0x400009F) (2 ^ 26)
      ∧ paTier (B + 0x4000000 + 0x30000 - 3724) < 2 ∧ pteW (B + 0x400009F) = true := by
  decide +kernel

theorem witness_traps_held :
    (withG fun g => { g with sup := true }).g.sup = true
      ∧ (let s := withG fun g => { g with trapvec := 0 }
         s.g.sup = false ∧ s.g.handler = .none ∧ registersPending s.g = false ∧ s.g.trapvec = 0 ∧ s.g.sibs = [] ∧ s.g.diag = false)
      ∧ (withG fun g => { g with handler := .running 1 }).g.sup = false ∧ s0.g.sup = false ∧ Rules.supOnlyReg .repairbase = true
      ∧ (SysReg.teamstat ≠ .trapvec ∧ SysReg.teamstat ≠ .ctxbase ∧ SysReg.teamstat ≠ .diaginj) := by
  decide +kernel

/-- A handler whose frame is all zero but its PC: the trapping instruction, or the end of its clause. -/
def sHandler (pc : Nat) : State :=
  { withG (fun g => { g with sup := true, handler := .running 0, floor := 1, trappc := 0x10004, traphdr := 0x10000, seamSv := [(3, {})] }) with
    mem := tables.writeN (B + 0x4020000) 8 pc }

theorem witness_eret : ∀ pc ∈ [0x10004, 0x10014],
    (sHandler pc).g.sup = true ∧ handlerSplits (sHandler pc).g = [(sHandler pc).g.sp] ∧ counter .post (sHandler pc).g.sp = 0
      ∧ registersPending (sHandler pc).g = false ∧ Rules.seamsOpen (sHandler pc).g
      ∧ (deviceRead 3 (sHandler pc) (sHandler pc).g.baseHome (sHandler pc).g.ctx (sHandler pc).g.ctxbase.toNat
          (frameSize (sHandler pc).g)).isSome = true := by
  unfold Rules.seamsOpen; decide +kernel

theorem witness_regions :
    (∃ k, liveSetAt s0 (nextHeader s0.g.sp).toNat (0 : BitVec 6).toNat = .ok k) ∧ counter .matrix s0.g.sp = 0
      ∧ (∃ k, liveSetAt (sOps 1 .matrix) (nextHeader (sOps 1 .matrix).g.sp).toNat (0 : BitVec 6).toNat = .ok k)
      ∧ Rules.liveSetKnown (sOps 1 .matrix) 0 ∧ counter .matrix (sOps 1 .matrix).g.sp ≠ 0 :=
  ⟨⟨ls0, by decide +kernel⟩, by decide +kernel, ⟨ls0, by decide +kernel⟩, ⟨ls0, .inr ⟨rfl, by decide +kernel⟩⟩, by decide +kernel⟩

/-- A checkpoint log at virtual address 0x4000000, on a mirrored page with MANTLE: its regions are the 64 bytes behind it. -/
def logPa : Nat := B + 0x8000000
def ck0 : Checkpoint := { log := 0x4000000, n := 6, base := 0x4000100, len := 64, rpc := 0x10000, rjkt := 9 }
def sLog (f : Group → Group) : State :=
  { withG f with
    mem := (((((tables.writeN logPa 8 0x4000100).writeN (logPa + 8) 8 64).writeN (logPa + 16) 8 0x4000100).writeN (logPa + 24) 8 64).writeN
      (logPa + 0x20) 8 9).writeN (logPa + 0x28) 8 0x10000 }

def opens (s : State) : Bool :=
  s.g.sp.tail == none && converged s && counter .matrix s.g.sp == 0 && s.g.sp.crc == 0 && s.g.diag == false
    && (readS s 5).toNat % 256 == 0 && decide ((readS s 5).toNat < 2 ^ 56)
    && (match resolve s s.g.sp.home s.g.ctx s.g.sup false .write (readS s 5).toNat with
        | .ok x => x == (logPa, B + 0x8000077)
        | .error _ => false)
    && pteMantle (B + 0x8000077) && !mustPrecede s false [(logPa, 256)] && (logBad s logPa).isNone
    && ([0, 1, 2].all fun i => !poisonedLine s ((logPa + 64 * i) / 64) && !poisonedLine s (mirrorOf s (logPa + 64 * i) / 64))

/-- A first checkpoint, whose number is even; a reopened one; both records' regions translate. -/
theorem witness_ckbegin : opens (sLog fun g => { g with rpseq := 5 }) = true ∧ opens (sLog fun g => { g with ck := some ck0 }) = true
    ∧ (spans .write (sLog fun g => { g with rpseq := 5 }) 0x4000100 64).isOk = true
    ∧ openedCheckpoint 0x4000000 logPa (sLog fun g => { g with rpseq := 5 }) = ck0
    ∧ (spans .write (sLog fun g => { g with ck := some ck0 }) 0x4000100 64).isOk = true
    ∧ liveSetAt (sLog fun g => { g with rpseq := 5 }) (instrPc (sLog id)).toNat (0 : BitVec 6).toNat = .ok ls0 := by
  decide +kernel

/-- The record is durable; no checkpoint is open; the open one commits. -/
theorem witness_ckcommit :
    (let s := sLog fun g => { g with ck := some ck0, sp := { g.sp with crc := 2 } }
     2 ≤ s.g.sp.crc ∧ stillPending s (s.g.sp.crc - 2) = false ∧ s.g.sp.crc - 2 ∉ s.g.lost)
      ∧ (let s := sLog fun g => { g with ck := some ck0, lost := [4], sp := { g.sp with crc := 6 } }
         2 ≤ s.g.sp.crc ∧ s.g.sp.crc - 2 ∈ s.g.lost)
      ∧ ((sLog id).g.sp.crc = 0 ∧ (sLog id).g.ck = none)
      ∧ (readS (sLog fun g => { g with ck := some ck0 }) 5 = ck0.log ∧ releaseTokens .mantle (sLog fun g => { g with ck := some ck0 }) = []
        ∧ Rules.groupWritesDurable (sLog fun g => { g with ck := some ck0 }))
      ∧ ¬Rules.groupWritesDurable (sLog fun g => { g with ck := some ck0, lost := [4] }) := by
  unfold Rules.groupWritesDurable; decide +kernel

/-- Lines that no read met an error in are sound. -/
theorem sound_spans {s : State} {xs : List Span} (h : (xs.all fun x => x.lines.all fun l =>
    !poisonedLine s (l.pa / 64) && !poisonedLine s (mirrorOf s l.pa / 64)) = true) : Rules.spansSound s xs := by
  intro x hx l hl
  have := List.all_eq_true.mp (List.all_eq_true.mp h x hx) l hl
  simp only [Bool.and_eq_true, Bool.not_eq_true'] at this
  exact ⟨this.1, fun _ => this.2⟩

/-- The CRC of the open checkpoint is complete. -/
theorem witness_commit_crc :
    let s := sLog fun g =>
      { g with ck := some ck0, sp := { g.sp with crc := 1, clause := { g.sp.clause with hdr := hdr .sys, words := words (.ckcommit 0 5) } } }
    s.g.life ≠ .vacant ∧ placeInstr s.g.sp = .ok (.ckcommit 0 5) ∧ opens { s with g := { s.g with sp := { s.g.sp with crc := 0 } } } = true
      ∧ s.degraded = []
      ∧ (match spans .write s ck0.base.toNat ck0.len.toNat with
          | .ok ws => ws != [] && ws.all fun x => x.lines.all fun l => !poisonedLine s (l.pa / 64) && !poisonedLine s (mirrorOf s l.pa / 64)
          | .error _ => false) = true := by
  decide +kernel

/-- RPGET of a log without a committed record, before and behind its CRC. -/
def sRpget (crc : Nat) : State := sLog fun g =>
  { g with sp := { g.sp with crc := crc, clause := { g.sp.clause with hdr := hdr .sys, words := words (.rpget 3 5) } } }

/-- Where a read of memory finds bytes, what it finds is sound in the small machine. -/
theorem witness_rpget :
    ((sRpget 0).g.sp.crc = 0 ∧ ownAccesses (sRpget 0) = [] ∧ ownPackets (sRpget 0) = [])
      ∧ ((sRpget 1).g.life ≠ .vacant ∧ (sRpget 1).g.sp.crc = 1 ∧ placeInstr (sRpget 1).g.sp = .ok (.rpget 3 5)
        ∧ ∃ xs, spans .read (sRpget 1) (readS (sRpget 1) 5).toNat 192 = .ok xs
          ∧ ∀ k ys, k < 2 → spans .read (sRpget 1) (leNat (((spanBytes (sRpget 1) xs).drop (0x48 + 0x40 * k)).take 8))
              (leNat (((spanBytes (sRpget 1) xs).drop (0x50 + 0x40 * k)).take 8)) = .ok ys → Rules.spansSound (sRpget 1) ys) := by
  refine ⟨by decide +kernel, by decide +kernel, by decide +kernel, by decide +kernel, ?_⟩
  have clean : ∀ i, poisonedLine (sRpget 1) i = false := fun i => by
    show (false != lineDrowned (sRpget 1) i) = false
    rfl
  rcases hx : spans .read (sRpget 1) (readS (sRpget 1) 5).toNat 192 with e | xs
  · have h : (spans .read (sRpget 1) (readS (sRpget 1) 5).toNat 192).isOk = true := by decide +kernel
    rw [hx] at h; cases h
  · exact ⟨xs, rfl, fun k ys _ _ x _ l _ => ⟨clean _, fun _ => clean _⟩⟩

/-- An open region whose live set protects RPGET's scalar. -/
theorem witness_rpget_region :
    let s := sLog fun g => { g with sp := { g.sp with crc := 1, region := some { ls := 0, pc := 0x10014 } } }
    s.g.sp.region = some { ls := 0, pc := 0x10014 } ∧ liveSetAt s (0x10014 : DWord).toNat 0 = .ok ls0 := by
  decide +kernel

theorem witness_rpget_log : Rules.logAt (sRpget 0) .read (readS (sRpget 0) 5) logPa (B + 0x8000077) := by
  unfold Rules.logAt Rules.unspoiled
  refine ⟨by decide +kernel, by decide +kernel, by decide +kernel, ?_, by decide +kernel, by decide +kernel, by decide +kernel, by decide +kernel⟩
  decide +kernel

/-- Invalidations up to the last page or line, and one past the address range, in both states. -/
theorem witness_invalidations :
    let s (a : DWord) := withG fun g => { g with sup := true, sp := { g.sp with s := [(1, a)] } }
    ((s (2 ^ 56 - 1)).g.sup = true ∧ (readS (s (2 ^ 56 - 1)) 1).toNat < 2 ^ 56 ∧ fenceHolds .fab .sc (s (2 ^ 56 - 1)) = true
        ∧ ownPackets (s (2 ^ 56 - 1)) = [])
      ∧ 2 ^ 56 ≤ (readS (s (2 ^ 56)) 1).toNat := by
  decide +kernel

/-- Accesses that TLBINV waits for, and a store to a line that ICINV waits for; an invalidation that a split waits for and one of lines. -/
theorem witness_invalidations_wait :
    (let s := { sBusy with g := { sBusy.g with sup := true } }
     s.g.sup = true ∧ (readS s 1).toNat < 2 ^ 56 ∧ fenceHolds .fab .sc s = false) ∧ storesTo s0 0x40000 0x40040 = false
      ∧ (let s := { sBusy with packets := [{ pkt 9 [(B + 0x4040000, 1)] with dst := 0 }] }
         (readS s 1).toNat < 2 ^ 56 ∧ storesTo s 0x40000 0x40040 = true)
      ∧ (let v : Inval := { id := 9, icache := false, ctx := some (B + 0x100), lo := 0, hi := 2 ^ 26, home := 0 }
         let s := { withSp (fun p => { p with inval := some 9 }) with
                    invals := [v, { v with id := 10, icache := true, ctx := none, hi := 2 ^ 56 }]
                    homes := [(0, { st := .ready, tlb := [(B + 0x100, 0, 0, 2 ^ 26), (B + 0x100, 2 ^ 26, 0, 2 ^ 26)] })] }
         v ∈ s.invals ∧ (∀ u ∈ s.invals, u.id = v.id → u = v) ∧ v.cmd = none ∧ s.g.sp.inval = some v.id
           ∧ allReached s v.home = true)
      ∧ (let v : Inval := { id := 10, icache := true, ctx := some (B + 0x100), lo := 0x40000, hi := 0x40040, home := 0 }
         let s := { s0 with invals := [v] }
         (∀ u ∈ s.invals, u.id = v.id → u = v) ∧ allReached s v.home = true ∧ v.lo % 64 = 0 ∧ v.hi % 64 = 0
           ∧ (match walk s (B + 0x100) 0x40038 with
              | .ok _ _ _ => true
              | _ => false) = true) := by
  decide +kernel

/-- HALT and PREEMPT of a handler; another group named by its GRPID, a member of a team, and an ended group. -/
theorem witness_halt_preempt :
    let other : Group := { group0 with gid := 0x40000, team := some TR, teamId := 0x40000 }
    let s := { withG (fun g => { g with sup := true, handler := .running 0, floor := 1 }) with others := [other, { other with gid := 1, life := .ending }] }
    s.g.sup = true ∧ s.g.sp.clause.stage = .issued ∧ handlerSplits s.g = [s.g.sp] ∧ other ∈ s.others ∧ other.life = .live ∧ other.diag = false
      ∧ homePkg other.baseHome = homePkg s.g.sp.home ∧ other.gid.setWidth 64 = readS s 1 ∧ other.team.isSome = true
      ∧ other.teamId.setWidth 64 = readS s 1 ∧ onPackage (homePkg s.g.sp.home) other = true
      ∧ ((s.pkg 0).page.readN 0x110 8 + 2 ^ 64 - (s.pkg 0).page.readN 0x118 8) % 2 ^ 64 ≠ 1024 := by
  decide +kernel

/-- A group of the package that a GRPID names, and a member based on another package whose team it names there. -/
theorem witness_requested :
    let near : Group := { group0 with gid := 0x40000, team := some TR, teamId := 0x40000 }
    let far : Group := { near with gid := 5, baseHome := 16, sp := { split0 with home := 16 } }
    let s := { withG (fun g => { g with sup := true }) with others := [near, far] }
    readS s 1 = 0x40000 ∧ Rules.requested s 0 0 0 (readS s 1) near ∧ Rules.requested s 0 1 0 (readS s 1) far
      ∧ ¬Rules.requested s 0 0 0 (readS s 1) s.g := by
  refine ⟨by decide +kernel, .inl ⟨by unfold Rules.named; decide +kernel, by decide +kernel, .inl (by decide +kernel)⟩,
    .inr ⟨by unfold Rules.named; decide +kernel, { group0 with gid := 0x40000, team := some TR, teamId := 0x40000 }, by simp [State.groups],
      ⟨by unfold Rules.named; decide +kernel, by decide +kernel, .inl (by decide +kernel)⟩, .inl ⟨rfl, rfl⟩⟩, ?_⟩
  have h : ¬Rules.named s0 0 0 0x40000 group0 := by unfold Rules.named; decide +kernel
  rintro (⟨h', -, -⟩ | ⟨h', -⟩) <;> exact h h'

/-- HALT with another split of the handler; PREEMPT of a card by its slot; of nothing that exists. -/
theorem witness_halt_and_cards :
    (let s := withG fun g => { g with sup := true, handler := .running 0, floor := 1, sp := { g.sp with lanes := 0x7FFFFFFF }
                                      sibs := [{ split0 with idx := 1, lanes := 0x80000000 }] }
     s.g.sup = true ∧ 1 < (handlerSplits s.g).length)
      ∧ (let s := { withG (fun g => { g with sup := true, handler := .running 0, floor := 1, card := 1 }) with
                    cards := [{ id := 1, slot := B + 0x4040000, ctx := B + 0x100, home := 0, prio := 5, w := 16, recSize := 8, entry := 0x10000
                                args := 0, records := 3, grpRec := 2, left := 6 }] }
         resolve s s.g.sp.home s.g.ctx true false .read (readS s 1).toNat = .ok (B + 0x4040000, B + 0x400009F)
          ∧ Rules.named s 2 (B + 0x4040000) (readS s 1) s.g ∧ onPackage (homePkg s.g.sp.home) s.g = true)
      ∧ ∀ y ∈ s0.groups, ¬Rules.named s0 0 0 (readS s0 1) y := by
  refine ⟨by decide +kernel, ⟨by decide +kernel, ?_, by decide +kernel⟩, ?_⟩
  · unfold Rules.named; decide +kernel
  · unfold Rules.named; decide +kernel
/-! ### The steps that the machine takes by itself -/

/-- A clause of one SNOP behind its header at 0x10000, and a split that may fetch it, one iteration before the spin detector. -/
def sFetch : State :=
  { withSp (fun p => { p with clause := {}, spin := 32 }) with
    mem := (tables.writeN (B + 0x4010000) 4 (headerWord { hdr .sctl with n := 1 }).toNat).writeN (B + 0x4010004) 4
      ((words .snop).headD 0).toNat }

/-- A fetched clause that the slot of partition 0 goes to; one of a low level that is due behind another group's. -/
def sIssue : State := withSp fun p => { p with clause := { p.clause with stage := .fetched } }
def sDue : State :=
  { sIssue with others := [{ group0 with gid := 8, prio := 255, sp := { split0 with clause := { split0.clause with stage := .fetched } } }]
                parts := [(0, { had := [0, 255], count := [(0, 63)] })] }

theorem witness_fetch : mayGo sFetch.g = true ∧ sFetch.g.sp.clause.stage = .idle ∧ sFetch.g.sp.clause.inside = false ∧ sFetch.g.sp.spin < 33
    ∧ mustSuspend sFetch.g = false ∧ (fetchClause sFetch sFetch.g.sp.pc).isOk = true := by
  decide +kernel

theorem witness_issue : Rules.mayIssue sIssue 0 ∧ Rules.mayIssue sDue 0 ∧ dueLevel sDue 0 = some 0 ∧ (∀ g ∈ sDue.others, g.gid ≠ sDue.g.gid)
    ∧ sDue.g.sibs = [] := by
  unfold Rules.mayIssue; decide +kernel

/-- A split whose next instruction would be the 4097th. -/
def sOverrun : State := withSp fun p =>
  { p with safe := 4096, clause := { p.clause with words := words .snop } }

theorem witness_waiting_and_overrun :
    (s0.g.life = .live ∧ s0.g.sp.clause.stage = .issued ∧ s0.g.sp.status = .runnable)
      ∧ mayGo sOverrun.g = true ∧ sOverrun.g.diag = false ∧ 4096 ≤ sOverrun.g.sp.safe ∧ placeInstr sOverrun.g.sp = .ok .snop
      ∧ isSafePoint .snop = false ∧ onPath sOverrun.g = none := by
  decide +kernel

theorem witness_overrun_words : encodingTrap (withLength sOverrun) (exec .snop (withLength sOverrun)) = false := by
  have ne (c : Nat) (h : (complete (withLength sOverrun)).g.sp.clause.pos
      ≠ (takeTrap (instrTrap c 3 0 0 (withLength sOverrun)) (withLength sOverrun)).g.sp.clause.pos) :
      decide (complete (withLength sOverrun) = takeTrap (instrTrap c 3 0 0 (withLength sOverrun)) (withLength sOverrun)) = false :=
    decide_eq_false fun e => h (congrArg (fun s => s.g.sp.clause.pos) e)
  rw [show exec .snop (withLength sOverrun) = .next (complete (withLength sOverrun)) from rfl, encodingTrap,
    ne 2 (by decide +kernel), ne 3 (by decide +kernel)]
  rfl

/-- A run of home 1, an acknowledgement, an arrival at a parent record, a mirror's copy, a port's acknowledgement, a translation. -/
def sHome : State :=
  { sTeam (record 2 2 0) (fun g => { g with acks := [(9, TR, 4)], sp := { g.sp with ops := [{ id := 9, cls := .sync }] } }) with
    homes := [(0, { st := .ready }), (1, { st := .ready, runs := [{ pa := B + 2 ^ 44 + 56, op := 7, size := 8, base := 0, value := 1, count := 1 }] })]
    packets := [{ id := 10, src := 1, dst := 0, cls := 3, body := .parent TR (B + 0x100) (B + 2 ^ 44) }]
    mirrors := [(0, { pkt 11 [(B + 63, 1), (B, 2)] with dst := 0 })], roce := [{ home := 0, gid := 7, id := 12 }] }

theorem witness_home_engines :
    (∃ r, (sHome.home 1).runs = [r])
      ∧ (sHome.g.life = .live ∧ sHome.g.acks = [(9, TR, 4)] ∧ sHome.g.team = some TR ∧ sHome.g.sp.ops = [{ id := 9, cls := .sync }])
      ∧ (∃ p, Rules.queue 1 0 3 sHome = [p] ∧ p.body = .parent TR (B + 0x100) (B + 2 ^ 44) ∧ p.mantle = none ∧ takesTraffic sHome 0 = true
          ∧ behindMove sHome p = false ∧ crossed sHome (homePkg 1) (homePkg 0) 3 p.cross = true ∧ cutoverMove sHome 0 TR = none)
      ∧ (recReservedOk sHome TR = true ∧ recArrived sHome TR + 1 < recExpected sHome TR)
      ∧ (∃ p, sHome.mirrors = [(0, p)] ∧ p.body = .store [(B + 63, 1), (B, 2)] ∧ packetBefore sHome p = false ∧ crossed sHome (homePkg p.src) (homePkg 0) 0 p.cross = true)
      ∧ ([(B + 63, 1), (B, 2)].map (·.1) : List Nat).Nodup
      ∧ sHome.roce = [{ home := 0, gid := 7, id := 12 }]
      ∧ walk sHome (B + 0x100) 0x3FFFFFF = .ok (B + 0x7FFFFFF) (B + 0x400009F) (2 ^ 26) ∧ walk sHome (B + 0x100) 0x10000000 = .bad := by
  refine ⟨⟨{ pa := B + 2 ^ 44 + 56, op := 7, size := 8, base := 0, value := 1, count := 1 }, by decide +kernel⟩, by decide +kernel,
    ⟨_, rfl, by decide +kernel⟩, by decide +kernel, ⟨_, rfl, by decide +kernel⟩, by decide +kernel, rfl, by decide +kernel⟩

/-- A reduction of one word that begins a run, goes on with one, fills one, and meets one of another kind. -/
def sReduce (op : Nat) (runs : List Run) : State :=
  { s0 with packets := [{ id := 10, src := 1, dst := 0, body := .reduce op [(B + 0x4040008, 7)] }], homes := [(0, { st := .ready, runs := runs }), (1, { st := .ready })] }

theorem witness_reduction_arrives : ∀ x ∈ ([(0, []), (0, [{ pa := B + 0x4040008, op := 0, size := 4, base := 5, value := 1, count := 14 }]),
      (0, [{ pa := B + 0x4040008, op := 0, size := 4, base := 5, value := 1, count := 15 }]),
      (7, [{ pa := B + 0x4040008, op := 0, size := 4, base := 5, value := 1, count := 1 }])] : List (Nat × List Run)),
    (∃ p, Rules.queue 1 0 0 (sReduce x.1 x.2) = [p] ∧ p.body = .reduce x.1 [(B + 0x4040008, 7)] ∧ x.1 < 8 ∧ p.mantle = none
        ∧ pteMirror p.pte = false ∧ copyBefore (sReduce x.1 x.2) p = false ∧ behindMove (sReduce x.1 x.2) p = false ∧ crossed (sReduce x.1 x.2) (homePkg 1) (homePkg 0) 0 p.cross = true)
      ∧ homeOfPa (B + 0x4040008) = 0 ∧ paTier (B + 0x4040008) < 2 ∧ takesTraffic (sReduce x.1 x.2) 0 = true
      ∧ cutoverMove (sReduce x.1 x.2) 0 (B + 0x4040008) = none ∧ ((sReduce x.1 x.2).home 0).runs = x.2 := by
  intro x h
  exact ⟨⟨_, rfl, rfl, by revert x; decide +kernel⟩, by revert x; decide +kernel⟩

/-- A wait on the word of an open run, which already holds. -/
theorem witness_run_wakes :
    let w : Wait := { pa := B + 2 ^ 44 + 56, cond := .sig 0 }
    let s := { sHome with g := { sHome.g with sp := { sHome.g.sp with wait := some w } } }
    (s.home 1).runs.map (fun r => (r.pa, r.size)) = [(w.pa, w.size)] ∧ waitHolds s w = true := by
  decide +kernel

/-- An unresolved path of BRP. -/
def sResolve (neg : Bool) : State := withG fun g =>
  { g with em := 0xFFFFFFFF, path := some { sp := 0, taken := true, mask := 1, pc := 0x10000, count := 12 }
           sp := { g.sp with clause := { g.sp.clause with words := words (.brp .nospec 0 neg 3) } } }

theorem witness_brp_resolves :
    (∀ neg, placeInstr (sResolve neg).g.sp = .ok (.brp .nospec 0 neg 3) ∧ (sResolve neg).g.path = some { sp := 0, taken := true, mask := 1, pc := 0x10000, count := 12 })
      ∧ (~~~readP (sResolve true) 0) &&& (sResolve true).active = 0
      ∧ (readP (sResolve false) 0 &&& (sResolve false).active ≠ 0 ∧ (sResolve false).g.sp.lanes &&& ~~~(readP (sResolve false) 0 &&& (sResolve false).active) = 0)
      ∧ Rules.inRange (Rules.target (sResolve false) 3) := by
  unfold Rules.inRange; decide +kernel

/-- A path whose BRP divides the split. -/
theorem witness_brp_divides :
    let s := withG fun g => { g with path := some { sp := 0, taken := true, mask := 1, pc := 0x10000, count := 12 }
                                     sp := { g.sp with clause := { g.sp.clause with words := words (.brp .nospec 0 false 3) } } }
    placeInstr s.g.sp = .ok (.brp .nospec 0 false 3) ∧ readP s 0 &&& s.active ≠ 0 ∧ s.g.sp.lanes &&& ~~~(readP s 0 &&& s.active) ≠ 0
      ∧ Rules.inRange (Rules.target s 3) ∧ freeEntry s.g = some 1 := by
  unfold Rules.inRange; decide +kernel

/-- A split that holds a store, a release fence, and a release at .mantle scope behind no copies and behind one of a MANTLE page. -/
def sHolds (p : Packet) (ms : List (Nat × Packet)) : State :=
  { withSp (fun q => { q with ops := [{ id := 9, cls := .post }] }) with packets := [{ p with held := true }], mirrors := ms }

theorem witness_holds :
    let due (s : State) (p : Packet) : Bool := heldFor s s.g.gid s.g.sp.idx p && p.after.isEmpty
    (let s := sHolds (pkt 9 [(B, 1)]) []
     ∀ p ∈ s.packets, due s p = true ∧ p.body ≠ .fence ∧ p.mantle ≠ some false)
      ∧ (let s := sHolds { pkt 9 [] with body := .fence } []
         ∀ p ∈ s.packets, due s p = true ∧ p.body = .fence ∧ p.mantle ≠ some false)
      ∧ (∀ ms ∈ [[], [(0, { pkt 11 [(B, 1)] with pte := B + 0x8000077 })]],
          let s := sHolds { pkt 9 [(B, 1)] with mantle := some false } ms
          (∀ p ∈ s.packets, due s p = true ∧ p.body ≠ .fence ∧ p.mantle = some false) ∧ (mantleCopies s = [] ↔ ms = [])) := by
  decide +kernel

/-- A split bound for home 1, the same in transit, one that repeats its iterations, and one that has waited 4096 clk. -/
theorem witness_moves_and_spins :
    (let s := withSp fun p => { p with move := some 1 }
     s.g.life = .live ∧ s.g.sp.move = some 1 ∧ s.g.sp.sent = none ∧ s.g.sp.joins = none ∧ s.g.sp.status = .runnable ∧ s.g.sp.ops = []
      ∧ ownAccesses s = [] ∧ s.g.sp.stopped = false)
      ∧ (let s := withSp fun p => { p with move := some 1, home := 1, status := .transit, part := none, sent := some (0, 0), keep := ls0 }
         s.g.sp.sent = some (0, 0) ∧ parkRoom s s.g.sp.home (parkedSize s.g s.g.sp) = true ∧ homePkg 0 = homePkg s.g.sp.home
          ∧ parkRoom { s with others := [{ group0 with gid := 8, life := .saved, tileRows := 2 ^ 22, sp := { split0 with home := 1 } }] }
              s.g.sp.home (parkedSize s.g s.g.sp) = false)
      ∧ (let s := withSp fun p => { p with move := some 1, home := 1, status := .transit, part := none, sent := some (0, 5), keep := ls0 }
         s.g.sp.move = some 1 ∧ s.g.sp.home = 1 ∧ s.g.sp.joins = none ∧ s.g.sp.status = .transit ∧ mayArrive s = true
          ∧ s.g.sp.stopped = false ∧ s.g.sp.watch = none ∧ wantsStop s.g = false ∧ s.g.sp.part = none)
      ∧ (let s := withSp fun p => { p with clause := {}, spin := 33, lastLoad := { words := [(B + 0x4040000, 1)] } }
         mayGo s.g = true ∧ s.g.sp.clause.stage = .idle ∧ 33 ≤ s.g.sp.spin ∧ mustSuspend s.g = false ∧ anchored s s.g = false)
      ∧ (let s := withSp fun p => { p with status := .waiting, watch := some {}, timeout := 2 ^ 64 - 4096 }
         s.g.sp.status = .waiting ∧ s.g.sp.watch = some {} ∧ s.g.sp.part = some 0 ∧ s.g.sp.move = none
          ∧ 4096 ≤ ((clockOf s 0).toNat + 2 ^ 64 - s.g.sp.timeout) % 2 ^ 64) := by
  decide +kernel

def trap0 : TrapRec := { code := 0x07, acc := 0, lane := 31, addr := 0x40000, pc := 0x10004, hdr := 0x10000, mask := 0x80000001 }

/-- A held trap, a pending handler, and a region that restarts with its record at the end of the frame. -/
def sHeld : State := withSp fun p => { p with trap := some trap0 }
def sRuns : State := sHeld.setSp fun y => { y with trap := none, status := .runnable }
def sPending : State := withG fun g => { g with handler := .pending 0, sp := { g.sp with trap := some trap0, status := .suspended } }
def sRestart : State := withSp fun p => { p with restart := some trap0, region := some { ls := 0, pc := 0x10000 } }

/-- Bytes of one page at the address of a frame can be written. -/
theorem frame_bytes {n home ctx va pa : Nat} {s : State} {bs : List Byte}
    (ht : translate s home ctx va = .ok pa (B + 0x400009F) (2 ^ 26)) (h2 : paTier pa < 2) (hl : va % 2 ^ 16 + bs.length ≤ 2 ^ 16)
    (hb : bs.length ≠ 0) : (deviceWrite (n + 1) s home ctx va bs).isSome = true := by
  rw [deviceWrite_one_page ht h2 (by decide) hl (by intro e; exact hb (by rw [e]; rfl))]
  rfl

theorem witness_held_trap : sHeld.g.life = .live ∧ sHeld.g.sp.trap = some trap0 ∧ Rules.handlerReady sRuns ∧ Rules.frameWritable sRuns := by
  refine ⟨by decide +kernel, by decide +kernel, ⟨by decide +kernel, by decide +kernel, by decide +kernel, by decide +kernel,
    by decide +kernel, by decide +kernel, fun x h => ?_⟩, fun bs h => ?_⟩
  · cases h
  · have hl : frameSize sRuns.g = 3724 := by decide +kernel
    have e : sRuns.g.ctxbase.toNat = 0x20000 := by decide +kernel
    rw [hl] at h
    rw [e]
    exact frame_bytes (n := 2) (pa := B + 0x4020000) (by decide +kernel) (by decide) (by omega) (by omega)

theorem witness_handler_start :
    (sPending.g.life = .live ∧ sPending.g.sp.trap = some trap0 ∧ sPending.g.handler = .pending sPending.g.sp.idx ∧ sPending.g.sibs = []
        ∧ registersPending sPending.g = false ∧ sPending.g.trapvec ≠ 0 ∧ ctxPrivLog sPending sPending.g.ctx ≠ 0)
      ∧ ∀ bs, bs.length = frameSize sPending.g →
          (deviceWrite 3 sPending sPending.g.baseHome sPending.g.ctx sPending.g.ctxbase.toNat bs).isSome = true := by
  refine ⟨by decide +kernel, fun bs h => ?_⟩
  have hl : frameSize sPending.g = 3724 := by decide +kernel
  have e : sPending.g.ctxbase.toNat = 0x20000 := by decide +kernel
  rw [hl] at h
  rw [e]
  exact frame_bytes (n := 2) (pa := B + 0x4020000) (by decide +kernel) (by decide) (by omega) (by omega)

theorem witness_restart :
    (sRestart.g.life = .live ∧ sRestart.g.sp.restart = some trap0 ∧ sRestart.g.sp.region = some { ls := 0, pc := 0x10000 }
        ∧ sRestart.g.sp.status = .runnable ∧ sRestart.g.sp.ops = [] ∧ ownAccesses sRestart = [])
      ∧ ∀ bs, bs.length = 24 →
          (deviceWrite 2 sRestart sRestart.g.baseHome sRestart.g.ctx (sRestart.g.ctxbase.toNat + 1652 + 128 * sRestart.g.w) bs).isSome = true := by
  refine ⟨by decide +kernel, fun bs h => ?_⟩
  have e : sRestart.g.ctxbase.toNat + 1652 + 128 * sRestart.g.w = 0x20000 + 3700 := by decide +kernel
  rw [e]
  exact frame_bytes (n := 1) (pa := B + 0x4020000 + 3700) (by decide +kernel) (by decide) (by omega) (by omega)

theorem witness_rollback : (withG fun g => { g with rollback := true, rppc := 0x10000 }).g.rollback = true
    ∧ groupDrained (withG fun g => { g with rollback := true, rppc := 0x10000 }).g = true := by
  decide +kernel

/-- A stopped group; a stopped team with a lease; a group of a team whose work is over. -/
theorem witness_saves_and_retires :
    (let s := withG fun g => { g with preempt := true, sp := { g.sp with stopped := true } }
     readyToSave s.g = true ∧ leaseOf s s.g = none)
      ∧ (let g : Group := { (sLease 0 124).g with preempt := true, sp := { split0 with stopped := true } }
         let s := { sLease 0 124 with g := g, others := [{ g with gid := 8 }, { group0 with gid := 9 }] }
         leaseOf s s.g = some lease0 ∧ ∀ g ∈ s.groups, g.life = .live → g.team = s.g.team → readyToSave g = true)
      ∧ (let s := sTeam (record 2 2 0) id
         let u := { s with g := { s.g with life := .ending } }
         workOver u = true ∧ s.g.diag = false ∧ 1 < recExpected s TR ∧ 1 < recMembers s TR ∧ s.g.note = none
          ∧ recArrived s TR + 1 < recExpected s TR ∧ (s.cards.find? fun c => c.id == s.g.card) = none) := by
  decide +kernel
/-! ### Cards, fabric, host -/

/-- The header of a job queue: two cards wait in its ring of two at virtual address 0x60000, of which the second slot is next. -/
def QH : Nat := B + 0x300000
def queue0 : JobQueue := { id := 0, hdr := QH, ctx := B + 0x100, trapvec := 0x11000, checked := true }
def slot1 : Nat := B + 0x4060080

/-- Memory with that queue and a card of 3 records of 2 groups, which form one team. -/
def ringMem (tail : Nat) : Bytes :=
  let put (a n x : Nat) (m : Bytes) : Bytes := m.writeN a n x
  put QH 8 tail <| put (QH + 8) 8 (2 ^ 64 - 1) <| put (QH + 0x10) 8 0x60000 <| put (QH + 0x18) 1 1 <|
    put (slot1 + 1) 1 5 <| put (slot1 + 2) 1 16 <| put (slot1 + 4) 2 8 <| put (slot1 + 8) 8 0x10000 <| put (slot1 + 0x10) 8 0x40000 <|
    put (slot1 + 0x18) 4 3 <| put (slot1 + 0x1C) 2 2 <| put (slot1 + 0x1E) 2 6 tables

def card0 : Card :=
  { id := 1, slot := slot1, ctx := B + 0x100, home := 0, prio := 5, w := 16, recSize := 8, entry := 0x10000, args := 0x40000
    records := 3, grpRec := 2, ranges := [{ owner := 0, recs := [(0, 3)] }], left := 6 }

/-- s0 with a change of its home 0. -/
def sHome0 (f : Home → Home) : State := { s0 with homes := [(0, f { st := .ready }), (1, { st := .ready })] }
def sQueue : State := { sHome0 (fun h => { h with queues := [queue0] }) with mem := ringMem 1 }
def sCards : State := { s0 with cards := [card0] }

theorem witness_card_take :
    (sQueue.home 0).queues = [queue0] ∧ queue0.open_ = true ∧ queue0.boot = false ∧ queue0.checked = true ∧ (sQueue.home 0).st = .ready
      ∧ (sQueue.home (homeOfPa queue0.hdr)).runs = [] ∧ (sQueue.cards.filter fun c => c.home == 0).length < 256
      ∧ 0 < queueWaiting sQueue queue0.hdr ∧ queueWaiting sQueue queue0.hdr = 2 ^ queueLog sQueue queue0.hdr
      ∧ queueSlot sQueue 0 queue0 (queueHead sQueue queue0.hdr) = some (slot1, B + 0x400009F)
      ∧ (let b := cardBytes sQueue queue0 (queueHead sQueue queue0.hdr) slot1
         cardCode sQueue 0 queue0.ctx false b = 0 ∧ cardGang b = false ∧ cardDiag b = false ∧ cardN b 0x18 4 ≠ 0)
      ∧ queue0.hdr + 64 ≤ slot1 ∧ queue0.hdr % 64 = 0 ∧ paTier queue0.hdr < 2 := by
  decide +kernel

theorem witness_deal_and_moves :
    heldDiagnostic sCards 0 = none ∧ (sCards.home 0).st = .ready ∧ (sCards.home 1).st = .ready ∧ (sCards.home 0).hot = false
      ∧ chunksWaiting (sCards.home 0) < 2 ∧ packageGroups sCards (homePkg 0) < Config.groupsPerPackage
      ∧ pickCard sCards 0 false = some card0 ∧ card0.ranges.find? (openRange 0 false) = some { owner := 0, recs := [(0, 3)] }
      ∧ card0.affinity = false
      ∧ recordsLeft sCards 0 (newTeams card0 (recordGroups card0 (takeRuns (chunkSize sCards card0 { owner := 0, recs := [(0, 3)] }) [(0, 3)]))).length = true
      ∧ mayRob sCards 1 = true ∧ pickCard sCards 0 true = some card0 ∧ topRange card0 0 = some { owner := 0, recs := [(0, 3)] }
      ∧ (card0.ranges.filter (· == { owner := 0, recs := [(0, 3)] })) = [{ owner := 0, recs := [(0, 3)] }]
      ∧ Rules.rising [(0, 3)] ∧ card0 ∈ sCards.cards ∧ Rules.soleCard sCards card0 ∧ dealable 0 true card0 = true
      ∧ openRuns card0 0 = [(0, 3)] := by
  unfold Rules.rising Rules.soleCard; decide +kernel

/-- A card with affinity, whose records' addresses lie at home 1. -/
def cardA : Card := { card0 with affinity := true }
def sAffinity : State := { s0 with cards := [cardA], mem := (tables.writeN (B + 0x4040000) 8 0x8000000).writeN (B + 0x4040008) 8 0x8000000 }

theorem witness_affinity :
    let r : Range := { owner := 0, recs := [(0, 3)] }
    heldDiagnostic sAffinity 0 = none ∧ pickCard sAffinity 0 false = some cardA ∧ cardA.ranges.find? (openRange 0 false) = some r
      ∧ r.routed = false ∧ recordsLeft sAffinity 0 0 = true ∧ (cardA.ranges.filter fun q => q.owner == 1 && q.routed).length ≤ 1
      ∧ (∀ i ∈ runNumbers (takeRuns (chunkSize sAffinity cardA r) r.recs), recordHome sAffinity cardA i = some 1)
      ∧ runNumbers (takeRuns (chunkSize sAffinity cardA r) r.recs) ≠ [] := by
  decide +kernel

theorem witness_others_hold_none : ∀ k, k ≠ 0 → pickCard sCards k true = none := by
  intro k hk
  have h : dealable k true card0 = false := by simp [dealable, card0, openRange, Ne.symm hk]
  simp [pickCard, sCards, h, leastBy]

theorem witness_admission :
    (let s := { withSp (fun p => { p with status := .transit, part := none }) with homes := [(0, { st := .ready, adm := [(0, .split 7 0)] })] }
     (s.home 0).adm = [(0, .split s.g.gid s.g.sp.idx)] ∧ awaitsAdmission s 0 = true ∧ s.g.handler = .none ∧ (splitPlace s).isSome = true)
      ∧ (let s := { withSp (fun p => { p with status := .transit, part := none, watch := some {}, lastPart := some 3 }) with homes := [(0, { st := .ready, adm := [(0, .split 7 0)] })] }
         awaitsAdmission s 0 = true ∧ splitPlace s ≠ some 3 ∧ s.g.sp.watch.isSome = true)
      ∧ (let c := { card0 with gang := true, roles := [{ pc := 0x10000, w := 16, count := 2, tileRows := 0 }] }
         let s := { sHome0 (fun h => { h with adm := [(5, .chunk 1 [(0, 2)])] }) with g := { group0 with slot := none }, cards := [c] }
         (s.home 0).adm = [(5, .chunk c.id [(0, 2)])] ∧ (s.cards.find? fun x => x.id == c.id) = some c ∧ slotsLeft s 0 c.ctx (c.unit 0) = true
          ∧ packageGroups s (homePkg 0) + c.unit 0 ≤ Config.groupsPerPackage
          ∧ (chooseCore s [0] ((List.range (c.unit 0)).map fun i => c.needs (0 + i)) c.lease).isSome = true)
      ∧ (let s := { sHome0 (fun h => { h with adm := [(5, .chunk 1 [(5, 6)])] }) with g := { group0 with slot := none }, cards := [card0] }
         (s.home 0).adm = [(5, .chunk card0.id [(5, 6)])] ∧ (s.home 0).st = .ready ∧ (s.cards.find? fun x => x.id == card0.id) = some card0
          ∧ card0.gang = false ∧ card0.lease = 0 ∧ card0.replay = none ∧ 0 < card0.grpRec ∧ slotsLeft s 0 card0.ctx 1 = true
          ∧ packageGroups s (homePkg 0) + 1 ≤ Config.groupsPerPackage ∧ (choosePart s [0] (card0.w, card0.tileRows)).isSome = true) := by
  decide +kernel

/-- Two packages that face each other at their last ports; n items of class 0 are on the way from 0 to 1, where another waits to cross. -/
def sLinks (n : Nat) : State :=
  { s0 with pkgs := [(0, { present := true, routes := [(1, 0x804000)], links := [(14, { up := true })], sent := [(4, n)] }),
                     (1, { present := true, routes := [(0, 0x804000)], links := [(14, { up := true })] })]
            packets := [{ id := 9, src := 0, dst := 16, body := .store [(2 ^ 52 + B, 1)] }] }

theorem witness_links : ((sLinks 2047).pkg 0).present = true ∧ portToward (sLinks 2047) 0 1 = some 14 ∧ portToward (sLinks 2047) 1 0 = some 14
    ∧ 2048 ≤ unreleased (sLinks 2048) 0 1 0 ∧ unreleased (sLinks 2047) 0 1 0 < 2048 ∧ reachable (sLinks 2047) 0 1 = true
    ∧ ((sLinks 2047).packets.find? fun y => homePkg y.src == 0 && homePkg y.dst == 1 && y.cls == 0 && y.cross.isNone && inQueue y.src y.dst y)
        = some { id := 9, src := 0, dst := 16, body := .store [(2 ^ 52 + B, 1)] } := by
  decide +kernel

theorem witness_resets :
    let s := { s0 with g := {}, homes := [] }
    ((s.pkg 0).present = true ∧ s.g.life = .vacant ∧ s.others = [] ∧ s.packets = [] ∧ s.mirrors = [] ∧ s.roce = [] ∧ mirroredPages s = [])
      ∧ ∀ k, (s.home k).mv = none :=
  ⟨by decide +kernel, fun _ => rfl⟩

/-- A port that faces a package of the same number. -/
theorem witness_twin : (({ s0 with pkgs := [(0, { present := true, twinPorts := [14] })] }).pkg 0).twinPorts.contains 14 = true
    ∧ (s0.pkg 0).twinPorts.contains 14 = false := by
  decide +kernel

/-- The leaf of the 64 KiB page of s0 and a frame for it at home 1. -/
def leaf0 : Nat := B + 0x8000
def dest0 : Nat := B + 2 ^ 44 + 0x10000
def move0 : PageMove := { old := B + 0x200000, new := dest0, size := 2 ^ 16, pte := leaf0 }

def sPageMove (f : Home → Home) : State := sHome0 fun h =>
  f { h with mvPte := BitVec.ofNat 64 leaf0, mvDest := BitVec.ofNat 64 dest0, movable := [(leaf0, dest0)] }

/-- A move that GO starts, one that is refused behind another, a listed page, a cutover, redirected packets, the end. -/
theorem witness_page_move_start :
    (let s := sPageMove fun h => { h with mvGo := true }
     (s.home 0).mvGo = true ∧ (s.home 0).mvPte.toNat = leaf0 ∧ (s.home 0).mvDest.toNat = dest0)
      ∧ (let u := (sPageMove fun h => { h with mvGo := true }).setHome 0 fun k => { k with mvGo := false }
         leafAt u leaf0 = some (B + 0x20001F, 2 ^ 16) ∧ moveCode u 0 leaf0 dest0 = 0)
      ∧ (let u := (sPageMove fun h => { h with mvGo := true, mv := some move0 }).setHome 0 fun k => { k with mvGo := false }
         moveCode u 0 leaf0 dest0 ≠ 0) := by
  decide +kernel

/-- A listed page whose atomics came from home 1 more often than from home 0, and one without counts. -/
theorem witness_auto :
    let s := sPageMove fun h => { h with counts := [(leaf0, 1, 3), (leaf0, 0, 2)] }
    ((s.home 0).movable[0]? = some (leaf0, dest0) ∧ homePkg (homeOfPa dest0) = homePkg 0 ∧ moveCode s 0 leaf0 dest0 = 0
      ∧ leafAt s leaf0 = some (B + 0x20001F, 2 ^ 16) ∧ Rules.Dominates (s.home 0) leaf0 (homeOfPa dest0))
      ∧ ((sPageMove id).home 0).movable[0]? = some (leaf0, dest0) ∧ ¬Rules.Dominates ((sPageMove id).home 0) leaf0 (homeOfPa dest0) := by
  unfold Rules.Dominates; decide +kernel

/-- Two lines of zeros that stand at their new frame; two of which the second does not. -/
def move2 : PageMove := { move0 with size := 128 }
theorem witness_copy_and_cutover :
    (let s := sPageMove fun h => { h with mv := some move2 }
     (s.home 0).mv = some move2 ∧ move2.cutover = false ∧ pageBusy s move2 = false ∧ leafAt s move2.pte = some (B + 0x20001F, 2 ^ 16)
      ∧ pteMirror (B + 0x20001F) = false ∧ Memory.wf s.mem = true ∧ moveCopied s 0 move2 (B + 0x20001F) = true)
      ∧ (let s := { sPageMove (fun h => { h with mv := some move2 }) with mem := tables.writeN (move2.old + 127) 1 5 }
         ((s.home 0).mv = some move2 ∧ leafAt s move2.pte = some (B + 0x20001F, 2 ^ 16) ∧ delivers s 0 (homeOfPa move2.new) = true
          ∧ move2.old % 64 = 0 ∧ move2.new % 64 = 0 ∧ Memory.wf s.mem = true ∧ 1 < move2.size / 64
          ∧ ∀ k, k < 64 → paTier (move2.new + 64 * 1 + k) < 2)
          ∧ (∀ j, j < 1 → Rules.Stands s move2 j) ∧ ¬Rules.Stands s move2 1) := by
  refine ⟨by decide +kernel, by decide +kernel, fun j hj => ?_, fun h => ?_⟩
  · obtain rfl : j = 0 := by omega
    unfold Rules.Stands; decide +kernel
  · exact absurd (h.2 63 (by decide)) (by decide +kernel)

theorem witness_redirect_and_end :
    let m := { move0 with cutover := true }
    let s := { sPageMove (fun h => { h with mv := some m }) with packets := [pkt 9 [(B + 0x20FFFF, 1)], pkt 10 [(B + 0x210000, 1)]] }
    (s.home 0).mv = some m ∧ m.cutover = true ∧ 0 < m.old ∧ m.new ≠ m.old ∧ (pkt 9 [(B + 0x20FFFF, 1)]).src = 0
      ∧ oldFrameNamed { s with packets := [pkt 10 [(B + 0x210000, 1)]] } m = false := by
  decide +kernel

/-- A partner on another die, and one on the same; a full repair table, offsets on either side of its end. -/
theorem witness_device_registers :
    partnerOk { s0 with g := {} } 0 11 = true ∧ partnerOk { s0 with g := {} } 0 1 = false
      ∧ (0xC13FC : Word).toNat % 4 = 0 ∧ (0xC13FC : Word).toNat < 0xC1400 ∧ 0xC1400 ≤ (0xC1400 : Word).toNat
      ∧ (repairOffsets (s0.core 0)).contains (0xC13FC : Word).toNat = false ∧ (s0.core 0).count < 64
      ∧ (repairOffsets (appendRepair (s0.core 0) 0xC13FC)).contains (0xC13FC : Word).toNat = true
      ∧ ({ s0.core 0 with count := 64 } : Core).count = 64 ∧ s0.g.life = .live := by
  decide +kernel

/-- A core where a diagnostic group runs, and one where none does; a line that a pending access names, and one that none does. -/
theorem witness_append_and_ecc :
    (coreResidents (sDiag 0 0) 0).any (·.diag) = true ∧ (coreResidents (sDiag 0 0) 1).any (·.diag) = false
      ∧ lineAwaited sBusy ((B + 0x4040008) / 64) = true ∧ lineAwaited sBusy ((B + 0x4050000) / 64) = false := by
  decide +kernel

/-- The last queue pair of the last port, bound to a queue, and the management pair. -/
def qp : QpId := { pkg := 0, port := 3, qpn := 4095 }
def mp : QpId := { pkg := 0, port := 0, qpn := 2 }
def sQp : State :=
  { sQueue with mem := ringMem 0
                pkgs := [(0, { present := true, ports := 15, qps := [{ port := 3, qpn := 4095, ctx := some (B + 0x100), queue := some QH }] })] }

/-- 16 bytes up to the end of a page; one byte of 8 that a SYSATOM page allows. -/
theorem witness_host_runs :
    (∀ q ∈ [Need.write, Need.read], portUp sQp qp = true ∧ qp.qpn ≠ 2 ∧ ((qpOf sQp qp).bind (·.ctx)) = some (B + 0x100)
        ∧ userRun q sQp qp (B + 0x100) 0x4FFF0 16 = some [{ va := 0x4FFF0, pa := B + 0x404FFF0, pte := B + 0x400009F, n := 16 }]
        ∧ userRun q sQp qp (B + 0x100) 0x4FFF8 1 = some [{ va := 0x4FFF8, pa := B + 0x404FFF8, pte := B + 0x400009F, n := 1 }])
      ∧ heldBack sQp [{ va := 0x4FFF0, pa := B + 0x404FFF0, pte := B + 0x400009F, n := 16 }] = false
      ∧ heldBack sQp [{ va := 0x4FFF8, pa := B + 0x404FFF8, pte := B + 0x400009F, n := 1 }] = false
      ∧ pteSysAtom (B + 0x400009F) = true ∧ 0x4FFF8 % 8 = 0 := by
  decide +kernel

/-- One byte of 8 that a SYSATOM page allows, but off their alignment. -/
theorem witness_refused_atomic :
    userRun .write sQp qp (B + 0x100) 0x4FFF9 1 = some [{ va := 0x4FFF9, pa := B + 0x404FFF9, pte := B + 0x400009F, n := 1 }]
      ∧ 0x4FFF9 % 8 ≠ 0 ∧ heldBack sQp [{ va := 0x4FFF9, pa := B + 0x404FFF9, pte := B + 0x400009F, n := 1 }] = false := by
  decide +kernel

theorem witness_management : portUp sQp mp = true ∧ mp.qpn = 2 ∧ hostMayWrite 0x4FF8 8 = true ∧ hostMayWrite 0x4FF9 8 = false := by
  decide +kernel

theorem witness_send :
    portUp sQp qp = true ∧ ((qpOf sQp qp).bind (·.queue)) = some QH ∧ (∃ jq ∈ (sQp.home (homeOfPa QH)).queues, jq.hdr = QH)
      ∧ takesTraffic sQp (homeOfPa QH) = true := by
  refine ⟨by decide +kernel, by decide +kernel, ⟨queue0, by decide +kernel⟩, by decide +kernel⟩

/-- A request of the port, the tail of its queue at n. -/
def sReq (n : Nat) (r : HostReq) : State :=
  { sQp with mem := ringMem n
             pkgs := [(0, { present := true, ports := 15, reqs := [r], qps := [{ port := 3, qpn := 4095, ctx := some (B + 0x100), queue := some QH }] })] }
def req (op : HostOp) (ls : List HostLine) : HostReq := { id := 9, port := 3, qpn := 4095, op := op, lines := ls }

/-- A step at a home that holds host traffic back. -/
theorem witness_host_held :
    let l : HostLine := { at_ := 0, pa := B + 0x4040038, pte := B + 0x400009F, n := 8, bytes := [] }
    let s := { sReq 1 (req (.read 8) [l]) with homes := [(0, { st := .drained, held := true })] }
    Rules.hostTurn s 0 0 (req (.read 8) [l]) ∧ (([l] : List HostLine).find? fun x => homeOfPa x.pa == 0) = some l ∧ Rules.lineSound s l
      ∧ takesTraffic s 0 = false := by
  unfold Rules.hostTurn Rules.lineSound; decide +kernel

/-- A SEND whose card stands in its slot. -/
theorem witness_send_ends :
    let r := req (.send QH (List.replicate 128 7) (some 0)) []
    Rules.mayStep (sReq 0 r) 0 (homeOfPa QH) r ∧ stillPending (sReq 0 r) r.id = false ∧ QH % 64 = 0 ∧ paTier QH < 2 := by
  unfold Rules.mayStep Rules.hostTurn; decide +kernel

/-- The last bytes of a line, of a WRITE, a card, a READ and two atomics; requests without steps left. -/
theorem witness_host_steps :
    let l : HostLine := { at_ := 0, pa := B + 0x4040038, pte := B + 0x400009F, n := 8, bytes := List.replicate 8 7 }
    let card := List.replicate 128 (7 : Byte)
    (∀ op ∈ [HostOp.write, .send QH card (some 0), .read 8, .fetchAdd 3, .compareSwap 0 3],
        ((sReq 1 (req op [l])).pkg 0).reqs.find? (fun x => x.id == 9) = some (req op [l]) ∧ inTurn ((sReq 1 (req op [l])).pkg 0) 0 (req op [l]) = true
          ∧ delivers (sReq 1 (req op [l])) 0 0 = true ∧ ((req op [l]).lines.find? fun x => homeOfPa x.pa == 0) = some l
          ∧ paTier l.pa < 3 ∧ l.bytes.length = l.n ∧ 0 < l.n ∧ l.pa % 64 + l.n ≤ 64 ∧ l.pa % 8 = 0
          ∧ (∀ i, i < l.n → hostKey (sReq 1 (req op [l])) (l.pa + i) = none) ∧ (∀ i, i < l.n → poisonedLine (sReq 1 (req op [l])) ((l.pa + i) / 64) = false ∧ paTier (l.pa + i) < 3)
          ∧ stillPending (sReq 1 (req op [])) 9 = false)
      ∧ (let r := req (.send QH card none) []
         ((sReq 0 r).pkg 0).reqs.find? (fun x => x.id == 9) = some r ∧ inTurn ((sReq 0 r).pkg 0) 0 r = true ∧ homeOfPa QH = 0
          ∧ card.length = 128 ∧ ((sReq 0 r).home 0).queues.find? (fun x => x.hdr == QH) = some queue0
          ∧ queueWaiting (sReq 0 r) QH < 2 ^ queueLog (sReq 0 r) QH
          ∧ cardSpot (sReq 0 r) 0 queue0.ctx .write (queueSlotVa (sReq 0 r) QH (Bytes.readN (sReq 0 r).mem QH 8)) = some (B + 0x4060000, B + 0x400009F)
          ∧ 2 ^ queueLog (sReq 1 r) QH ≤ queueWaiting (sReq 1 r) QH) := by
  decide +kernel
/-! ### Commands, bring-up, the step -/

/-- A command of some arguments, in the last entry of package 0's ring. -/
def args (a0 a1 a2 a3 : Nat) : CmdArgs :=
  { pkg := 0, a0 := BitVec.ofNat 64 a0, a1 := BitVec.ofNat 64 a1, a2 := BitVec.ofNat 64 a2, a3 := BitVec.ofNat 64 a3, a4 := 0, a5 := 0, a6 := 0 }

def cmdPage (code : Nat) (c : CmdArgs) : Bytes :=
  Bytes.writeN (Bytes.writeN (Bytes.writeN (Bytes.writeN (Bytes.writeN (Bytes.writeN [] 0x108 8 (2 ^ 64 - 1)) 0x4FC0 1 code)
    0x4FC8 8 c.a0.toNat) 0x4FD0 8 c.a1.toNat) 0x4FD8 8 c.a2.toNat) 0x4FE0 8 c.a3.toNat

/-- The machine `s` with that command, its dies in a stage. -/
def withCmd (code : Nat) (c : CmdArgs) (s : State) : State :=
  { s with pkgs := [(0, { present := true, page := cmdPage code c, dies := (List.range 6).map fun d => (d, { stage := 4, identity := true }) })] }

def readyCmd (code : Nat) (c : CmdArgs) (s : State) : Bool :=
  cmdPending (withCmd code c s) 0 && cmdCode (withCmd code c s) 0 == code && cmdArgs (withCmd code c s) 0 == c

theorem witness_regq :
    let c := args QH (B + 0x100) 0x11000 0
    let s := withCmd 1 c { sQueue with homes := s0.homes }
    readyCmd 1 c { sQueue with homes := s0.homes } = true ∧ memRun s QH 64 = true ∧ homePkg (homeOfPa QH) = 0
      ∧ contextBad s (B + 0x100) (homeOfPa QH) = false ∧ ringOk s (homeOfPa QH) (B + 0x100) QH = true ∧ overflowOk s (homeOfPa QH) c = true
      ∧ binds c = false
      ∧ takesQueues s (homeOfPa QH) = true ∧ freeQueue s (homeOfPa QH) QH = some 0 := by
  decide +kernel

/-- A queue that binds queue pair 4095 of port 3, which is new. -/
theorem witness_regq_binds :
    let c : CmdArgs := { args QH (B + 0x100) 0x11000 0 with a5 := 0x80030FFF }
    binds c = true ∧ bindQpn c = 4095 ∧ bindPort c = 3 ∧ ∀ y ∈ (s0.pkg 0).qps, ¬(y.port = bindPort c ∧ y.qpn = bindQpn c) := by
  decide +kernel

theorem witness_unregq : readyCmd 2 (args QH 0 0 0) sQueue = true ∧ queueHome (withCmd 2 (args QH 0 0 0) sQueue) 0 QH = some (0, queue0) := by
  decide +kernel

theorem witness_preempt_resume_kill :
    (readyCmd 3 (args 0 7 0 0) s0 = true ∧ onPackage 0 s0.g = true ∧ s0.g.gid.setWidth 64 = (args 0 7 0 0).a1 ∧ s0.g ∈ s0.groups
        ∧ s0.g.diag = false ∧ s0.g.life = .live)
      ∧ (let s := withG fun g => { g with life := .saved, sp := { g.sp with part := none, stopped := true } }
         readyCmd 4 (args 0 7 0 0) s = true ∧ s.g.life = .saved ∧ s.g.team = none ∧ s.g.tileRows = 0 ∧ s.g.seams = [] ∧ s.g.sibs = []
          ∧ s.g.sp.status ≠ .atSeam ∧ s.g.sp.watch = none ∧ s.g.sp.sent = none ∧ s.others = [])
      ∧ readyCmd 5 (args 0 7 0 0) s0 = true := by
  decide +kernel

/-- The GRPID names the group; a saved group whose split is recorded at another home. -/
theorem witness_named_and_elsewhere :
    Rules.requested (withCmd 3 (args 0 7 0 0) s0) 0 0 7 7 s0.g
      ∧ (let s := withG fun g => { g with life := .saved, sp := { g.sp with part := none, stopped := true, home := 1 } }
         readyCmd 4 (args 0 7 0 0) s = true ∧ s.g.tileRows = 0 ∧ s.g.sp.home ≠ s.g.baseHome) := by
  refine ⟨.inl ⟨by unfold Rules.named; decide +kernel, by decide +kernel, .inl (by decide +kernel)⟩, by decide +kernel⟩

/-- A log whose second slot holds a committed record of an empty region, with SEQ 1. -/
def logRecord : List Byte := recordHead 1 0x4000100 0 0x10000 9 2
def sReplay : State := { sQueue with mem := ((ringMem 1).write (logPa + 0x80) logRecord).writeN (logPa + 0xB0) 8 (crc64 logRecord).toNat }

theorem witness_replay :
    let c := args QH 0x60080 0x4000000 0
    let s := withCmd 6 c sReplay
    (match readLog 0 queue0.ctx c.a2.toNat s with
      | some u => cardCode u 0 queue0.ctx queue0.boot (slotNow u slot1) == 0 && oneTeam (slotNow u slot1)
          && selectedRecord u 0 queue0.ctx c.a2.toNat == some (1, 0x10000, 9)
      | none => false) = true
      ∧ readLog 0 queue0.ctx c.a2.toNat { s with poison := [(logPa / 64, true)], mirrors := [(6, pkt 9 [(mirrorOf s logPa, 1)])] } = none
      ∧ readyCmd 6 c sReplay = true ∧ queueHome s 0 QH = some (0, queue0) ∧ c.a1.toNat % 128 = 0
      ∧ cardSpot s 0 queue0.ctx .read c.a1.toNat = some (slot1, B + 0x400009F) ∧ cardCode s 0 queue0.ctx queue0.boot (slotNow s slot1) = 0
      ∧ oneTeam (slotNow s slot1) = true ∧ selectedRecord s 0 queue0.ctx c.a2.toNat = some (1, 0x10000, 9)
      ∧ (s.cards.filter fun x => x.home == 0).length < 256 := by
  decide +kernel

/-- Home 11 in a state. -/
def sHome11 (st : HomeState) : State := { s0 with g := {}, homes := [(11, { st := st })] }

theorem witness_home_commands :
    ((args 11 0 0 0).a0.toNat < 12 ∧ 11 = (args 11 0 0 0).pkg * 16 + (args 11 0 0 0).a0.toNat)
      ∧ (readyCmd 7 (args 11 0 0 0) (sHome11 .ready) = true ∧ ((sHome11 .ready).home 11).st = .ready ∧ ((sHome11 .ready).home 11).queues = [])
      ∧ (∀ st ∈ [HomeState.drained, .ready], readyCmd 9 (args 11 0 0 0) (sHome11 st) = true ∧ ((sHome11 st).home 11).st = st)
      ∧ (readyCmd 8 (args 11 B 0x1000 0) (sHome11 .drained) = true
          ∧ memRun (withCmd 8 (args 11 B 0x1000 0) (sHome11 .drained)) (args 11 B 0x1000 0).a1.toNat (args 11 B 0x1000 0).a2.toNat = true)
      ∧ (readyCmd 0xB (args 11 B 256 0) (sHome11 .ready) = true ∧ (args 11 B 256 0).a2.toNat ≤ 256
          ∧ memRun (withCmd 0xB (args 11 B 256 0) (sHome11 .ready)) B (16 * 256) = true)
      ∧ (readyCmd 0xC (args 11 63 (2 ^ 44 - 2 ^ 16) (2 ^ 16)) (sHome11 .ready) = true ∧ (63 : Nat) < 64 ∧ (2 ^ 44 - 2 ^ 16) + 2 ^ 16 ≤ 2 ^ 44)
      ∧ (readyCmd 0xC (args 11 63 (2 ^ 44) 0) (sHome11 .ready) = true ∧ (args 11 63 (2 ^ 44) 0).a3 = 0)
      ∧ readyCmd 0xF (args 11 0 0 0) (sHome11 .ready) = true ∧ partnerOk (withCmd 0xF (args 11 0 0 0) (sHome11 .ready)) 11 0 = true := by
  decide +kernel

/-- A route table of a package that is alone, and of two, at the last 128 bytes of a channel. -/
theorem witness_route :
    let a := B + 192 * 2 ^ 30 - 128
    let c := args a 0 0 0
    let s := withCmd 0xA c s0
    let two := { s with pkgs := s.pkgs ++ [(1, { present := true })], mem := tables.writeN (a + 8) 8 0x804000 }
    readyCmd 0xA c s0 = true ∧ memRun s a 128 = true ∧ routeOk s 0 ((List.range 16).map fun d => s.mem.readN (a + 8 * d) 8) = true
      ∧ memRun two a 128 = true ∧ routeOk two 0 ((List.range 16).map fun d => two.mem.readN (a + 8 * d) 8) = true := by
  decide +kernel

theorem witness_attest :
    let c := args B (B + 0x1000) 0 0
    let s := withCmd 0xD c s0
    readyCmd 0xD c s0 = true ∧ memRun s B 32 = true ∧ memRun s (B + 0x1000) 3469 = true ∧ hasIdentity s 0 = true := by
  decide +kernel

theorem witness_move_command :
    let c := args leaf0 dest0 0 0
    let s := withCmd 0xE c s0
    let h := homeOfPa (servedFrame s (B + 0x20001F))
    let u := s.setHome h fun x => { x with mvPte := c.a0, mvDest := c.a1 }
    readyCmd 0xE c s0 = true ∧ c.a0.toNat % 8 = 0 ∧ leafAt s c.a0.toNat = some (B + 0x20001F, 2 ^ 16) ∧ h = 0
      ∧ moveCode s h c.a0.toNat c.a1.toNat = 0 ∧ moveCode u h c.a0.toNat c.a1.toNat = 0 ∧ leafAt u c.a0.toNat = some (B + 0x20001F, 2 ^ 16) := by
  decide +kernel

/-- The last page or line; everything; a request that waits; codes around the table. -/
theorem witness_invalidation_commands :
    (∀ k ∈ [0x10, 0x11], readyCmd k (args (B + 0x100) (2 ^ 56 - 1) 1 0) s0 = true ∧ readyCmd k (args (B + 0x100) 0 0 0) s0 = true)
      ∧ memRun (withCmd 0x10 (args (B + 0x100) (2 ^ 56 - 1) 1 0) s0) (B + 0x100) 64 = true ∧ (B + 0x100) % 64 = 0
      ∧ (let v : Inval := { id := 9, icache := false, ctx := some (B + 0x100), lo := 0, hi := 2 ^ 26, home := 0, cmd := none }
         let s := { withSp (fun p => { p with inval := some 9 }) with invals := [v] }
         (s.invals.find? fun y => y.id == v.id) = some v ∧ v.icache = false ∧ s.g.sp.inval = some v.id ∧ allReached s v.home = true
           ∧ allReached { s with pkgs := s0.pkgs ++ [(1, { present := true })] } v.home = false)
      ∧ readyCmd 0 (args 0 0 0 0) s0 = true ∧ readyCmd 0x12 (args 0 0 0 0) s0 = true := by
  decide +kernel

/-- A package of which die 5 stands in a stage. -/
def sStage (n : Nat) (page : Bytes) : State :=
  { s0 with g := {}, homes := [], pkgs := [(0, { present := true, page := page, dies := [(0, { stage := 4 }), (5, { stage := n })] })] }

theorem witness_bring_up :
    (s0.pkg (15 : BitVec 4).toNat).present = false ∧ (s0.pkg (0 : BitVec 4).toNat).present = true ∧ inStage (sStage 0 []) 0 5 0 = true ∧ inStage (sStage 1 []) 0 5 1 = true
      ∧ (inStage (sStage 2 []) 0 5 2 = true ∧ diagnosed (sStage 2 []) 0 5 = true)
      ∧ (inStage (sStage 3 []) (homePkg 11) (homeDie 11) 3 = true ∧ ((sStage 3 []).home 11).st = .down ∧ 11 % 16 < 12
          ∧ (homeCores 11).all (coreMarked (sStage 3 [])) = false)
      ∧ (homeCores 11).all (coreMarked (sStage 3 (Bytes.writeN [] (0x18 + 8 * 11) 8 (2 ^ 40 - 1)))) = true
      ∧ (let s := sHome11 .draining
         (s.home 11).st = .draining ∧ homeEmpty s 11 = true)
      ∧ ∀ x ∈ s0.cards, x.diag = false := by
  decide +kernel

/-- The record of a forwarded diagnostic card that belongs to core 0, which holds no group. -/
theorem witness_core_reset :
    let x : Card := { card0 with diag := true, records := 40, grpRec := 1, ranges := [{ owner := 0, recs := [(0, 40)], routed := true }] }
    let s := { s0 with g := {}, cards := [x] }
    homePkg x.home = homePkg (coreHome 0) ∧ (0 : Nat) = coreHome 0 ∧ 40 * (coreHome 0 % 16) + 0 % 64 < 40 ∧ coreResidents s 0 = [] := by
  decide +kernel

/-- A split whose next instruction is the addition of s1 and s2. -/
def sStep : State :=
  { withSp (fun p => { p with clause := { p.clause with words := words (.sadd 3 1 2) } }) with agenda := [.run 7 0] }

theorem witness_step :
    let s := { sStep with agenda := [] }
    let u := withLength s
    sStep.agenda = .run s.g.gid s.g.sp.idx :: [] ∧ mayGo s.g = true ∧ s.g.sp.clause.stage = .issued ∧ onPath s.g = none
      ∧ overruns u.g = false ∧ decode s.g.sp.clause.hdr.cls (s.g.sp.clause.words.drop s.g.sp.clause.pos) = .ok (.sadd 3 1 2)
      ∧ faultInWait (.sadd 3 1 2) u = none ∧ hazard (uses u (.sadd 3 1 2)) u.g = false ∧ awaitsLoads u (.sadd 3 1 2) = false
      ∧ closes u (.sadd 3 1 2) (uses u (.sadd 3 1 2)) = false ∧ poisonRead u (.sadd 3 1 2) = none ∧ countsAsOne u = false := by
  decide +kernel

/-- The step of that state adds; its expected sum is 0x40000 + 3. -/
theorem test_step_runs_the_instruction :
    (match step sStep with
     | .next t => readS t 3 == 0x40003 && t.g.sp.clause.pos == 1 && t.g.sp.safe == 1
     | _ => false) = true := by
  decide +kernel

theorem witness_round_trip : WellFormed (.sadd 63 1 2) = true ∧ Rules.isStep (.sadd 63 1 2) = false ∧ encode (.sadd 63 1 2) = some (.sctl, [0x17F04200]) := by
  decide +kernel

theorem witness_canonical : Memory.wf sStep.mem = true
    ∧ (match step sStep with
       | .next _ => true
       | _ => false) = true := by
  decide +kernel

end Sys2Proof.Tests
end

section
/-! SCMP (05 R85, Table 5.3): its conditions as comparisons of numbers, the fields of its word, and the illegal-instruction trap of
a word of a reserved FN. -/

namespace Sys2Proof.Machine

/-! ### The conditions -/

/-- The bit-vector comparisons of the model are the comparisons of integers that Table 5.3 names. -/
theorem scmpHolds_iff (c : SCond) (a b : DWord) : scmpHolds c a b = true ↔ Rules.scmpTrue c a b := by
  cases c with
  | eq => exact beq_iff_eq
  | ne => exact bne_iff_ne
  | lt => exact BitVec.slt_iff_toInt_lt
  | le => exact BitVec.sle_iff_toInt_le
  | gt => exact BitVec.slt_iff_toInt_lt
  | ge => exact BitVec.sle_iff_toInt_le
  | ltu => exact BitVec.ult_iff_toNat_lt
  | leu => exact BitVec.ule_iff_toNat_le
  | gtu => exact BitVec.ult_iff_toNat_lt
  | geu => exact BitVec.ule_iff_toNat_le

theorem exec_scmp (c : SCond) (d a b : SReg) (s : State) :
    exec (.scmp c d a b) s = .next (complete (writeS d (if scmpHolds c (readS s a) (readS s b) then 1 else 0) s)) := rfl

theorem exec_scmp_of_true {c : SCond} {a b : SReg} {s : State} (d : SReg) (h : Rules.scmpTrue c (readS s a) (readS s b)) :
    exec (.scmp c d a b) s = .next (complete (writeS d 1 s)) := by
  rw [exec_scmp, if_pos ((scmpHolds_iff c _ _).mpr h)]

theorem exec_scmp_of_false {c : SCond} {a b : SReg} {s : State} (d : SReg) (h : ¬Rules.scmpTrue c (readS s a) (readS s b)) :
    exec (.scmp c d a b) s = .next (complete (writeS d 0 s)) := by
  rw [exec_scmp, if_neg (mt (scmpHolds_iff c _ _).mp h)]

/-! ### Words of the SR format (02 Table 2.3) -/

theorem opOf_srWord {op d a b fn : Nat} (hop : op < 64) (hd : d < 64) (ha : a < 64) (hb : b < 64) (hfn : fn < 256) :
    opOf (BitVec.ofNat 32 (op * 2 ^ 26 + d * 2 ^ 20 + a * 2 ^ 14 + b * 2 ^ 8 + fn)) = op := by
  simp only [opOf, fld, BitVec.toNat_ofNat]
  omega

theorem fn_srWord (op d a b : Nat) {fn : Nat} (hfn : fn < 256) :
    fld (BitVec.ofNat 32 (op * 2 ^ 26 + d * 2 ^ 20 + a * 2 ^ 14 + b * 2 ^ 8 + fn)) 0 8 = fn := by
  simp only [fld, BitVec.toNat_ofNat]
  omega

/-! ### Reserved encodings -/

/-- The codes behind those of Table 5.3 name no condition. -/
theorem scondOf_reserved {n : Nat} (h : 10 ≤ n) : scondOf n = none := by
  obtain ⟨k, rfl⟩ := Nat.exists_eq_add_of_le' h
  rfl

theorem decode_scmp_reserved {w : Word} (rest : List Word) (hop : opOf w = 0x18) (hfn : 10 ≤ fld w 0 8) :
    decode .sctl (w :: rest) = .error .illegalInstruction := by
  have hcount : wordCount .sctl w = 1 := by simp [wordCount, hop]
  have hnone : decodeIn .sctl w rest = none := by simp [decodeIn, decodeSctl, hop, scondOf_reserved hfn]
  simp [decode, hcount, hnone]

/-- Words that form no instruction raise the illegal-instruction trap (02 R43). -/
theorem runInstr_of_reject {s : State} {r : Reject} (mismatch : Bool) (h : nextInstr s.g.sp = .error r) :
    runInstr mismatch s = .next (Rules.trapsAt 0x02 3 0 0 (withLength s)) := by
  have hlen : nextInstr (withLength s).g.sp = .error r := h
  simp only [runInstr, hlen]
  rfl

/-- Settles O2: the conditions agree case by case, and a word of another FN does not decode. -/
theorem scmpWritesCondition : Obligations.ScmpWritesCondition := by
  unfold Obligations.ScmpWritesCondition
  refine ⟨fun s c d a b => ⟨exec_scmp_of_true d, exec_scmp_of_false d⟩, ?_⟩
  intro s d a b fn rest hlow hfn hcls hwords
  have hop := opOf_srWord (op := 0x18) (by decide) d.isLt a.isLt b.isLt hfn
  have hfield := fn_srWord 0x18 d.toNat a.toNat b.toNat hfn
  have hreject : nextInstr s.g.sp = .error .illegalInstruction := by
    rw [nextInstr, wordsLeft, hcls, hwords]
    exact decode_scmp_reserved rest hop (hlow.trans_eq hfield.symm)
  exact runInstr_of_reject false hreject

end Sys2Proof.Machine
end

section
/-! FUNSH (07 R126): what a 32-bit vector result leaves in each lane of each register, and the shift of the concatenation. -/

namespace Sys2Proof.Machine

/-! ### Lanes of a vector register after a write -/

@[simp] theorem lane_setSp (s : State) (u : Split → Split) (q l : Nat) : (s.setSp u).g.lane q l = s.g.lane q l := rfl
@[simp] theorem lane_complete (s : State) (q l : Nat) : (complete s).g.lane q l = s.g.lane q l := rfl
@[simp] theorem lane_raiseFlags (x : Word) (s : State) (q l : Nat) : (raiseFlags x s).g.lane q l = s.g.lane q l := rfl

theorem mem_lanesOf {m : LaneSet} {l : Nat} : l ∈ lanesOf m ↔ l < 32 ∧ m.getLsbD l = true := by
  simp [lanesOf, allLanes]

/-- Lanes below 32 of the registers have keys of their own. -/
theorem vkey_inj {r q l k : Nat} (hl : l < 32) (hk : k < 32) : vkey r l = vkey q k ↔ r = q ∧ l = k := by
  unfold vkey
  omega

theorem get_setLanes (d q : Nat) {l : Nat} (hl : l < 32) (r : Nat → Word) (ls : List Nat) (hls : ∀ k ∈ ls, k < 32) (v : Cells Word) :
    Cells.get 0 (setLanes d ls r v) (vkey q l) = if l ∈ ls ∧ q = d then r l else Cells.get 0 v (vkey q l) := by
  induction ls generalizing v with
  | nil => simp [setLanes]
  | cons k ks ih =>
    obtain ⟨hk, hks⟩ := List.forall_mem_cons.mp hls
    have hkey := vkey_inj (r := q) (q := d) hl hk
    calc Cells.get 0 (setLanes d (k :: ks) r v) (vkey q l)
        = Cells.get 0 (setLanes d ks r (Cells.set 0 v (vkey d k) (r k))) (vkey q l) := rfl
      _ = _ := by
        simp only [ih hks, Cells.get_set, hkey]
        rcases eq_or_ne l k with rfl | hlk
        · by_cases hq : q = d <;> simp [hq]
        · simp [hlk]

theorem lane_writeV (d : Nat) (m : LaneSet) (r : Nat → Word) (s : State) (q : Nat) {l : Nat} (hl : l < 32) :
    (writeV d m r s).g.lane q l = if m.getLsbD l = true ∧ q = d then r l else s.g.lane q l := by
  calc (writeV d m r s).g.lane q l
      = Cells.get 0 (setLanes d (lanesOf m) r s.g.v) (vkey q l) := rfl
    _ = if l ∈ lanesOf m ∧ q = d then r l else s.g.lane q l :=
      get_setLanes d q hl r (lanesOf m) (fun k hk => (mem_lanesOf.mp hk).1) s.g.v
    _ = _ := by simp only [mem_lanesOf, hl, true_and]

/-- A 32-bit result reaches the active lanes of its destination, and no lane when NWB is set (R36). -/
theorem lane_result32 (nwb : Bool) (d : VReg) (r : Nat → Word) (s : State) (q : Nat) {l : Nat} (hl : l < 32) :
    (result32 nwb d r s).g.lane q l
      = if s.active.getLsbD l = true ∧ nwb = false ∧ q = d.toNat then r l else s.g.lane q l := by
  cases nwb with
  | true => simp [result32]
  | false => simp [result32, lane_writeV _ _ _ _ _ hl]

/-! ### The funnel shift -/

theorem funnel_eq_shift (a b d : Word) : funnel a b d = ((a ++ d : BitVec 64) >>> (b.toNat % 2 ^ 5)).setWidth 32 := by
  have hcat : (a ++ d : BitVec 64).toNat = a.toNat * 2 ^ 32 + d.toNat := by
    rw [BitVec.toNat_append, Nat.shiftLeft_eq, Nat.mul_comm a.toNat, Nat.two_pow_add_eq_or_of_lt d.isLt]
  apply BitVec.eq_of_toNat_eq
  rw [BitVec.toNat_setWidth, BitVec.toNat_ushiftRight, Nat.shiftRight_eq_div_pow, hcat]
  simp [funnel]

theorem exec_funsh_of_legal {s : State} {f : VR} (ha : srcOk s false f.a = true) (hb : srcOk s false f.b = true)
    (hd : regOk s false f.d = true) :
    exec (.funsh f) s
      = finish32 f.nwb f.d (fun l => plain (funnel (src32 s f.a l) (src32 s f.b l) (s.g.lane f.d.toNat l))) s := by
  have h : exec (.funsh f) s = execFunsh f s := rfl
  simp [h, execFunsh, vr32, ha, hb, hd]

/-- FUNSH names two 32-bit sources and a 32-bit destination. -/
theorem legal_funsh {s : State} {f : VR} {q : Rules.VecRule} (hq : Rules.vec s (.funsh f) = some q) (hlegal : q.legal s = true) :
    srcOk s false f.a = true ∧ srcOk s false f.b = true ∧ regOk s false f.d = true := by
  obtain rfl := Option.some.inj hq
  simpa [Rules.VecRule.legal, Rules.three, and_assoc] using hlegal

/-- Settles O10: a legal FUNSH finishes as a 32-bit result whose lanes hold the funnel shift. -/
theorem funshShiftsTheConcatenation : Obligations.FunshShiftsTheConcatenation := by
  unfold Obligations.FunshShiftsTheConcatenation
  intro s f q hq hlegal
  obtain ⟨ha, hb, hd⟩ := legal_funsh hq hlegal
  refine ⟨_, exec_funsh_of_legal ha hb hd, fun r l hl => ?_⟩
  rw [lane_complete, lane_raiseFlags, lane_result32 _ _ _ _ _ hl]
  refine ite_congr rfl (fun h => ?_) fun _ => rfl
  obtain ⟨-, -, rfl⟩ := h
  exact funnel_eq_shift _ _ _

end Sys2Proof.Machine
end
